-- ==== Sys2Proof/Word.lean ====
section
/-! DEFINITION. The words of the MLC-4: bytes, 16, 32 and 64-bit values, line and slot numbers. -/

namespace Sys2Proof

/-- One byte of host memory, one character on a line. -/
abbrev Byte := BitVec 8

/-- A 16-bit field of a record. -/
abbrev Half := BitVec 16

/-- One register of the slave window. -/
abbrev Word := BitVec 32

/-- A 64-bit host address. -/
abbrev Addr := BitVec 64

/-- A line number, 0..3 (Conventions). -/
abbrev LineNo := Fin 4

/-- A slot of a Request Pool, 0..15 (R82). -/
abbrev SlotNo := Fin 16

/-- A sequence number, counted modulo 8 (Conventions). -/
abbrev Seq := BitVec 3

end Sys2Proof
end

