-- ==== Sys2Proof/Syntax.lean ====
section
/-! DEFINITION. The commands the MLC-4 takes: one constructor for each row of spec/opcode_table.json, with its operands. -/

namespace Sys2Proof

/-- A command. Bytes and words are as the bus carries them: their fields are read by Machine/Operands.lean. -/
inductive Instr where
  /-- A host write of `w` to POST (R6). -/
  | post (w : Word)
  /-- A host write of `w` to BASE_HI (`high`) or BASE_LO (R162). -/
  | baseWrite (high : Bool) (w : Word)
  /-- COMMAND code 1 (R165). -/
  | start
  /-- COMMAND code 2 (R167). -/
  | stop
  /-- COMMAND code 3 (R13). -/
  | resumeAdmin
  /-- COMMAND code 4 (R174). -/
  | deviceReset
  /-- A host write of `w` to COMMAND whose code, bits 3..0, is not 1..4 (R164). -/
  | commandInvalid (w : Word)
  /-- The reset input is asserted (R174). -/
  | resetInput
  /-- The reset input is released (R174). -/
  | resetInputRelease
  /-- A read of EVENT (R157). -/
  | take
  /-- A write of EVENT with operation 1 (R158). -/
  | release
  /-- A write of `w` to EVENT with operation 2 (R159). -/
  | setMask (w : Word)
  /-- A write of the slave window that changes nothing (R184): byte offset, number of bytes, word written. -/
  | registerWriteIgnored (offset : BitVec 5) (size : Nat) (w : Word)
  /-- The Host Port starts the next waiting access (R171). -/
  | hostPortAccessStart
  /-- The access in flight fails after `words` of its words were acknowledged (R172); with `startFirst` the start of the
  next waiting access is acted on before the entry into FAULTED (R173). -/
  | busError (words : Nat) (startFirst : Bool)
  /-- The control block read completes with these 512 bytes (R166). -/
  | controlBlockReadDone (block : List Byte)
  /-- The fetch logic of a line claims a record (R85). -/
  | fetchClaim (n : LineNo)
  /-- The read of a line request completes with these 32 bytes (R21). -/
  | takeLineRequest (rec : List Byte)
  /-- The Admin Unit claims a record of SQ0 (R170). -/
  | adminClaim
  /-- The SQ0 read completes with a record whose kind is not 1..9 (R11). -/
  | adminMalformed (rec : List Byte)
  /-- The SQ0 read completes with a LINE_SETUP (R103). -/
  | lineSetup (rec : List Byte)
  /-- The SQ0 read completes with a LINE_DISABLE (R180). -/
  | lineDisable (rec : List Byte)
  /-- The LINE_DISABLE in progress goes as far as it can (R180). -/
  | lineDisableComplete
  /-- The SQ0 read completes with a LINE_RESET (R178). -/
  | lineReset (rec : List Byte)
  /-- The LINE_RESET in progress completes (R179). -/
  | lineResetComplete
  /-- The SQ0 read completes with an ATTACH (R74). -/
  | attach (rec : List Byte)
  /-- The SQ0 read completes with a DETACH (R75). -/
  | detach (rec : List Byte)
  /-- The SQ0 read completes with a STATION_SET (R78). -/
  | stationSet (rec : List Byte)
  /-- The SQ0 read completes with a STATION_READ (R79). -/
  | stationRead (rec : List Byte)
  /-- The snapshot write completes (R79). -/
  | snapshotWriteDone
  /-- The SQ0 read completes with a CANCEL (R175). -/
  | cancel (rec : List Byte)
  /-- The SQ0 read completes with a QUEUE_RESUME (R12). -/
  | queueResume (rec : List Byte)
  /-- The CQ0 record write completes (R147). -/
  | adminCompletionWriteDone
  /-- The Buffer Unit of a line claims a descriptor (R126). -/
  | descriptorClaim (n : LineNo)
  /-- A descriptor read completes with these 16 bytes (R127). -/
  | descriptorReadDone (rec : List Byte)
  /-- The Turn Scheduler of a line makes a selection (R94). -/
  | turnSelection (n : LineNo)
  /-- The retry pending of a line starts (R93). -/
  | retryTurnStart (n : LineNo)
  /-- A payload read completes with these bytes (R106). -/
  | payloadReadDone (payload : List Byte)
  /-- The quiet count of a line reaches the guard (R107). -/
  | guardEnd (n : LineNo)
  /-- The jam timer of a line expires (R108). -/
  | jamTimerExpiry (n : LineNo)
  /-- The stop bit of END has been sent (R110). -/
  | sendDone (n : LineNo)
  /-- The receiver of a line completes a character (R38): with a framing error or not, its start bit seen while DE was
  asserted or not. -/
  | characterReceived (n : LineNo) (ch : Byte) (framing : Bool) (underDe : Bool)
  /-- The reply timer of a line expires (R111). -/
  | replyTimerExpiry (n : LineNo)
  /-- The gap timer of a line expires (R51). -/
  | gapTimerExpiry (n : LineNo)
  /-- A data write into a reserved buffer completes (R130). -/
  | bufferWriteDone
  /-- An answer write completes (R132). -/
  | answerWriteDone
  /-- The poll timer of a line expires (R98). -/
  | pollTimerExpiry (n : LineNo)
  /-- A station's holdoff deadline is reached (R70). -/
  | holdoffDeadlineReached (n : LineNo) (address : Byte)
  /-- The query-poll due time of a station's ANSWERING head is reached (R97). -/
  | queryPollDue (n : LineNo) (address : Byte)
  /-- The answer deadline of a station's ANSWERING head is reached (R121). -/
  | answerDeadline (n : LineNo) (address : Byte)
  /-- The front DONE slot of a line enters the posting queue (R140). -/
  | slotEntersQueue (n : LineNo)
  /-- The Posting Path of a line begins writing its front record (R141). -/
  | recordWriteStart (n : LineNo)
  /-- A completion ring record write of a line completes (R142). -/
  | recordWriteDone
  /-- The Event Unit begins writing its head record (R152). -/
  | eventWriteStart
  /-- The ER record write completes (R152). -/
  | eventWriteDone
  /-- The drain is complete and the device leaves STOPPING (R169). -/
  | drainComplete
  deriving DecidableEq, Repr

end Sys2Proof
end

