-- ==== Sys2Proof/Decode.lean ====
section
/-! DEFINITION. The command that a word of the opcode table spells. No row of this table gives bits. -/

namespace Sys2Proof

/-- spec/opcode_table.json gives none of its 56 rows any bits (its "fields" are empty): no word spells a command. -/
def decodeTableWord (_nbits _w : Nat) : Option Instr := none

end Sys2Proof
end

