-- ==== Sys2Proof/Config.lean ====
section
/-! DEFINITION. What an implementation fixes, and the free values: nothing in Lean can evaluate them. -/

namespace Sys2Proof

/-- FREE VALUE (log entry 5): how many words of the access in flight the host system had acknowledged when a device reset
stopped it at the next word boundary (R171, R15); the argument counts the draws. -/
opaque Config.wordsBeforeReset : Nat → Nat

/-- FREE VALUE (log entry 26): how many words of a record stand in host memory when its write, in flight at the entry into
FAULTED, completes on the bus (R32: partly present); the argument counts the draws. -/
opaque Config.wordsInFaulted : Nat → Nat

end Sys2Proof
end

