-- ==== Sys2Proof/Machine/State.lean ====
section
/-! DEFINITION. The state of the MLC-4, as plain data, and its value after reset. -/

namespace Sys2Proof.Machine

/-! ### Names the spec numbers (Figure 13-9) -/

/-- Device states (Figure 10-1). -/
inductive DeviceState where
  | idle | starting | running | stopping | faulted
  deriving DecidableEq, Repr

/-- Last-command result (Figure 10-2). -/
inductive CommandResult where
  | none | accepted | refused | startInvalid
  deriving DecidableEq, Repr

/-- Fault codes (Figure 10-6). -/
inductive FaultCode where
  | none | controlBlockRead | requestFetch | payloadRead | bufferFetch | recordWrite | dataWrite | eventWrite | snapshotWrite
  deriving DecidableEq, Repr

/-- Ring states (Figure 1-2). -/
inductive RingState where
  | absent | active | halted
  deriving DecidableEq, Repr

/-- Kinds of line request (Figure 2-1); a malformed record may carry any other code. -/
inductive RequestKind where
  | send | query | resync | broadcast
  | other (code : Byte)
  deriving DecidableEq, Repr

/-- Line status codes (Figure 2-8). -/
inductive LineStatus where
  | ok | noReply | refused | offline | noStation | detached | cancelled | aborted | malformed | answerTimeout
  deriving DecidableEq, Repr

/-- Admin status codes (Figure 2-9). -/
inductive AdminStatus where
  | ok | aborted | malformed | badParam | duplicate | tableFull | notFound | wrongState | tooLate
  deriving DecidableEq, Repr

/-- Frame kinds the master sends (Figure 3-4). -/
inductive FrameKind where
  | poll | select | reset | broadcast
  deriving DecidableEq, Repr

/-- Liveness states (Figure 4-3). -/
inductive Liveness where
  | unknown | online | suspect | offline
  deriving DecidableEq, Repr

/-- Event kinds that have records (Figure 9-2). -/
inductive EventKind where
  | lineJammed | stationOnline | stationSuspect | stationOffline | stationOutOfStep | protocolError
  | queueHalted | buffersExhausted | lineHeld | postRejected
  deriving DecidableEq, Repr

/-! ### Rings (Section 1) -/

/-- A submission or buffer ring as the part keeps it (R1, R2, R3). -/
structure HostRing where
  base : Addr
  count : Nat
  state : RingState
  /-- consumer index c -/
  c : Nat
  /-- posted producer index p -/
  p : Nat
  deriving DecidableEq, Repr

/-- A completion ring or the event ring as the part keeps it (R1, R2, R4). -/
structure PartRing where
  base : Addr
  count : Nat
  state : RingState
  /-- producer index P -/
  producer : Nat
  /-- lap value L -/
  lap : Bool
  /-- posted consumer index C -/
  consumer : Nat
  /-- unconsumed count U -/
  unconsumed : Nat
  deriving DecidableEq, Repr

/-- R15: absent, indices 0. -/
def HostRing.reset : HostRing := ⟨0, 0, .absent, 0, 0⟩

/-- R15: absent, indices 0, lap 1. -/
def PartRing.reset : PartRing := ⟨0, 0, .absent, 0, true, 0, 0⟩

/-! ### Records -/

/-- A completion or arrival record, all of it but the lap flag (Figure 2-6). -/
structure PostRecord where
  /-- record type: COMPLETION 1 or ARRIVAL 2 -/
  rtype : Byte
  ring : Byte
  tag : Half
  status : Byte
  station : Byte
  resent : Bool
  deliveryUnknown : Bool
  truncated : Bool
  length : Byte
  retries : Byte
  deriving DecidableEq, Repr

/-- An event record (R150); its missed count and lap are placed when its write begins (R152). -/
structure EventRecord where
  kind : EventKind
  line : Byte
  station : Byte
  detail : Half
  missed : Nat
  lap : Bool
  deriving DecidableEq, Repr

/-- A buffer descriptor (R125). -/
structure Descriptor where
  address : Addr
  tag : Half
  deriving DecidableEq, Repr

/-! ### The Request Pool (Section 5) -/

/-- States of a held request (R82). -/
inductive RequestState where
  | waiting | active | answering | done
  deriving DecidableEq, Repr

/-- A held request (Figure 5-1). -/
structure Request where
  /-- taken from the urgent ring -/
  urgent : Bool
  tag : Half
  kind : RequestKind
  station : Byte
  payloadAddr : Addr
  payloadLen : Half
  answerAddr : Addr
  answerCap : Half
  answerWindow : Half
  /-- the number of the take (R175: "taken earliest") -/
  takeNo : Nat
  state : RequestState
  cancelMark : Bool
  resent : Bool
  deliveryUnknown : Bool
  truncated : Bool
  retriesUsed : Nat
  busyCount : Nat
  answerDeadline : Option Nat
  queryPollDue : Option Nat
  outcome : Option LineStatus
  answerLength : Nat
  deriving DecidableEq, Repr

/-- A slot is free, set aside for a fetch, or holds a request (R82). -/
inductive Slot where
  | free
  | setAside
  | held (r : Request)
  deriving DecidableEq, Repr

/-- A line's Request Pool. -/
structure Pool where
  slots : Vector Slot 16
  /-- DONE slots in the order they became DONE (R84) -/
  doneOrder : List SlotNo
  /-- the broadcast list (R88) -/
  broadcast : List SlotNo
  /-- takes so far (log entry 7) -/
  takes : Nat
  deriving DecidableEq, Repr

/-- A fetch in flight (5.2). -/
structure Fetch where
  urgent : Bool
  slot : SlotNo
  /-- STOP, LINE_RESET or LINE_DISABLE was taken since the claim (R14) -/
  overtaken : Bool
  deriving DecidableEq, Repr

/-! ### The turn in flight (Section 6) -/

/-- Kinds of turn (R105). -/
inductive TurnKind where
  | sync | queryPoll | poll | request | slow
  deriving DecidableEq, Repr

/-- What an exchange keeps from turn to turn (R93, R105). -/
structure Exchange where
  kind : TurnKind
  /-- the station addressed; none for a BROADCAST -/
  station : Option Byte
  /-- the slot the exchange serves -/
  slot : Option SlotNo
  frame : FrameKind
  address : Byte
  control : Byte
  /-- turns made so far, the one in flight included -/
  turns : Nat
  /-- a frame of the exchange has reached the wire, whole or cut (R67, R122) -/
  sent : Bool
  deriving DecidableEq, Repr

/-- Phases of a turn; `store` is the end of RECEIVE while accepted DATA is being written (R112 step 1). -/
inductive Phase where
  | load | guard | send | listen | receive | store
  deriving DecidableEq, Repr

/-- The collector's place within a frame (3.5). -/
inductive Position where
  | address | control | length | payload | checkHigh | checkLow | endMark
  deriving DecidableEq, Repr

/-- The frame collector (3.5). -/
structure Collector where
  /-- a MARK has been received -/
  collecting : Bool
  escape : Bool
  position : Position
  address : Byte
  control : Byte
  length : Byte
  /-- payload bytes still to come -/
  remaining : Nat
  /-- the receive store -/
  store : List Byte
  /-- running check -/
  check : Half
  /-- received check -/
  received : Half
  deriving DecidableEq, Repr

/-- Accepted DATA being written into host memory (R130, R132). -/
structure Store where
  /-- into the answer area of the QUERY the turn serves; else into the reserved buffer -/
  answer : Bool
  seq : Seq
  length : Nat
  truncated : Bool
  deriving DecidableEq, Repr

/-- The turn in flight (R105) with its timers: each holds the moment it ends, or none when it does not run. -/
structure Turn where
  exch : Exchange
  phase : Phase
  /-- the moment the quiet count reaches the guard (R107) -/
  quietEnd : Option Nat
  /-- the jam timer (R108) -/
  jamEnd : Option Nat
  /-- the end of SEND (R110) -/
  sendEnd : Option Nat
  /-- the reply timer (R111) -/
  replyEnd : Option Nat
  /-- the gap timer (R51) -/
  gapEnd : Option Nat
  /-- the characters on TXD from MARK to END while they are sent (R39, R40) -/
  wire : List Byte
  collector : Option Collector
  store : Option Store
  deriving DecidableEq, Repr

/-- What a line's receiver is doing (R38). -/
inductive RxPhase where
  /-- looking for a start bit -/
  | idle
  /-- in a character: whether DE was asserted when its start bit was seen, and the samples taken since -/
  | character (underDe : Bool) (samples : List Bool)
  /-- after a framing error: for how many samples the line has been at level 1 -/
  | hold (ones : Nat)
  deriving DecidableEq, Repr

/-- The receiver of a line (R38): the last level it saw on RXD, and what it is doing. -/
structure Receiver where
  level : Bool
  phase : RxPhase
  deriving DecidableEq, Repr

/-- Line states (Figure 6-1). -/
inductive LineState where
  | disabled
  | idle
  | turn (t : Turn)
  | jammed
  deriving DecidableEq, Repr

/-- The line configuration (R102). -/
structure LineConfig where
  rate : Option (Fin 8)
  bufferSize : Option Nat
  guardChars : Nat
  gapLimit : Nat
  jamLimit : Nat
  pollInterval : Nat
  slowDivisor : Nat
  querySpacing : Nat
  deriving DecidableEq, Repr

/-- The request cursor (R92). -/
inductive RequestCursor where
  | start
  | station (address : Byte)
  | broadcast
  deriving DecidableEq, Repr

/-- The Turn Scheduler of a line (Figure 5-3). -/
structure Scheduler where
  syncCursor : Option Byte
  pollCursor : Option Byte
  slowCursor : Option Byte
  requestCursor : RequestCursor
  /-- the moment of the poll timer's next expiry -/
  pollTimer : Option Nat
  pollDue : Bool
  wraps : Nat
  credit : Bool
  retry : Option Exchange
  deriving DecidableEq, Repr

/-- The Buffer Unit of a line (Figure 7-1). -/
structure BufferUnit where
  cache : List Descriptor
  /-- the oldest cached descriptor is reserved -/
  reserved : Bool
  exhausted : Bool
  /-- a descriptor read in flight, and whether it is to be discarded (R127) -/
  reading : Option Bool
  deriving DecidableEq, Repr

/-- The Posting Path of a line (Figure 8-1); its ring values are the completion ring's. -/
structure PostingPath where
  queue : List PostRecord
  reservation : Bool
  writing : Bool
  held : Bool
  deriving DecidableEq, Repr

/-- Everything one line has of its own. -/
structure Line where
  config : LineConfig
  state : LineState
  /-- transmit buffer -/
  txBuf : List Byte
  /-- DE output asserted -/
  de : Bool
  rx : Receiver
  /-- urgent-streak counter (R86) -/
  streak : Nat
  fetch : Option Fetch
  pool : Pool
  sched : Scheduler
  buf : BufferUnit
  post : PostingPath
  deriving DecidableEq, Repr

/-! ### The Station Table (Section 4) -/

/-- A station entry (Figure 4-1). -/
structure Station where
  line : LineNo
  address : Byte
  liveness : Liveness
  outOfStep : Bool
  detachPending : Bool
  txSeq : Seq
  rxExpect : Seq
  lastAck : Option Seq
  missCount : Nat
  replyTimeout : Nat
  retryLimit : Nat
  missLimit : Nat
  busyHoldoff : Nat
  busyLimit : Nat
  holdoff : Option Nat
  pending : List SlotNo
  exchanges : Word
  failedTurns : Nat
  protocolErrors : Nat
  deriving DecidableEq, Repr

/-! ### The shared blocks -/

/-- The Control Unit (R162, R163); "admin ring halted" is SQ0's state. -/
structure Control where
  device : DeviceState
  base : Addr
  lastCommand : CommandResult
  invalidRing : BitVec 5
  faultCode : FaultCode
  /-- none stands for 255 -/
  faultLine : Option LineNo
  furtherFault : Bool
  deriving DecidableEq, Repr

/-- The Event Unit (Figure 9-1). -/
structure EventUnit where
  fifo : List EventRecord
  writing : Bool
  missed : Nat
  pending : BitVec 4
  inService : BitVec 4
  mask : BitVec 4
  /-- the interrupt output is asserted -/
  irq : Bool
  deriving DecidableEq, Repr

/-- The admin request in progress (R170, Figure 10-4). -/
inductive AdminWork where
  | none
  /-- claimed, its SQ0 read waiting or in flight -/
  | reading
  /-- a DETACH waiting for the turn in flight to its station (R76) -/
  | detaching (tag : Half) (n : LineNo) (address : Byte)
  /-- a CANCEL waiting for its target's turn to end (R177) -/
  | cancelling (tag : Half) (n : LineNo) (slot : SlotNo)
  /-- a LINE_RESET waiting for the slots it made DONE to enter the posting queue (R179) -/
  | resetting (tag : Half) (n : LineNo) (made : List SlotNo)
  /-- a LINE_DISABLE: whether the line's turn has ended, the status it completes with, the slots it made DONE (R180) -/
  | disabling (tag : Half) (n : LineNo) (turnEnded : Bool) (status : AdminStatus) (made : List SlotNo)
  /-- a STATION_READ waiting for its snapshot write (R79) -/
  | snapshot (tag : Half) (station : Byte)
  /-- executed, its CQ0 write waiting or in flight (R147) -/
  | completing (record : PostRecord)
  deriving DecidableEq, Repr

/-- The Admin Unit (10.5, 8.5). -/
structure AdminUnit where
  work : AdminWork
  /-- the CQ0 reservation is present -/
  reservation : Bool
  deriving DecidableEq, Repr

/-- Kinds of bus-master access (Figure 10-5). -/
inductive AccessKind where
  | controlBlockRead
  | adminRead
  | adminWrite
  | snapshotWrite
  | eventWrite
  | fetchRead (n : LineNo)
  | payloadRead (n : LineNo)
  | descriptorRead (n : LineNo)
  /-- into a reserved buffer -/
  | bufferWrite (n : LineNo)
  /-- into a QUERY's answer area -/
  | answerWrite (n : LineNo)
  | recordWrite (n : LineNo)
  deriving DecidableEq, Repr

/-- A bus-master access, waiting or in flight (R171). -/
structure Access where
  kind : AccessKind
  address : Addr
  length : Nat
  /-- the bytes of a write -/
  data : List Byte
  /-- abandoned by a LINE_RESET while in flight (R122, R133) -/
  abandoned : Bool
  deriving DecidableEq, Repr

/-- The Host Port (R171). -/
structure HostPort where
  inFlight : Option Access
  waiting : List Access
  cursor : Fin 23
  deriving DecidableEq, Repr

/-- The bytes the part has written into host memory: addresses strictly rising; an address not listed has not been written
by the part. -/
abbrev Memory := List Host.Cell

/-- The state of the MLC-4. -/
structure State where
  /-- the commands waiting, first in first out (the task's form) -/
  pending : List Instr
  control : Control
  sq : Vector HostRing 9
  cq : Vector PartRing 5
  bq : Vector HostRing 4
  er : PartRing
  admin : AdminUnit
  port : HostPort
  /-- the entries in attach order; a line's station ring is its entries in this order (R60) -/
  stations : List Station
  lines : Vector Line 4
  events : EventUnit
  /-- the reset input is asserted (R174) -/
  resetHeld : Bool
  /-- the value the last read of EVENT returned (R157) -/
  eventRead : Word
  /-- whole time units counted so far (log entry 3) -/
  now : Nat
  /-- free values drawn so far (log entries 5 and 26) -/
  freeDraws : Nat
  hostMem : Memory
  deriving DecidableEq, Repr

/-- No command of this block ends in a fault: the part answers a failed access by entering its state FAULTED (R172). -/
inductive Fault where
  deriving DecidableEq, Repr

/-- Refusals: only an arm of exec that has no meaning yet raises one (safe: a run stops). -/
inductive Refusal where
  /-- exec's arm for a command not modelled yet; safe -/
  | notModelled (mnemonic : String)
  deriving DecidableEq, Repr

/-! ### Reset values (R174) -/

/-- R102: the defaulted parameters at their defaults, no rate code and no buffer size. -/
def LineConfig.reset : LineConfig := ⟨none, none, 3, 4, 500, 100, 8, 50⟩

/-- R101: cursors at start, poll timer stopped, nothing due, pending or owed. -/
def Scheduler.reset : Scheduler := ⟨none, none, none, .start, none, false, 0, false, none⟩

/-- R101: all slots free. -/
def Pool.reset : Pool := ⟨Vector.replicate 16 .free, [], [], 0⟩

/-- R135. -/
def BufferUnit.reset : BufferUnit := ⟨[], false, false, none⟩

/-- R149. -/
def PostingPath.reset : PostingPath := ⟨[], false, false, false⟩

/-- R38: no character begun; the line counts as having been at level 1 (log entry 24). -/
def Receiver.reset : Receiver := ⟨true, .idle⟩

/-- R124: DISABLED, DE released, everything else of the line cleared. -/
def Line.reset : Line :=
  ⟨.reset, .disabled, [], false, .reset, 0, none, .reset, .reset, .reset, .reset⟩

/-- R174, first point. -/
def Control.reset : Control := ⟨.idle, 0, .none, 0, .none, none, false⟩

/-- R161. -/
def EventUnit.reset : EventUnit := ⟨[], false, 0, 0, 0, 0, false⟩

/-- R174, last point. -/
def AdminUnit.reset : AdminUnit := ⟨.none, false⟩

/-- R171: the cursor names position 22. -/
def HostPort.reset : HostPort := ⟨none, [], 22⟩

/-- The machine right after a device reset, its queue empty. -/
def State.reset : State where
  pending := []
  control := .reset
  sq := Vector.replicate 9 .reset
  cq := Vector.replicate 5 .reset
  bq := Vector.replicate 4 .reset
  er := .reset
  admin := .reset
  port := .reset
  stations := []
  lines := Vector.replicate 4 .reset
  events := .reset
  resetHeld := false
  eventRead := 0
  now := 0
  freeDraws := 0
  hostMem := []

end Sys2Proof.Machine
end

