-- ==== Sys2Proof/Machine/Operands.lean ====
section
/-! DEFINITION. Reading the operands: fields of host-memory records and register words as Section 13 lays them out, their
defaults, and the value checks of Section 2. -/

namespace Sys2Proof.Machine

/-! ### Little-endian fields (Conventions, Byte order) -/

/-- Byte `i` of a record. -/
def byteAt (bs : List Byte) (i : Nat) : Byte := bs.getD i 0

/-- The 16-bit field at byte `i`. -/
def halfAt (bs : List Byte) (i : Nat) : Half := byteAt bs (i + 1) ++ byteAt bs i

/-- The 64-bit field at byte `i`. -/
def addrAt (bs : List Byte) (i : Nat) : Addr :=
  halfAt bs (i + 6) ++ halfAt bs (i + 4) ++ halfAt bs (i + 2) ++ halfAt bs i

/-- The two bytes of a 16-bit field, low byte first. -/
def halfBytes (h : Half) : List Byte := [h.extractLsb' 0 8, h.extractLsb' 8 8]

/-- The four bytes of a 32-bit field, low byte first. -/
def wordBytes (w : Word) : List Byte :=
  [w.extractLsb' 0 8, w.extractLsb' 8 8, w.extractLsb' 16 8, w.extractLsb' 24 8]

/-! ### Register words (Figures 13-1 to 13-3) -/

/-- POST bits 7..0: the ring identifier. -/
def postRing (w : Word) : Byte := w.extractLsb' 0 8

/-- POST bits 31..16: the index, whatever bits 15..8 hold (R184). -/
def postIndex (w : Word) : Nat := (w.extractLsb' 16 16).toNat

/-- COMMAND bits 3..0: the command code. -/
def commandCode (w : Word) : Nat := (w.extractLsb' 0 4).toNat

/-- EVENT write bits 7..4 with bit 4 ignored: the masks of classes 1..3 (R159). -/
def maskBits (w : Word) : BitVec 4 := w.extractLsb' 4 4 &&& 0b1110#4

/-! ### The control block (Figure 13-4) -/

/-- Ring `k`'s base address. -/
def blockBase (block : List Byte) (k : Nat) : Addr := addrAt block (16 * k)

/-- Ring `k`'s entry count. -/
def blockCount (block : List Byte) (k : Nat) : Nat := (halfAt block (16 * k + 8)).toNat

/-- The class mask: bit k masks class k for k in 1..3, bit 0 ignored (R161). -/
def blockMask (block : List Byte) : BitVec 4 := (byteAt block 0x130).extractLsb' 0 4 &&& 0b1110#4

/-- R1: descriptor `k` is acceptable; SQ0, CQ0 and ER (0, 9, 18) must be present. -/
def descriptorOk (block : List Byte) (k : Nat) : Bool :=
  if blockCount block k = 0 then !(k == 0 || k == 9 || k == 18)
  else decide (4 ≤ blockCount block k) && decide (blockCount block k ≤ 4096)
    && decide ((blockBase block k).toNat % 64 = 0)

/-- R166: the lowest identifier whose descriptor fails. -/
def firstInvalid (block : List Byte) : Option Nat :=
  (List.range 19).find? (fun k => !descriptorOk block k)

/-! ### Line requests (Figures 2-1, 13-5) -/

/-- Figure 2-1: the kind codes. -/
def requestKindOf (code : Byte) : RequestKind :=
  if code = 1 then .send
  else if code = 2 then .query
  else if code = 3 then .resync
  else if code = 4 then .broadcast
  else .other code

/-- A kind whose frame carries a payload read from host memory. -/
def RequestKind.hasPayload : RequestKind → Bool
  | .send => true
  | .query => true
  | .broadcast => true
  | .resync => false
  | .other _ => false

def recKind (rec : List Byte) : RequestKind := requestKindOf (byteAt rec 0)
def recStation (rec : List Byte) : Byte := byteAt rec 1
def recTag (rec : List Byte) : Half := halfAt rec 2
def recPayloadLen (rec : List Byte) : Half := halfAt rec 4
def recAnswerCap (rec : List Byte) : Half := halfAt rec 6
def recPayloadAddr (rec : List Byte) : Addr := addrAt rec 8
def recAnswerAddr (rec : List Byte) : Addr := addrAt rec 16
def recAnswerWindow (rec : List Byte) : Half := halfAt rec 24

/-- The payload length is out of range for the kind (R20, test 4). -/
def payloadLenBad (kind : RequestKind) (len : Nat) : Bool :=
  if kind = .resync then decide (len ≠ 0) else decide (len = 0) || decide (240 < len)

/-- R20: the record is malformed. The tests are those of the rule, in its order. -/
def malformed (rec : List Byte) : Bool :=
  (match recKind rec with
    | .other _ => true
    | _ => false)
  || decide ((recStation rec).toNat = 0) || decide (127 < (recStation rec).toNat)
  || (decide ((recStation rec).toNat = 127) != decide (recKind rec = .broadcast))
  || payloadLenBad (recKind rec) (recPayloadLen rec).toNat
  || (decide (recKind rec = .query)
      && (decide ((recAnswerCap rec).toNat = 0) || decide (240 < (recAnswerCap rec).toNat)
        || decide ((recAnswerWindow rec).toNat = 0)))

/-- R22: the slot a take fills, WAITING. A field the kind does not use is not kept (R19). -/
def requestOf (urgent : Bool) (takeNo : Nat) (rec : List Byte) : Request where
  urgent := urgent
  tag := recTag rec
  kind := recKind rec
  station := recStation rec
  payloadAddr := if (recKind rec).hasPayload then recPayloadAddr rec else 0
  payloadLen := recPayloadLen rec
  answerAddr := if recKind rec = .query then recAnswerAddr rec else 0
  answerCap := if recKind rec = .query then recAnswerCap rec else 0
  answerWindow := if recKind rec = .query then recAnswerWindow rec else 0
  takeNo := takeNo
  state := .waiting
  cancelMark := false
  resent := false
  deliveryUnknown := false
  truncated := false
  retriesUsed := 0
  busyCount := 0
  answerDeadline := none
  queryPollDue := none
  outcome := none
  answerLength := 0

/-! ### Admin requests (Figures 2-3, 13-5, 13-6) -/

def adminKind (rec : List Byte) : Nat := (byteAt rec 0).toNat
def adminLine (rec : List Byte) : Nat := (byteAt rec 1).toNat
def adminTag (rec : List Byte) : Half := halfAt rec 2
def adminStation (rec : List Byte) : Byte := byteAt rec 4
def adminDefaults (rec : List Byte) : Bool := (byteAt rec 5).getLsbD 0
def adminClear (rec : List Byte) : Bool := (byteAt rec 5).getLsbD 1
def adminTargetRing (rec : List Byte) : Nat := (byteAt rec 6).toNat
def adminHostArea (rec : List Byte) : Addr := addrAt rec 8
def adminTargetTag (rec : List Byte) : Half := halfAt rec 16

/-- The kind is one of the nine (R28 step 1). -/
def adminKindKnown (rec : List Byte) : Bool := decide (1 ≤ adminKind rec) && decide (adminKind rec ≤ 9)

/-- The line named, when it is 0..3. -/
def adminLineNo (rec : List Byte) : Option LineNo :=
  if h : adminLine rec < 4 then some ⟨adminLine rec, h⟩ else none

/-- Line parameters as the area gives them (Figure 13-6). -/
def lineParamsGiven (rec : List Byte) : LineConfig where
  rate := if h : (byteAt rec 18).toNat < 8 then some ⟨(byteAt rec 18).toNat, h⟩ else none
  bufferSize := some (byteAt rec 19).toNat
  guardChars := (byteAt rec 20).toNat
  gapLimit := (byteAt rec 21).toNat
  jamLimit := (halfAt rec 22).toNat
  pollInterval := (halfAt rec 24).toNat
  slowDivisor := (byteAt rec 26).toNat
  querySpacing := (halfAt rec 28).toNat

/-- R27: the line parameters LINE_SETUP applies; rate code and buffer size always come from the area. -/
def lineParams (rec : List Byte) : LineConfig :=
  if adminDefaults rec then
    { LineConfig.reset with rate := (lineParamsGiven rec).rate, bufferSize := (lineParamsGiven rec).bufferSize }
  else lineParamsGiven rec

/-- A value lies in a range, ends included. -/
def within (lo hi v : Nat) : Bool := decide (lo ≤ v) && decide (v ≤ hi)

/-- Figure 2-4: the line parameters lie in their ranges; the defaults do, so those chosen by R27 are checked. -/
def lineParamsOk (rec : List Byte) : Bool :=
  let p := lineParams rec
  within 0 7 (byteAt rec 18).toNat
  && within 16 240 (byteAt rec 19).toNat && decide ((byteAt rec 19).toNat % 16 = 0)
  && within 1 64 p.guardChars && within 2 32 p.gapLimit && within 1 65535 p.jamLimit
  && within 1 65535 p.pollInterval && within 1 255 p.slowDivisor && within 1 65535 p.querySpacing

/-- R27 with Figure 2-4: reply_timeout. -/
def paramReplyTimeout (rec : List Byte) : Nat := if adminDefaults rec then 200 else (halfAt rec 18).toNat
/-- R27 with Figure 2-4: retry_limit. -/
def paramRetryLimit (rec : List Byte) : Nat := if adminDefaults rec then 3 else (byteAt rec 20).toNat
/-- R27 with Figure 2-4: miss_limit. -/
def paramMissLimit (rec : List Byte) : Nat := if adminDefaults rec then 3 else (byteAt rec 21).toNat
/-- R27 with Figure 2-4: busy_holdoff. -/
def paramBusyHoldoff (rec : List Byte) : Nat := if adminDefaults rec then 100 else (halfAt rec 22).toNat
/-- R27 with Figure 2-4: busy_limit. -/
def paramBusyLimit (rec : List Byte) : Nat := if adminDefaults rec then 8 else (byteAt rec 24).toNat

/-- Figure 2-4: the station parameters lie in their ranges. -/
def stationParamsOk (rec : List Byte) : Bool :=
  within 1 65535 (paramReplyTimeout rec) && within 0 7 (paramRetryLimit rec) && within 1 15 (paramMissLimit rec)
  && within 1 65535 (paramBusyHoldoff rec) && within 0 255 (paramBusyLimit rec)

/-- Figure 2-5: the station address is 1..126. -/
def adminStationOk (rec : List Byte) : Bool := within 1 126 (adminStation rec).toNat

/-- The five parameters of an entry take the values R27 chooses (R74, R78). -/
def Station.withParams (e : Station) (rec : List Byte) : Station :=
  { e with
    replyTimeout := paramReplyTimeout rec, retryLimit := paramRetryLimit rec, missLimit := paramMissLimit rec,
    busyHoldoff := paramBusyHoldoff rec, busyLimit := paramBusyLimit rec }

/-- R74: the entry ATTACH creates. -/
def attachedStation (n : LineNo) (rec : List Byte) : Station where
  line := n
  address := adminStation rec
  liveness := .unknown
  outOfStep := true
  detachPending := false
  txSeq := 0
  rxExpect := 0
  lastAck := none
  missCount := 0
  replyTimeout := paramReplyTimeout rec
  retryLimit := paramRetryLimit rec
  missLimit := paramMissLimit rec
  busyHoldoff := paramBusyHoldoff rec
  busyLimit := paramBusyLimit rec
  holdoff := none
  pending := []
  exchanges := 0
  failedTurns := 0
  protocolErrors := 0

/-! ### Buffer descriptors (Figure 13-7) -/

/-- R125: address and tag; the remaining bytes are ignored. -/
def descriptorOf (rec : List Byte) : Descriptor := ⟨addrAt rec 0, halfAt rec 8⟩

/-! ### Rates (Figure 3-1) -/

/-- Bits a second of a rate code. -/
def bitRate (r : Fin 8) : Nat :=
  match r with
  | 0 => 9600
  | 1 => 19200
  | 2 => 38400
  | 3 => 57600
  | 4 => 115200
  | 5 => 230400
  | 6 => 460800
  | 7 => 921600

/-- The whole time units in a number of character times of ten bits (R37, log entry 3). -/
def charUnits (rate : Option (Fin 8)) (chars : Nat) : Nat :=
  match rate with
  | none => 0
  | some r => chars * 100000 / bitRate r

end Sys2Proof.Machine
end

