-- ==== Sys2Proof/Machine/Records.lean ====
section
/-! DEFINITION. The codes of Figure 13-9 and the bytes of the records the part writes (Figures 13-7, 13-8, R185). -/

namespace Sys2Proof.Machine

/-- Figure 2-8. -/
def LineStatus.code : LineStatus → Byte
  | .ok => 0
  | .noReply => 1
  | .refused => 2
  | .offline => 3
  | .noStation => 4
  | .detached => 5
  | .cancelled => 6
  | .aborted => 7
  | .malformed => 8
  | .answerTimeout => 9

/-- Figure 2-9. -/
def AdminStatus.code : AdminStatus → Byte
  | .ok => 0
  | .aborted => 7
  | .malformed => 8
  | .badParam => 16
  | .duplicate => 17
  | .tableFull => 18
  | .notFound => 19
  | .wrongState => 20
  | .tooLate => 21

/-- Figure 3-4, master frames. -/
def FrameKind.code : FrameKind → BitVec 4
  | .poll => 1
  | .select => 2
  | .reset => 3
  | .broadcast => 4

/-- Figure 4-1. -/
def Liveness.code : Liveness → Byte
  | .unknown => 0
  | .online => 1
  | .suspect => 2
  | .offline => 3

/-- Figure 9-2. -/
def EventKind.code : EventKind → Byte
  | .lineJammed => 1
  | .stationOnline => 16
  | .stationSuspect => 17
  | .stationOffline => 18
  | .stationOutOfStep => 19
  | .protocolError => 20
  | .queueHalted => 48
  | .buffersExhausted => 49
  | .lineHeld => 50
  | .postRejected => 51

/-- Figure 9-2: the class of a kind. -/
def EventKind.eventClass : EventKind → Nat
  | .lineJammed => 0
  | .stationOnline => 1
  | .stationSuspect => 1
  | .stationOffline => 1
  | .stationOutOfStep => 1
  | .protocolError => 1
  | .queueHalted => 3
  | .buffersExhausted => 3
  | .lineHeld => 3
  | .postRejected => 3

/-- Figure 10-2. -/
def DeviceState.code : DeviceState → BitVec 3
  | .idle => 0
  | .starting => 1
  | .running => 2
  | .stopping => 3
  | .faulted => 4

/-- Figure 10-2. -/
def CommandResult.code : CommandResult → BitVec 2
  | .none => 0
  | .accepted => 1
  | .refused => 2
  | .startInvalid => 3

/-- Figure 10-2. -/
def FaultCode.code : FaultCode → BitVec 4
  | .none => 0
  | .controlBlockRead => 1
  | .requestFetch => 2
  | .payloadRead => 3
  | .bufferFetch => 4
  | .recordWrite => 5
  | .dataWrite => 6
  | .eventWrite => 7
  | .snapshotWrite => 8

/-- A line number as a record's byte. -/
def lineByte (n : LineNo) : Byte := BitVec.ofNat 8 n.val

/-- A flag as a bit of a byte. -/
def bitByte (b : Bool) (i : Nat) : Byte := if b then BitVec.ofNat 8 (2 ^ i) else 0

/-- The 16 bytes of a completion or arrival record with lap value `lap` (Figure 13-7). Bits 3..7 of the flags
byte, which the figure does not name, are written as 0 (log entry 31). -/
def PostRecord.bytes (r : PostRecord) (lap : Bool) : List Byte :=
  [r.rtype, bitByte lap 0, 0, 0, r.ring, r.station] ++ halfBytes r.tag
    ++ [r.status, bitByte r.resent 0 ||| bitByte r.deliveryUnknown 1 ||| bitByte r.truncated 2, r.length, r.retries, 0, 0, 0, 0]

/-- The 16 bytes of an event record (Figure 13-7). -/
def EventRecord.bytes (r : EventRecord) : List Byte :=
  [BitVec.ofNat 8 r.kind.eventClass, bitByte r.lap 0, 0, 0, r.kind.code, r.line, r.station, BitVec.ofNat 8 r.missed]
    ++ halfBytes r.detail ++ [0, 0, 0, 0, 0, 0]

/-- A sequence number as a byte. -/
def seqByte (s : Seq) : Byte := s.setWidth 8

/-- last_ack as the acknowledgement value: 8 stands for none (R44, R79). -/
def ackByte : Option Seq → Byte
  | none => 8
  | some s => seqByte s

/-- R79: time units left to the holdoff deadline, 0 when none is present; saturates at 65535 (R185). -/
def holdoffLeft (e : Station) (now : Nat) : Nat :=
  match e.holdoff with
  | none => 0
  | some d => min (d - now) 65535

/-- The 32 bytes of a station snapshot at time `now` (Figure 13-8). -/
def Station.snapshot (e : Station) (now : Nat) : List Byte :=
  [lineByte e.line, e.address, e.liveness.code, bitByte e.outOfStep 0, seqByte e.txSeq, seqByte e.rxExpect,
    ackByte e.lastAck, BitVec.ofNat 8 e.missCount, BitVec.ofNat 8 e.pending.length, BitVec.ofNat 8 e.retryLimit]
    ++ halfBytes (BitVec.ofNat 16 (holdoffLeft e now)) ++ halfBytes (BitVec.ofNat 16 e.replyTimeout)
    ++ [BitVec.ofNat 8 e.missLimit, BitVec.ofNat 8 e.busyLimit] ++ halfBytes (BitVec.ofNat 16 e.busyHoldoff)
    ++ [0, 0] ++ wordBytes e.exchanges ++ halfBytes (BitVec.ofNat 16 e.failedTurns)
    ++ halfBytes (BitVec.ofNat 16 e.protocolErrors) ++ [0, 0, 0, 0]

/-- The identifier of the submission ring a request came from (Conventions). -/
def sqIdOf (n : LineNo) (urgent : Bool) : Nat := if urgent then 2 * n.val + 1 else 2 * n.val + 2

/-- R29: the completion record of a slot; a slot that is not DONE has no outcome and is never composed. -/
def completionOf (n : LineNo) (r : Request) (st : LineStatus) : PostRecord where
  rtype := 1
  ring := BitVec.ofNat 8 (sqIdOf n r.urgent)
  tag := r.tag
  status := st.code
  station := r.station
  resent := r.resent
  deliveryUnknown := r.deliveryUnknown
  truncated := r.truncated
  length := if r.kind = .query ∧ st = .ok then BitVec.ofNat 8 r.answerLength else 0
  retries := BitVec.ofNat 8 r.retriesUsed

/-- R30: the arrival record of data stored in a buffer of line `n`. -/
def arrivalOf (n : LineNo) (tag : Half) (station : Byte) (length : Nat) (truncated : Bool) : PostRecord where
  rtype := 2
  ring := BitVec.ofNat 8 (14 + n.val)
  tag := tag
  status := 0
  station := station
  resent := false
  deliveryUnknown := false
  truncated := truncated
  length := BitVec.ofNat 8 length
  retries := 0

/-- R31: an admin request's completion record. -/
def adminCompletionOf (tag : Half) (st : AdminStatus) (station : Byte) (length : Byte) : PostRecord where
  rtype := 1
  ring := 0
  tag := tag
  status := st.code
  station := station
  resent := false
  deliveryUnknown := false
  truncated := false
  length := length
  retries := 0

end Sys2Proof.Machine
end

