-- ==== Sys2Proof/Machine/Flags.lean ====
section
/-! DEFINITION. The class flags of the Event Unit and the interrupt output (9.3, 9.4). -/

namespace Sys2Proof.Machine

/-- The lowest class number whose flag is set, 4 when none is: the most urgent class (9.1). -/
def mostUrgent (flags : BitVec 4) : Nat :=
  if flags.getLsbD 0 then 0
  else if flags.getLsbD 1 then 1
  else if flags.getLsbD 2 then 2
  else if flags.getLsbD 3 then 3
  else 4

/-- The flag of class `k` alone. -/
def classBit (k : Nat) : BitVec 4 := 1#4 <<< k

/-- The pending classes that are unmasked; class 0 cannot be masked. -/
def unmaskedPending (pending mask : BitVec 4) : BitVec 4 := pending &&& ~~~(mask &&& 0b1110#4)

/-- R157: the class a TAKE would take: pending, unmasked and more urgent than every class in service. -/
def qualifying (pending inService mask : BitVec 4) : Option Nat :=
  if mostUrgent (unmaskedPending pending mask) < mostUrgent inService then
    some (mostUrgent (unmaskedPending pending mask))
  else none

/-- R156: the level the interrupt output takes for given flags. -/
def interruptFor (pending inService mask : BitVec 4) : Bool := (qualifying pending inService mask).isSome

/-- R156: the output follows the flags at once. -/
def EventUnit.reevaluate (e : EventUnit) : EventUnit :=
  { e with irq := interruptFor e.pending e.inService e.mask }

/-- R155: class `k` becomes pending. -/
def EventUnit.setPending (e : EventUnit) (k : Nat) : EventUnit :=
  { e with pending := e.pending ||| classBit k }.reevaluate

/-- R157: the flags after a TAKE. -/
def EventUnit.taken (e : EventUnit) : EventUnit :=
  match qualifying e.pending e.inService e.mask with
  | some k => { e with pending := e.pending &&& ~~~classBit k, inService := e.inService ||| classBit k }.reevaluate
  | none => e

/-- The class code a TAKE returns: 7 for NONE (Figure 13-3). -/
def takeCode (e : EventUnit) : BitVec 3 :=
  match qualifying e.pending e.inService e.mask with
  | some k => BitVec.ofNat 3 k
  | none => 7

/-- The word an EVENT read returns: the class code before it, the flags and the missed count after it (Figure 13-3). -/
def eventWord (code : BitVec 3) (e : EventUnit) : Word :=
  (0#8) ++ (BitVec.ofNat 8 e.missed) ++ (e.mask &&& 0b1110#4) ++ e.inService ++ e.pending ++ (0#1) ++ code

/-- R158: the most urgent class in service leaves service. -/
def EventUnit.released (e : EventUnit) : EventUnit :=
  { e with inService := e.inService &&& ~~~classBit (mostUrgent e.inService) }.reevaluate

/-- R159: the mask flags of classes 1..3. -/
def EventUnit.masked (e : EventUnit) (m : BitVec 4) : EventUnit := { e with mask := m }.reevaluate

/-- A drop: the missed count saturates at 255 and the record's class becomes pending (R151, R153). -/
def EventUnit.drop (e : EventUnit) (r : EventRecord) : EventUnit :=
  { e with missed := min (e.missed + 1) 255 }.setPending r.kind.eventClass

/-- R153: with no room in ER and no write in flight every staged record is dropped, from the head, in one command: no POST
falls between two drops (log entry 22). -/
def EventUnit.dropAll (e : EventUnit) : EventUnit := e.fifo.foldl EventUnit.drop { e with fifo := [] }

/-- R153: what a full ER does to the staging FIFO when no write is in flight. -/
def EventUnit.settle (e : EventUnit) (room : Bool) : EventUnit :=
  if !room && !e.writing then e.dropAll else e

/-- R151: a record is staged, or dropped when the FIFO holds 8. -/
def EventUnit.stage (e : EventUnit) (r : EventRecord) : EventUnit :=
  if e.fifo.length < 8 then { e with fifo := e.fifo ++ [r] } else e.drop r

end Sys2Proof.Machine
end

