-- ==== Sys2Proof/Machine/Frame.lean ====
section
/-! DEFINITION. The line protocol: escaping, the check, the frames the master sends and the collector of replies (Section 3). -/

namespace Sys2Proof.Machine

/-! ### Reserved characters (Figure 3-3) -/

def markChar : Byte := 0xC5
def endChar : Byte := 0xCA
def escapeChar : Byte := 0xD7

/-- R40: a byte with its most significant bit inverted. -/
def flipTop (b : Byte) : Byte := b ^^^ 0x80

/-- R40: the characters that carry one byte between MARK and END. -/
def escapeByte (b : Byte) : List Byte :=
  if b = markChar ∨ b = endChar ∨ b = escapeChar then [escapeChar, flipTop b] else [b]

/-! ### The check (R41) -/

/-- Step 3: one data bit. -/
def checkBit (reg : Half) (bit : Bool) : Half :=
  if reg.msb == bit then reg <<< 1 else (reg <<< 1) ^^^ 0x1021

/-- Step 2: one byte, most significant bit first. -/
def checkByte (reg : Half) (b : Byte) : Half :=
  [b.getLsbD 7, b.getLsbD 6, b.getLsbD 5, b.getLsbD 4, b.getLsbD 3, b.getLsbD 2, b.getLsbD 1, b.getLsbD 0].foldl checkBit reg

/-- The check of a sequence of bytes: preset 0xFFFF, no inversion at the end. -/
def checkOf (bs : List Byte) : Half := bs.foldl checkByte 0xFFFF

/-! ### Frames (R39, R42, R43) -/

/-- The bytes a check covers: address, control, length, payload. -/
def frameBody (address control : Byte) (payload : List Byte) : List Byte :=
  [address, control, BitVec.ofNat 8 payload.length] ++ payload

/-- The check's two bytes, high byte first. -/
def checkBytes (c : Half) : List Byte := [c.extractLsb' 8 8, c.extractLsb' 0 8]

/-- R39, R40: the characters of a frame on the wire, from MARK to END. -/
def frameChars (address control : Byte) (payload : List Byte) : List Byte :=
  [markChar]
    ++ (frameBody address control payload ++ checkBytes (checkOf (frameBody address control payload))).flatMap escapeByte
    ++ [endChar]

/-- R36: the ten levels of one character, in time order: start bit 0, eight data bits from the least significant, stop bit 1. -/
def charLevels (ch : Byte) : List Bool :=
  [false, ch.getLsbD 0, ch.getLsbD 1, ch.getLsbD 2, ch.getLsbD 3, ch.getLsbD 4, ch.getLsbD 5, ch.getLsbD 6, ch.getLsbD 7, true]

/-- R36: the levels on TXD, one a bit time, while a frame of these characters is sent. -/
def wireLevels (chars : List Byte) : List Bool := chars.flatMap charLevels

/-- R42: kind, flag and sequence of a control byte. -/
def controlByte (kind : BitVec 4) (flag : Bool) (seq : Seq) : Byte := kind ++ BitVec.ofBool flag ++ seq

def controlKind (c : Byte) : BitVec 4 := c.extractLsb' 4 4
def controlFlag (c : Byte) : Bool := c.getLsbD 3
def controlSeq (c : Byte) : Seq := c.extractLsb' 0 3

/-! ### Replies (R46, R52) -/

/-- A well-formed reply, with what the part reads of it (R45). -/
inductive Reply where
  | data (seq : Seq) (payload : List Byte)
  | idle
  | accept
  | busy
  | reject (expected : Option Byte)
  | ready
  deriving DecidableEq, Repr

/-- How a frame that passed its check is classified (R52). -/
inductive Classified where
  | wellFormed (r : Reply)
  | garbled
  | protocolError (control : Byte)
  deriving DecidableEq, Repr

/-- R52 with Figures 3-4 and 3-5: a received frame judged against the frame the turn sent. -/
def classify (sent : FrameKind) (sentControl : Byte) (control : Byte) (payload : List Byte) : Classified :=
  let kind := controlKind control
  let len := payload.length
  match sent with
  | .poll =>
    if kind = 0x8 ∧ 1 ≤ len ∧ len ≤ 240 then .wellFormed (.data (controlSeq control) payload)
    else if kind = 0x9 ∧ len = 0 then .wellFormed .idle
    else if kind = 0xC ∧ len ≤ 1 then .wellFormed (.reject payload.head?)
    else .protocolError control
  | .select =>
    if kind = 0xA ∧ len = 0 then
      if controlSeq control = controlSeq sentControl then .wellFormed .accept else .garbled
    else if kind = 0xB ∧ len = 0 then .wellFormed .busy
    else if kind = 0xC ∧ len ≤ 1 then .wellFormed (.reject payload.head?)
    else .protocolError control
  | .reset => if kind = 0xD ∧ len = 0 then .wellFormed .ready else .protocolError control
  | .broadcast => .protocolError control

/-! ### The frame collector (3.5) -/

/-- R47: waiting for MARK, empty store, no escape pending. -/
def Collector.waiting : Collector := ⟨false, false, .address, 0, 0, 0, 0, [], 0xFFFF, 0⟩

/-- R47: a MARK has been received. -/
def Collector.started : Collector := { Collector.waiting with collecting := true }

/-- What a character does to the collection. -/
inductive Collected where
  | more (c : Collector)
  | garbled
  | complete (control : Byte) (payload : List Byte)
  deriving DecidableEq, Repr

/-- R49, R50: one unescaped byte placed at the collector's position; `address` is the station the turn's frame was sent to. -/
def Collector.place (c : Collector) (address : Byte) (b : Byte) : Collected :=
  let fed := checkByte c.check b
  match c.position with
  | .address => if b = address then .more { c with position := .control, address := b, check := fed } else .garbled
  | .control => .more { c with position := .length, control := b, check := fed }
  | .length =>
    if 240 < b.toNat then .garbled
    else .more { c with
      position := if b.toNat = 0 then .checkHigh else .payload, length := b, remaining := b.toNat, check := fed }
  | .payload =>
    .more { c with
      position := if c.remaining ≤ 1 then .checkHigh else .payload,
      remaining := c.remaining - 1, store := c.store ++ [b], check := fed }
  | .checkHigh => .more { c with position := .checkLow, received := b ++ c.received.extractLsb' 0 8 }
  | .checkLow => .more { c with position := .endMark, received := c.received.extractLsb' 8 8 ++ b }
  | .endMark => .garbled

/-- R48 to R51: one character while collecting. At the place of END an escape character garbles the reply at once (R50), not
only with the character after it (R48): log entry 27. -/
def Collector.collect (c : Collector) (address : Byte) (ch : Byte) (framing : Bool) : Collected :=
  if framing then .garbled
  else if ch = markChar then .garbled
  else if ch = endChar then
    if c.escape then .garbled
    else if c.position = .endMark then
      if c.check = c.received then .complete c.control c.store else .garbled
    else .garbled
  else if c.position = .endMark then .garbled
  else if c.escape then { c with escape := false }.place address (flipTop ch)
  else if ch = escapeChar then .more { c with escape := true }
  else c.place address ch

/-- R47 to R51: one character in LISTEN or RECEIVE. While waiting only a MARK without a framing error counts. -/
def Collector.receive (c : Collector) (address : Byte) (ch : Byte) (framing : Bool) : Collected :=
  if c.collecting then c.collect address ch framing
  else if ch = markChar ∧ framing = false then .more Collector.started
  else .more c

end Sys2Proof.Machine
end

