-- ==== Sys2Proof/Machine/Memory.lean ====
section
/-! DEFINITION. Host memory as the part has written it, and what a bus-master write leaves there (R141, R171). -/

namespace Sys2Proof.Machine

/-- Reading one byte: none where the part has written nothing (log entry 4). -/
def Memory.read : Memory → Nat → Option Byte
  | [], _ => none
  | (k, v) :: m, a => if a = k then some v else Memory.read m a

/-- Writing one byte; the list stays sorted. -/
def Memory.write : Memory → Nat → Byte → Memory
  | [], a, b => [(a, b)]
  | (k, v) :: m, a, b =>
    if a < k then (a, b) :: (k, v) :: m
    else if a = k then (a, b) :: m
    else (k, v) :: Memory.write m a b

/-- The canonical form: addresses strictly rising, above `lo`. -/
def Memory.wfFrom : Nat → Memory → Bool
  | _, [] => true
  | lo, (k, _) :: m => decide (lo ≤ k) && Memory.wfFrom (k + 1) m

/-- The canonical form. An unlisted address reads as none, so no entry can equal what an unlisted address reads as. -/
def Memory.wf (m : Memory) : Bool := Memory.wfFrom 0 m

/-- The host address of byte `i` of an access; host addresses have 64 bits (log entry 4). -/
def byteAddr (address : Addr) (i : Nat) : Nat := (address + BitVec.ofNat 64 i).toNat

/-- Bytes `from`, `from + 1`, … of an access written upward, those that `keep` admits. -/
def Memory.writeFrom (m : Memory) (address : Addr) (keep : Nat → Bool) : Nat → List Byte → Memory
  | _, [] => m
  | i, b :: bs =>
    Memory.writeFrom (if keep i then Memory.write m (byteAddr address i) b else m) address keep (i + 1) bs

/-- R171: the access writes a record whose first word goes last. -/
def AccessKind.lapLast : AccessKind → Bool
  | .adminWrite => true
  | .eventWrite => true
  | .recordWrite _ => true
  | .controlBlockRead => false
  | .adminRead => false
  | .snapshotWrite => false
  | .fetchRead _ => false
  | .payloadRead _ => false
  | .descriptorRead _ => false
  | .bufferWrite _ => false
  | .answerWrite _ => false

/-- The turn in which byte `i` of an access is transferred, counted in words: ascending addresses, but for a record the
word with the record type and the lap flag goes last (R141). A data write's words are those of its host addresses. -/
def Access.wordTurn (a : Access) (i : Nat) : Nat :=
  if a.kind.lapLast then (i / 4 + 3) % 4 else (a.address.toNat % 4 + i) / 4

/-- How many words an access transfers. -/
def Access.wordCount (a : Access) : Nat :=
  if a.data.length = 0 then 0 else (a.address.toNat % 4 + a.data.length + 3) / 4

/-- Host memory once the access's first `words` words have been transferred. -/
def Memory.afterWords (m : Memory) (a : Access) (words : Nat) : Memory :=
  Memory.writeFrom m a.address (fun i => decide (a.wordTurn i < words)) 0 a.data

/-- Host memory once the access has completed. -/
def Memory.afterAccess (m : Memory) (a : Access) : Memory :=
  Memory.writeFrom m a.address (fun _ => true) 0 a.data

/-- Host memory when the access fails or is cut after `words` words: its last word is never among them, at a device reset either,
even if that word is under way (R32 for records; log entry 5). -/
def Memory.afterCut (m : Memory) (a : Access) (words : Nat) : Memory :=
  Memory.afterWords m a (min words (a.wordCount - 1))

end Sys2Proof.Machine
end

