-- ==== Sys2Proof/Machine/Ops.lean ====
section
/-! DEFINITION. The shared operations over the state: lines, slots, stations, rings, the Host Port, events, reset values and
the entry into FAULTED. -/

namespace Sys2Proof.Machine

/-! ### Access to the parts of the state -/

/-- Line `n`. -/
def State.line (s : State) (n : LineNo) : Line := s.lines[n]

/-- Line `n` replaced. -/
def State.setLine (s : State) (n : LineNo) (l : Line) : State := { s with lines := s.lines.set n l }

/-- Line `n` changed by `f`. -/
def State.onLine (s : State) (n : LineNo) (f : Line → Line) : State := s.setLine n (f (s.line n))

/-- The four line numbers in order. -/
def allLines : List LineNo := [0, 1, 2, 3]

/-- A command's effect on each line in turn. -/
def State.forLines (s : State) (f : LineNo → State → State) : State := allLines.foldl (fun t n => f n t) s

/-- The device is RUNNING. -/
def State.running (s : State) : Bool := decide (s.control.device = .running)

/-- The device is STOPPING. -/
def State.stopping (s : State) : Bool := decide (s.control.device = .stopping)

/-- The device is RUNNING or STOPPING. -/
def State.active (s : State) : Bool := s.running || s.stopping

/-- A command whose moment has come at time `t`: the clock is at least there (log entry 3). -/
def State.reach (s : State) (t : Nat) : State := { s with now := max s.now t }

/-- The turn in flight on a line. -/
def Line.turn? (l : Line) : Option Turn :=
  match l.state with
  | .turn t => some t
  | .disabled => none
  | .idle => none
  | .jammed => none

/-- The line is not DISABLED. -/
def Line.enabled (l : Line) : Bool := decide (l.state ≠ .disabled)

/-! ### Rings (Section 1) -/

/-- R3: the available count. -/
def HostRing.posted (r : HostRing) : Nat := (r.p + r.count - r.c) % r.count

/-- R85: a HALTED or ABSENT ring counts as having nothing available. -/
def HostRing.available (r : HostRing) : Nat := if r.state = .active then r.posted else 0

/-- R3: a claim moves the consumer index on by one. -/
def HostRing.claim (r : HostRing) : HostRing := { r with c := (r.c + 1) % r.count }

/-- The host address of the entry at position `i`. -/
def entryAddr (base : Addr) (size i : Nat) : Addr := base + BitVec.ofNat 64 (size * i)

/-- R4: the ring has room. -/
def PartRing.room (r : PartRing) : Bool := decide (r.unconsumed < r.count)

/-- R4: a record's write has completed. -/
def PartRing.advance (r : PartRing) : PartRing :=
  { r with
    unconsumed := r.unconsumed + 1
    producer := if r.producer + 1 = r.count then 0 else r.producer + 1
    lap := if r.producer + 1 = r.count then !r.lap else r.lap }

/-- R7: the new producer index is acceptable. -/
def HostRing.accepts (r : HostRing) (i : Nat) : Bool :=
  decide (r.state ≠ .absent) && decide (i < r.count) && decide (r.posted ≤ (i + r.count - r.c) % r.count)

/-- R8: the distance a consumer POST releases. -/
def PartRing.distance (r : PartRing) (i : Nat) : Nat := (i + r.count - r.consumer) % r.count

/-- R8: the new consumer index is acceptable. -/
def PartRing.accepts (r : PartRing) (i : Nat) : Bool :=
  decide (r.state ≠ .absent) && decide (i < r.count) && decide (r.distance i ≤ r.unconsumed)

/-- R8: the consumer index is taken. -/
def PartRing.release (r : PartRing) (i : Nat) : PartRing :=
  { r with consumer := i, unconsumed := r.unconsumed - r.distance i }

/-- The line that owns submission ring `k` in 1..8 (Section 1). -/
def sqLine (k : Nat) : Nat := (k - 1) / 2

/-- SQ(2n+1) or SQ(2n+2) of line `n`, as an index of `sq`. -/
def sqIndex (n : LineNo) (urgent : Bool) : Fin 9 :=
  if urgent then ⟨2 * n.val + 1, by omega⟩ else ⟨2 * n.val + 2, by omega⟩

/-- CQ(n+1) of line `n`, as an index of `cq`. -/
def cqIndex (n : LineNo) : Fin 5 := ⟨n.val + 1, by omega⟩

def State.sqRing (s : State) (k : Fin 9) : HostRing := s.sq[k]
def State.cqRing (s : State) (k : Fin 5) : PartRing := s.cq[k]
def State.bqRing (s : State) (n : LineNo) : HostRing := s.bq[n]
def State.setSq (s : State) (k : Fin 9) (r : HostRing) : State := { s with sq := s.sq.set k r }
def State.setCq (s : State) (k : Fin 5) (r : PartRing) : State := { s with cq := s.cq.set k r }
def State.setBq (s : State) (n : LineNo) (r : HostRing) : State := { s with bq := s.bq.set n r }

/-- The completion ring of line `n`. -/
def State.cqOf (s : State) (n : LineNo) : PartRing := s.cqRing (cqIndex n)

/-! ### Events (Section 9) -/

/-- The owning line of the ring with identifier `id` as an event's line field: 255 for SQ0, CQ0, ER and above 18
(Figure 9-2). -/
def ringLineByte (id : Nat) : Byte :=
  if 1 ≤ id ∧ id ≤ 8 then BitVec.ofNat 8 (sqLine id)
  else if 10 ≤ id ∧ id ≤ 13 then BitVec.ofNat 8 (id - 10)
  else if 14 ≤ id ∧ id ≤ 17 then BitVec.ofNat 8 (id - 14)
  else 255

/-- R150: a record as its producer composes it. -/
def eventOf (kind : EventKind) (line station : Byte) (detail : Nat) : EventRecord :=
  ⟨kind, line, station, BitVec.ofNat 16 detail, 0, false⟩

/-- R150, R151, R153: a record offered to the Event Unit. Only RUNNING and STOPPING deal with it. -/
def State.offer (s : State) (r : EventRecord) : State :=
  if s.active then { s with events := (s.events.stage r).settle s.er.room } else s

/-- R155: class `k` becomes pending. -/
def State.classPending (s : State) (k : Nat) : State := { s with events := s.events.setPending k }

/-! ### The Host Port (10.6) -/

/-- The requester's position in the rotation (Figure 10-5). -/
def AccessKind.position : AccessKind → Nat
  | .controlBlockRead => 0
  | .adminRead => 1
  | .adminWrite => 1
  | .snapshotWrite => 1
  | .eventWrite => 2
  | .fetchRead n => 3 + 5 * n.val
  | .payloadRead n => 4 + 5 * n.val
  | .descriptorRead n => 5 + 5 * n.val
  | .bufferWrite n => 6 + 5 * n.val
  | .answerWrite n => 6 + 5 * n.val
  | .recordWrite n => 7 + 5 * n.val

/-- The fault code of a failed access (Figure 10-6). -/
def AccessKind.faultCode : AccessKind → FaultCode
  | .controlBlockRead => .controlBlockRead
  | .adminRead => .requestFetch
  | .adminWrite => .recordWrite
  | .snapshotWrite => .snapshotWrite
  | .eventWrite => .eventWrite
  | .fetchRead _ => .requestFetch
  | .payloadRead _ => .payloadRead
  | .descriptorRead _ => .bufferFetch
  | .bufferWrite _ => .dataWrite
  | .answerWrite _ => .dataWrite
  | .recordWrite _ => .recordWrite

/-- The fault line of a failed access: none stands for 255 (Figure 10-6). -/
def AccessKind.faultLine : AccessKind → Option LineNo
  | .controlBlockRead => none
  | .adminRead => none
  | .adminWrite => none
  | .snapshotWrite => none
  | .eventWrite => none
  | .fetchRead n => some n
  | .payloadRead n => some n
  | .descriptorRead n => some n
  | .bufferWrite n => some n
  | .answerWrite n => some n
  | .recordWrite n => some n

/-- The payload read of a turn in LOAD (R106). -/
def AccessKind.isPayloadRead : AccessKind → Bool
  | .payloadRead _ => true
  | .controlBlockRead => false
  | .adminRead => false
  | .adminWrite => false
  | .snapshotWrite => false
  | .eventWrite => false
  | .fetchRead _ => false
  | .descriptorRead _ => false
  | .bufferWrite _ => false
  | .answerWrite _ => false
  | .recordWrite _ => false

/-- A read a block asks the Host Port for. -/
def readAccess (kind : AccessKind) (address : Addr) (length : Nat) : Access := ⟨kind, address, length, [], false⟩

/-- A write a block asks the Host Port for. -/
def writeAccess (kind : AccessKind) (address : Addr) (data : List Byte) : Access :=
  ⟨kind, address, data.length, data, false⟩

/-- A block's access becomes waiting. -/
def State.request (s : State) (a : Access) : State := { s with port := { s.port with waiting := s.port.waiting ++ [a] } }

/-- R171: the first waiting access counting on from the cursor, wrapping from 22 to 0. -/
def HostPort.choose (p : HostPort) : Option Access :=
  (List.range 23).findSome? fun i => p.waiting.find? fun a => a.kind.position == (p.cursor.val + 1 + i) % 23

/-- R171: the chosen access starts and the cursor names its requester. -/
def HostPort.startNext (p : HostPort) : HostPort :=
  match p.inFlight, p.choose with
  | none, some a =>
    { inFlight := some a, waiting := p.waiting.erase a, cursor := Fin.ofNat 23 a.kind.position }
  | _, _ => p

/-- The access in flight has completed: its bytes lie in host memory (R171). -/
def State.finishAccess (s : State) (a : Access) : State :=
  { s with port := { s.port with inFlight := none }, hostMem := s.hostMem.afterAccess a }

/-- R32, R172, R173: the write of a ring record completes on the bus and is not heeded, the device being FAULTED. The record is
never written: the word with its lap flag does not reach host memory, and of the words that go before it some number does (a
free value, log entry 26). -/
def State.dropRecord (s : State) (a : Access) : State :=
  { s with
    port := { s.port with inFlight := none }
    hostMem := s.hostMem.afterCut a (Config.wordsInFaulted s.freeDraws)
    freeDraws := s.freeDraws + 1 }

/-- An access in flight whose completion the requester's rules act on: not abandoned (R122, R133), and the device RUNNING or
STOPPING: in FAULTED it has no further effect (R173), and in IDLE and STARTING only an abandoned one is left (R169). -/
def State.heeds (s : State) (a : Access) : Bool := !a.abandoned && s.active

/-- R122: the accesses of these kinds that still wait are withdrawn. -/
def HostPort.withdraw (p : HostPort) (mine : AccessKind → Bool) : HostPort :=
  { p with waiting := p.waiting.filter fun a => !mine a.kind }

/-- R122, R133: an access of an abandoned turn is withdrawn if it still waits, and abandoned if it is in flight. -/
def HostPort.abandon (p : HostPort) (mine : AccessKind → Bool) : HostPort :=
  { p.withdraw mine with
    inFlight := p.inFlight.map fun a => if mine a.kind then { a with abandoned := true } else a }

/-! ### Station entries -/

/-- The line's station ring: its entries in attach order (R60). -/
def State.ring (s : State) (n : LineNo) : List Station := s.stations.filter fun e => decide (e.line = n)

/-- The entry of an address on a line (R58: at most one). -/
def State.station? (s : State) (n : LineNo) (address : Byte) : Option Station :=
  s.stations.find? fun e => decide (e.line = n) && decide (e.address = address)

/-- The entry of an address on a line is changed by `f`. -/
def State.onStation (s : State) (n : LineNo) (address : Byte) (f : Station → Station) : State :=
  { s with stations := s.stations.map fun e => if e.line = n ∧ e.address = address then f e else e }

/-- R81: the resynchronising values. -/
def Station.resync (e : Station) : Station :=
  { e with
    liveness := .unknown, outOfStep := true, detachPending := false, txSeq := 0, rxExpect := 0, lastAck := none,
    missCount := 0, holdoff := none, pending := [] }

/-- R81: every entry of a line takes the resynchronising values. -/
def State.resyncLine (s : State) (n : LineNo) : State :=
  { s with stations := s.stations.map fun e => if e.line = n then e.resync else e }

/-! ### Slots (5.1) -/

/-- The request a slot holds. -/
def Line.held? (l : Line) (k : SlotNo) : Option Request :=
  match l.pool.slots[k] with
  | .held r => some r
  | .setAside => none
  | .free => none

/-- Slot `k` is replaced. -/
def Line.setSlot (l : Line) (k : SlotNo) (v : Slot) : Line :=
  { l with pool := { l.pool with slots := l.pool.slots.set k v } }

/-- The request in slot `k`, if it holds one, is changed by `f`. -/
def Line.onRequest (l : Line) (k : SlotNo) (f : Request → Request) : Line :=
  match l.held? k with
  | some r => l.setSlot k (.held (f r))
  | none => l

/-- The request in slot `k` of line `n` is changed by `f`. -/
def State.onRequest (s : State) (n : LineNo) (k : SlotNo) (f : Request → Request) : State :=
  s.onLine n fun l => l.onRequest k f

/-- The request in slot `k` of line `n`. -/
def State.request? (s : State) (n : LineNo) (k : SlotNo) : Option Request := (s.line n).held? k

/-- The slot holds a request in state `st`. -/
def State.slotIs (s : State) (n : LineNo) (k : SlotNo) (st : RequestState) : Bool :=
  match s.request? n k with
  | some r => decide (r.state = st)
  | none => false

/-- A request that has become DONE with an outcome (R84, Figure 5-1: deadlines are present only while ANSWERING). -/
def Request.finish (r : Request) (st : LineStatus) : Request :=
  { r with state := .done, outcome := some st, cancelMark := false, answerDeadline := none, queryPollDue := none }

/-- R84: slot `k` joins the DONE order and leaves the broadcast list. -/
def Line.joinDone (l : Line) (k : SlotNo) : Line :=
  { l with pool := { l.pool with
      doneOrder := l.pool.doneOrder ++ [k], broadcast := l.pool.broadcast.filter fun j => decide (j ≠ k) } }

/-- R84: slot `k` leaves the pending list it stands on. -/
def State.unlist (s : State) (n : LineNo) (k : SlotNo) : State :=
  { s with stations := s.stations.map fun e =>
      if e.line = n then { e with pending := e.pending.filter fun j => decide (j ≠ k) } else e }

/-- R83, R84: the request in slot `k`, changed by `f`, becomes DONE with status `st`. A DONE slot does not change. -/
def State.makeDone (s : State) (n : LineNo) (k : SlotNo) (st : LineStatus) (f : Request → Request) : State :=
  match s.request? n k with
  | some r =>
    if r.state = .done then s
    else (s.onLine n fun l => (l.setSlot k (.held ((f r).finish st))).joinDone k).unlist n k
  | none => s

/-- The lowest free slot (R82). -/
def Line.freeSlot? (l : Line) : Option SlotNo :=
  (List.finRange 16).find? fun k => decide (l.pool.slots[k] = .free)

/-- The WAITING and ANSWERING slots of a list become DONE with status `st`, in list order. -/
def State.endAll (s : State) (n : LineNo) (st : LineStatus) (ks : List SlotNo) : State :=
  ks.foldl (fun t k => if t.slotIs n k .waiting || t.slotIs n k .answering then t.makeDone n k st id else t) s

/-- A line's waiting slots in the order R178 gives: stations in ring order, each list in list order, then the broadcast list. -/
def State.listed (s : State) (n : LineNo) : List SlotNo :=
  (s.ring n).flatMap (fun e => e.pending) ++ (s.line n).pool.broadcast

/-- The entry's head request with its slot. -/
def State.head? (s : State) (n : LineNo) (e : Station) : Option (SlotNo × Request) :=
  match e.pending with
  | [] => none
  | k :: _ =>
    match s.request? n k with
    | some r => some (k, r)
    | none => none

/-- The head request of a station is ANSWERING: its slot. -/
def State.answeringHead? (s : State) (n : LineNo) (e : Station) : Option SlotNo :=
  match s.head? n e with
  | some (k, r) => if r.state = .answering then some k else none
  | none => none

/-! ### Admin work in progress -/

/-- A LINE_RESET of line `n` has been taken and not completed. -/
def State.resetting (s : State) (n : LineNo) : Bool :=
  match s.admin.work with
  | .resetting _ m _ => decide (m = n)
  | _ => false

/-- A LINE_DISABLE of line `n` has been taken and not completed. -/
def State.disabling (s : State) (n : LineNo) : Bool :=
  match s.admin.work with
  | .disabling _ m _ _ _ => decide (m = n)
  | _ => false

/-- The Admin Unit composes the completion and asks for its CQ0 write at position P with lap L (R147). -/
def State.completeAdmin (s : State) (tag : Half) (st : AdminStatus) (station : Byte) (length : Byte) : State :=
  let record := adminCompletionOf tag st station length
  let ring := s.cqRing 0
  { s with admin := { s.admin with work := .completing record } }.request
    (writeAccess .adminWrite (entryAddr ring.base 16 ring.producer) (record.bytes ring.lap))

/-! ### The posting gate and the buffer cache -/

/-- R137: places of the posting queue taken by records and by a turn's reservation. -/
def PostingPath.taken (p : PostingPath) : Nat := p.queue.length + if p.reservation then 1 else 0

/-- R91, R145: no DONE slot waits to enter the posting queue and the queue has a free place. -/
def Line.gateOpen (l : Line) : Bool := l.pool.doneOrder.isEmpty && decide (l.post.taken < 6)

/-- The gate is shut and stays shut once every DONE slot that can enter has entered (R140, R145; log entry 2). -/
def Line.gateStuck (l : Line) : Bool := decide (6 ≤ l.post.taken + l.pool.doneOrder.length)

/-- R169, R135: in STOPPING a line's cache is emptied once no turn and no descriptor read is in flight. -/
def State.drainCache (s : State) (n : LineNo) : State :=
  if s.stopping && (s.line n).turn?.isNone && (s.line n).buf.reading.isNone then
    s.onLine n fun l => { l with buf := { l.buf with cache := [], reserved := false } }
  else s

/-! ### Device reset (R174) and the entry into FAULTED (R172) -/

/-- How much of a write in flight lies in host memory when a device reset stops it (a free value, log entry 5). -/
def State.cutAccess (s : State) : State :=
  match s.port.inFlight with
  | some a =>
    { s with
      hostMem := s.hostMem.afterCut a (Config.wordsBeforeReset s.freeDraws)
      freeDraws := s.freeDraws + 1 }
  | none => s

/-- R174: every block at its reset value. The queue, host memory, the clock and the pins are not the part's to reset. -/
def State.deviceReset (s : State) : State :=
  let t := s.cutAccess
  { State.reset with
    pending := t.pending, resetHeld := t.resetHeld, eventRead := t.eventRead, now := t.now, freeDraws := t.freeDraws,
    hostMem := t.hostMem }

/-- R15, R16: every ring ABSENT with all indices 0 and laps 1. -/
def State.ringsAbsent (s : State) : State :=
  { s with
    sq := Vector.replicate 9 .reset, cq := Vector.replicate 5 .reset, bq := Vector.replicate 4 .reset, er := .reset }

/-- R122: a turn abandoned by the entry into FAULTED: its timers stop, the rest of its frame is not sent, and the collector
is discarded. -/
def Turn.freeze (t : Turn) : Turn :=
  { t with
    quietEnd := none, jamEnd := none, sendEnd := none, replyEnd := none, gapEnd := none, wire := [], collector := none }

/-- R172: a line at the entry into FAULTED: DE released, the turn abandoned, the poll timer stopped, the rest as it stood. -/
def Line.freeze (l : Line) : Line :=
  { l with
    de := false
    sched := { l.sched with pollTimer := none }
    state := match l.state with
      | .turn t => .turn t.freeze
      | .disabled => .disabled
      | .idle => .idle
      | .jammed => .jammed }

/-- R172: the entry into FAULTED after the failure of an access of this kind. The payload read of an abandoned turn that still
waits is withdrawn (R122). -/
def State.enterFaulted (s : State) (kind : AccessKind) : State :=
  let t := if kind = .controlBlockRead then s.ringsAbsent else s
  { t with
    control := { t.control with device := .faulted, faultCode := kind.faultCode, faultLine := kind.faultLine }
    port := t.port.withdraw AccessKind.isPayloadRead
    lines := t.lines.map Line.freeze
    events := t.events.setPending 0 }

end Sys2Proof.Machine
end

