-- ==== Sys2Proof/Machine/Stations.lean ====
section
/-! DEFINITION. What the Station Table does with the reports of the Line Engines (4.3 to 4.7). -/

namespace Sys2Proof.Machine

/-- The effect of the reply that settled a successful exchange (R68, R69, R70, R65). -/
inductive ReplyEffect where
  /-- ACCEPT: tx_seq becomes the SELECT's sequence + 1 -/
  | accepted (seq : Seq)
  /-- DATA stored: rx_expect and last_ack advance -/
  | stored (seq : Seq)
  /-- nothing more -/
  | plain
  /-- BUSY: the holdoff deadline is set -/
  | busy
  /-- REJECT or DATA out of sequence: out_of_step, with the event's detail -/
  | outOfStep (detail : Nat)
  /-- READY to RESET: a sync success -/
  | synced
  deriving DecidableEq, Repr

/-- What is reported at an exchange's end (R61). -/
inductive Report where
  /-- nothing: the exchange goes on, or its end is not reported -/
  | silent
  | success (e : ReplyEffect)
  | failure
  | abandoned
  deriving DecidableEq, Repr

/-- R72: a station event is offered. -/
def State.stationEvent (s : State) (kind : EventKind) (n : LineNo) (address : Byte) (detail : Nat) : State :=
  s.offer (eventOf kind (lineByte n) address detail)

/-- R69: out_of_step is set on an entry that is not OFFLINE; the event is offered when the flag changes. -/
def State.setOutOfStep (s : State) (n : LineNo) (address : Byte) (detail : Nat) : State :=
  match s.station? n address with
  | some e =>
    if e.liveness = .offline ∨ e.outOfStep then s
    else (s.onStation n address fun x => { x with outOfStep := true }).stationEvent .stationOutOfStep n address detail
  | none => s

/-- R24, R64: while an OFFLINE entry's head is a SEND or QUERY, WAITING or ANSWERING, it becomes DONE with status OFFLINE. -/
def State.flushSlots (s : State) (n : LineNo) : List SlotNo → State
  | [] => s
  | k :: ks =>
    match s.request? n k with
    | some r =>
      if (r.kind = .send ∨ r.kind = .query) ∧ (r.state = .waiting ∨ r.state = .answering) then
        State.flushSlots (s.makeDone n k .offline id) n ks
      else s
    | none => s

/-- R24, R64: the flush of an entry that is OFFLINE. -/
def State.flushOffline (s : State) (n : LineNo) (address : Byte) : State :=
  match s.station? n address with
  | some e => if e.liveness = .offline then s.flushSlots n e.pending else s
  | none => s

/-- R61: a failed turn is counted. -/
def State.countFailedTurn (s : State) (n : LineNo) (address : Byte) : State :=
  s.onStation n address fun e => { e with failedTurns := min (e.failedTurns + 1) 65535 }

/-- R53: a protocol error is counted and reported. -/
def State.reportProtocolError (s : State) (n : LineNo) (address : Byte) (control : Byte) : State :=
  (s.onStation n address fun e => { e with protocolErrors := min (e.protocolErrors + 1) 65535 }).stationEvent
    .protocolError n address control.toNat

/-- R62: miss_count 0, the exchange counted, SUSPECT becomes ONLINE. -/
def State.noteSuccess (s : State) (n : LineNo) (address : Byte) (e : Station) : State :=
  let t := s.onStation n address fun x =>
    { x with
      exchanges := x.exchanges + 1, missCount := 0
      liveness := if x.liveness = .suspect then .online else x.liveness }
  if e.liveness = .suspect then t.stationEvent .stationOnline n address 2 else t

/-- R65: a sync success. -/
def State.noteSync (s : State) (n : LineNo) (address : Byte) (e : Station) : State :=
  let t := s.onStation n address fun x =>
    { x with
      exchanges := x.exchanges + 1, missCount := 0, liveness := .online, outOfStep := false
      txSeq := 0, rxExpect := 0, lastAck := none }
  if e.liveness = .online then t else t.stationEvent .stationOnline n address e.liveness.code.toNat

/-- R68, R70: what the settling reply changes in the entry, after the liveness change (R62). -/
def State.applyEffect (s : State) (n : LineNo) (address : Byte) : ReplyEffect → State
  | .accepted seq => s.onStation n address fun x => { x with txSeq := seq + 1 }
  | .stored seq => s.onStation n address fun x => { x with lastAck := some seq, rxExpect := seq + 1 }
  | .plain => s
  | .busy => s.onStation n address fun x => { x with holdoff := some (s.now + x.busyHoldoff) }
  | .outOfStep detail => s.setOutOfStep n address detail
  | .synced => s

/-- R63: the liveness a failure leads to, with miss_count already raised. -/
def livenessAfterFailure (l : Liveness) (miss limit : Nat) : Liveness :=
  match l with
  | .online => .suspect
  | .suspect => if limit ≤ miss then .offline else .suspect
  | .unknown => if limit ≤ miss then .offline else .unknown
  | .offline => .offline

/-- R63, R72: the liveness event of a failure, if any. -/
def State.failureEvent (s : State) (n : LineNo) (address : Byte) (before after : Liveness) (frame : FrameKind) : State :=
  if before = .online then s.stationEvent .stationSuspect n address frame.code.toNat
  else if after = .offline ∧ before ≠ .offline then s.stationEvent .stationOffline n address frame.code.toNat
  else s

/-- R63, R69: an exchange failure. The condition of R69 that the entry is not OFFLINE is judged on its liveness before the
failure; an OFFLINE entry only has its exchange counted. -/
def State.noteFailure (s : State) (n : LineNo) (address : Byte) (e : Station) (frame : FrameKind) : State :=
  if e.liveness = .offline then
    s.onStation n address fun x => { x with exchanges := x.exchanges + 1 }
  else
    let miss := min (e.missCount + 1) 15
    let after := livenessAfterFailure e.liveness miss e.missLimit
    let loses := decide (frame = .select ∨ frame = .reset)
    let t := s.onStation n address fun x =>
      { x with
        exchanges := x.exchanges + 1, missCount := miss, liveness := after, outOfStep := x.outOfStep || loses }
    let t := t.failureEvent n address e.liveness after frame
    if loses && !e.outOfStep then t.stationEvent .stationOutOfStep n address 512 else t

/-- R67, R69: an exchange abandoned after it had sent a SELECT or a RESET leaves the entry out of step. -/
def State.noteAbandoned (s : State) (n : LineNo) (address : Byte) (x : Exchange) : State :=
  if x.sent ∧ (x.frame = .select ∨ x.frame = .reset) then s.setOutOfStep n address 512 else s

/-- R61 to R70: an exchange's end is applied to its entry. Under detach_pending nothing is (R76, R112); a SLOW exchange that
drew no READY reports nothing (R66). The flush of R24 and R64 follows. -/
def State.applyReport (s : State) (n : LineNo) (x : Exchange) (rep : Report) : State :=
  match x.station with
  | none => s
  | some address =>
    match s.station? n address with
    | none => s
    | some e =>
      if e.detachPending then s
      else
        match rep with
        | .silent => s.flushOffline n address
        | .success .synced => (s.noteSync n address e).flushOffline n address
        | .success eff => ((s.noteSuccess n address e).applyEffect n address eff).flushOffline n address
        | .failure =>
          if x.kind = .slow then s else (s.noteFailure n address e x.frame).flushOffline n address
        | .abandoned => (s.noteAbandoned n address x).flushOffline n address

/-! ### Views and cursors (4.2, R92) -/

/-- Figure 4-2. -/
def Station.inPollView (e : Station) : Bool :=
  (decide (e.liveness = .online) || decide (e.liveness = .suspect)) && !e.outOfStep && !e.detachPending

/-- Figure 4-2. -/
def Station.inSyncView (e : Station) : Bool := decide (e.liveness ≠ .offline) && e.outOfStep && !e.detachPending

/-- Figure 4-2. -/
def Station.inSlowView (e : Station) : Bool := decide (e.liveness = .offline) && !e.detachPending

/-- R92: a cursor that names the entry leaving the ring moves to the entry before it, or to start. -/
def cursorLeaving (ring : List Station) (address : Byte) (cur : Option Byte) : Option Byte :=
  if cur = some address then
    ((ring.takeWhile fun e => decide (e.address ≠ address)).getLast?).map fun e => e.address
  else cur

/-- R92, for the request cursor. -/
def requestCursorLeaving (ring : List Station) (address : Byte) (cur : RequestCursor) : RequestCursor :=
  match cur with
  | .start => .start
  | .broadcast => .broadcast
  | .station a =>
    match cursorLeaving ring address (some a) with
    | some b => .station b
    | none => .start

/-- R92: all cursors of a scheduler when an entry leaves the ring. -/
def Scheduler.leaving (sc : Scheduler) (ring : List Station) (address : Byte) : Scheduler :=
  { sc with
    syncCursor := cursorLeaving ring address sc.syncCursor
    pollCursor := cursorLeaving ring address sc.pollCursor
    slowCursor := cursorLeaving ring address sc.slowCursor
    requestCursor := requestCursorLeaving ring address sc.requestCursor }

/-- R75: the entry is freed: its listed slots become DONE with status DETACHED, it leaves the ring and the table. -/
def State.freeStation (s : State) (n : LineNo) (address : Byte) : State :=
  match s.station? n address with
  | none => s
  | some e =>
    let t := e.pending.foldl (fun t k => t.makeDone n k .detached id) s
    let t := t.onLine n fun l => { l with sched := l.sched.leaving (s.ring n) address }
    { t with stations := t.stations.filter fun x => !(decide (x.line = n) && decide (x.address = address)) }

end Sys2Proof.Machine
end

