-- ==== Sys2Proof/Machine/Scheduler.lean ====
section
/-! DEFINITION. The Turn Scheduler: which turn a line would start, and whether the line is held (5.4, 5.5, 8.4). -/

namespace Sys2Proof.Machine

/-- R92: the station ring cut at a cursor: the entries after the cursor's entry, and those up to and including it. From
start, and from a cursor that names no entry, all entries come after. -/
def splitRing (cur : Option Byte) (ring : List Station) : List Station × List Station :=
  match cur with
  | none => (ring, [])
  | some a =>
    match ring.dropWhile fun e => decide (e.address ≠ a) with
    | [] => (ring, [])
    | _ :: after => (after, ring.take (ring.length - after.length))

/-- R92: the next member of a view after a cursor, and whether the walk went past the ring's last entry. -/
def nextMember (cur : Option Byte) (view : Station → Bool) (ring : List Station) : Option (Station × Bool) :=
  match (splitRing cur ring).1.find? view with
  | some e => some (e, false)
  | none => ((splitRing cur ring).2.find? view).map fun e => (e, true)

/-- R92: the request cursor as a place in the station ring; start and the broadcast position both come before its first
entry. -/
def RequestCursor.place : RequestCursor → Option Byte
  | .start => none
  | .broadcast => none
  | .station a => some a

/-- R89: the head slot of a station, when it is eligible for a REQUEST turn. -/
def State.eligible? (s : State) (n : LineNo) (e : Station) : Option SlotNo :=
  match s.head? n e with
  | some (k, r) =>
    if r.state = .waiting ∧ e.detachPending = false ∧ e.holdoff = none
        ∧ ((e.liveness ≠ .offline ∧ e.outOfStep = false) ∨ (e.liveness = .offline ∧ r.kind = .resync))
    then some k else none
  | none => none

/-- R88: the head of the broadcast list, when it is WAITING. -/
def State.broadcastHead? (s : State) (n : LineNo) : Option SlotNo :=
  match (s.line n).pool.broadcast with
  | [] => none
  | k :: _ => if s.slotIs n k .waiting then some k else none

/-- R97: the station qualifies for a QUERY-POLL. -/
def State.queryPollReady (s : State) (n : LineNo) (e : Station) : Bool :=
  match s.head? n e with
  | some (_, r) =>
    decide (r.state = .answering) && !e.outOfStep && !e.detachPending
      && (match r.queryPollDue with
        | some d => decide (d ≤ s.now)
        | none => false)
  | none => false

/-- What a selection finds (Figure 5-4). -/
inductive Choice where
  | sync (e : Station)
  | queryPoll (e : Station)
  /-- step 3 (`due`) or step 6, and whether the walk counts a wrap (R98) -/
  | poll (e : Station) (due : Bool) (wrapped : Bool)
  /-- a REQUEST turn for the head of a station's list -/
  | request (e : Station) (k : SlotNo)
  | broadcast (k : SlotNo)
  | slow (e : Station)
  deriving DecidableEq, Repr

/-- R95: step 4. The rotation is the station ring followed by the broadcast position. -/
def State.chooseRequest (s : State) (n : LineNo) : Option Choice :=
  let cur := (s.line n).sched.requestCursor
  let parts := splitRing cur.place (s.ring n)
  let pick := fun (es : List Station) => es.findSome? fun e => (s.eligible? n e).map fun k => Choice.request e k
  match pick parts.1 with
  | some c => some c
  | none =>
    match s.broadcastHead? n with
    | some k => some (.broadcast k)
    | none => pick parts.2

/-- R94: the first step that finds a turn. -/
def State.choose (s : State) (n : LineNo) : Option Choice :=
  let sc := (s.line n).sched
  let ring := s.ring n
  match nextMember sc.syncCursor Station.inSyncView ring with
  | some (e, _) => some (.sync e)
  | none =>
  match nextMember sc.requestCursor.place (s.queryPollReady n) ring with
  | some (e, _) => some (.queryPoll e)
  | none =>
  match (if sc.pollDue then nextMember sc.pollCursor Station.inPollView ring else none) with
  | some (e, w) => some (.poll e true w)
  | none =>
  match s.chooseRequest n with
  | some c => some c
  | none =>
  match (if sc.credit then nextMember sc.slowCursor Station.inSlowView ring else none) with
  | some (e, _) => some (.slow e)
  | none =>
  match nextMember sc.pollCursor Station.inPollView ring with
  | some (e, w) => some (.poll e false w)
  | none => none

/-- R91: everything a turn's start needs of the line but the posting gate: RUNNING, IDLE, no teardown under way
(R178, R180). -/
def State.mayStart (s : State) (n : LineNo) : Bool :=
  s.running && decide ((s.line n).state = .idle) && !s.resetting n && !s.disabling n

/-- R91: the line can start a turn. -/
def State.canStart (s : State) (n : LineNo) : Bool := s.mayStart n && (s.line n).gateOpen

/-- A retry is pending, or a selection would find a turn (R145). -/
def State.hasTurn (s : State) (n : LineNo) : Bool := (s.line n).sched.retry.isSome || (s.choose n).isSome

/-- R145: the line is held. It is not while a LINE_RESET of it is in progress (R178), nor while a LINE_DISABLE is (log entry
2). -/
def State.isHeld (s : State) (n : LineNo) : Bool := s.mayStart n && (s.line n).gateStuck && s.hasTurn n

/-- R146: the latch is cleared when the gate is open; at an onset with the latch clear it is set and LINE_HELD offered. -/
def State.settleHeld (s : State) (n : LineNo) : State :=
  if (s.line n).gateOpen then
    s.onLine n fun l => { l with post := { l.post with held := false } }
  else if s.isHeld n && !(s.line n).post.held then
    (s.onLine n fun l => { l with post := { l.post with held := true } }).offer
      (eventOf .lineHeld (lineByte n) 0 (s.cqOf n).unconsumed)
  else s

/-- R98: one wrap is counted; slow_divisor of them grant the slow credit. -/
def Scheduler.countWrap (sc : Scheduler) (divisor : Nat) : Scheduler :=
  if divisor ≤ sc.wraps + 1 then { sc with wraps := 0, credit := true } else { sc with wraps := sc.wraps + 1 }

/-- R101: cursors at start, nothing due, owed or pending, poll timer stopped. -/
def Line.clearScheduler (l : Line) : Line := { l with sched := .reset }

/-- R98: the poll timer starts a fresh period, if the device is RUNNING. -/
def State.startPollTimer (s : State) (n : LineNo) : State :=
  if s.running then
    s.onLine n fun l => { l with sched := { l.sched with pollTimer := some (s.now + l.config.pollInterval) } }
  else s

end Sys2Proof.Machine
end

