-- ==== Sys2Proof/Machine/TurnEnd.lean ====
section
/-! DEFINITION. The end of a turn: the request's result, the overriding rules, the report, and what waited for it (6.3, 6.4,
10.4, Section 11). -/

namespace Sys2Proof.Machine

/-! ### LINE_DISABLE once no turn is in flight (R180) -/

/-- The slots of a list that are WAITING or ANSWERING. -/
def State.stillOpen (s : State) (n : LineNo) (ks : List SlotNo) : List SlotNo :=
  ks.filter fun k => s.slotIs n k .waiting || s.slotIs n k .answering

/-- R180: once no turn is in flight, the remaining slots become DONE with status ABORTED, the entries take the
resynchronising values, the scheduler is cleared and the transmit buffer emptied. `made` are slots the disable made DONE
before. The entries take those values here, and not only when the line becomes DISABLED, as R81 has it (log entry 30). -/
def State.disableEnded (s : State) (n : LineNo) (tag : Half) (st : AdminStatus) (made : List SlotNo) : State :=
  let rest := s.stillOpen n (s.listed n)
  let t := (s.endAll n .aborted (s.listed n)).resyncLine n
  let t := t.onLine n fun l => { l.clearScheduler with txBuf := [] }
  { t with admin := { t.admin with work := .disabling tag n true st (made ++ rest) } }

/-! ### Overriding rules (R112 step 3) -/

/-- The final status that replaces a result that would continue, if a rule overrides it: STOP first (R168), then a cancel
mark, detach_pending, LINE_DISABLE. -/
def State.override (s : State) (n : LineNo) (x : Exchange) : Option LineStatus :=
  if s.stopping then some .aborted
  else if (match x.slot.bind (s.request? n) with
      | some r => r.cancelMark
      | none => false) then some .cancelled
  else if (match x.station.bind (s.station? n) with
      | some e => e.detachPending
      | none => false) then some .detached
  else if s.disabling n then some .aborted
  else none

/-- A result that would continue: `stay` is what the request then is, `over` what is set when a rule makes it final. -/
def State.settleContinuing (s : State) (n : LineNo) (x : Exchange) (stay final : Request → Request) : State :=
  match x.slot with
  | none => s
  | some k =>
    match s.override n x with
    | some st => s.makeDone n k st final
    | none => s.onRequest n k stay

/-! ### What follows the request's result -/

/-- R167: in STOPPING the slots behind a head settled at its turn's end become DONE with status ABORTED, in list order. -/
def State.abortBehind (s : State) (n : LineNo) (x : Exchange) : State :=
  if s.stopping then
    match x.station with
    | some a =>
      match s.station? n a with
      | some e => s.endAll n .aborted e.pending
      | none => s
    | none => s.endAll n .aborted (s.line n).pool.broadcast
  else s

/-- R112 step 5 and R97: at the end of a turn to a station whose head is ANSWERING, a deadline that has passed decides it if
the exchange has ended (R121); otherwise its query-poll due time is set from this moment. -/
def State.settleAnswering (s : State) (n : LineNo) (x : Exchange) (ended : Bool) : State :=
  match x.station.bind (s.station? n) with
  | none => s
  | some e =>
    match s.head? n e with
    | none => s
    | some (k, r) =>
      if r.state = .answering then
        if ended && s.running && (match r.answerDeadline with
            | some d => decide (d ≤ s.now)
            | none => false) then
          s.makeDone n k .answerTimeout id
        else s.onRequest n k fun q => { q with queryPollDue := some (s.now + (s.line n).config.querySpacing) }
      else s

/-- The outcome of the request in slot `k`. -/
def State.outcome? (s : State) (n : LineNo) (k : SlotNo) : Option LineStatus :=
  match s.request? n k with
  | some r => r.outcome
  | none => none

/-- The admin request that waited for this turn (R76, R77, R177, R180, R168). `continues`: the turn's own result would have
continued. Under LINE_DISABLE the turn's slot made ABORTED counts among the slots it waits for, under STOP too (log entry
23). In STOPPING a DETACH or LINE_DISABLE whose turn would have continued is ABORTED, whether it was taken before STOP or
after it (log entry 29). -/
def State.resolveAdmin (s : State) (n : LineNo) (x : Exchange) (continues : Bool) : State :=
  match s.admin.work with
  | .detaching tag m address =>
    if m = n ∧ x.station = some address then
      (s.freeStation n address).completeAdmin tag (if s.stopping && continues then .aborted else .ok) address 0
    else s
  | .cancelling tag m k =>
    if m = n ∧ x.slot = some k then
      s.completeAdmin tag (if s.outcome? n k = some .cancelled then .ok else .tooLate) 0 0
    else s
  | .disabling tag m ended st made =>
    if m = n ∧ ended = false then
      s.disableEnded n tag (if s.stopping && continues then .aborted else st)
        (made ++ (x.slot.toList.filter fun k => decide (s.outcome? n k = some .aborted)))
    else s
  | _ => s

/-- R112 steps 4 to 7 after the request's result. `rep` is the report, `retry` the exchange whose retry follows, `after` the
line's state: IDLE, or JAMMED (R108). -/
def State.finishTurn (s : State) (n : LineNo) (x : Exchange) (continues : Bool) (rep : Report)
    (retry : Option Exchange) (after : LineState) : State :=
  let s := s.abortBehind n x
  let s := s.applyReport n x rep
  let s := s.settleAnswering n x retry.isNone
  let s := s.onLine n fun l =>
    { l with
      state := after
      sched := { l.sched with retry := retry }
      buf := { l.buf with reserved := l.buf.reserved && retry.isSome }
      post := { l.post with reservation := false } }
  let s := s.resolveAdmin n x continues
  (s.drainCache n).settleHeld n

/-! ### Failed turns (R117, R118) -/

/-- The entry of an exchange's station. -/
def State.entryOf (s : State) (n : LineNo) (x : Exchange) : Option Station := x.station.bind (s.station? n)

/-- R117: the exchange has made fewer retry turns than retry_limit allows as it stands. A SLOW turn has none. -/
def State.retriesLeft (s : State) (n : LineNo) (x : Exchange) : Bool :=
  match s.entryOf n x with
  | some e => decide (x.kind ≠ .slow) && decide (x.turns ≤ e.retryLimit)
  | none => false

/-- R116: a POLL sent with READY, with no buffer reserved, whose station's head is no longer ANSWERING. -/
def State.readyUnbacked (s : State) (n : LineNo) (x : Exchange) : Bool :=
  decide (x.frame = .poll) && x.control.getLsbD 3 && !(s.line n).buf.reserved
    && !(match x.slot with
      | some k => s.slotIs n k .answering
      | none => false)

/-- R118, Figure 6-5: the result of a failed exchange for its request. -/
def State.settleFailure (s : State) (n : LineNo) (x : Exchange) : State :=
  match x.slot with
  | none => s
  | some k =>
    if x.frame = .poll then
      if s.slotIs n k .answering then s.makeDone n k .noReply id else s
    else s.makeDone n k .noReply fun r => { r with deliveryUnknown := r.deliveryUnknown || decide (x.frame = .select) }

/-- R112, R168, R177: a failed turn whose retry an overriding rule prevents: the request takes the overriding status,
delivery_unknown being set after a SELECT. The ANSWERING head of a POLL is overridden only while it is still ANSWERING. -/
def State.settlePrevented (s : State) (n : LineNo) (x : Exchange) : State :=
  if x.frame = .poll ∧ (match x.slot with
      | some k => s.slotIs n k .answering
      | none => false) = false then s
  else s.settleContinuing n x id fun r => { r with deliveryUnknown := r.deliveryUnknown || decide (x.frame = .select) }

/-- R61, R117: a failed turn of a station whose detach_pending is clear is counted; a SLOW turn is not (R66). -/
def State.noteFailedTurn (s : State) (n : LineNo) (x : Exchange) : State :=
  match s.entryOf n x with
  | some e => if x.kind = .slow ∨ e.detachPending then s else s.countFailedTurn n e.address
  | none => s

/-- R53: a protocol error is reported, but not for a SLOW turn (R66) nor under detach_pending (R76). -/
def State.noteProtocolError (s : State) (n : LineNo) (x : Exchange) (control : Byte) : State :=
  match s.entryOf n x with
  | some e => if x.kind = .slow ∨ e.detachPending then s else s.reportProtocolError n e.address control
  | none => s

/-- R117, R118: a turn ends as a failed turn. -/
def State.failTurn (s : State) (n : LineNo) (x : Exchange) : State :=
  let s := s.noteFailedTurn n x
  if s.retriesLeft n x then
    if (s.override n x).isSome then (s.settlePrevented n x).finishTurn n x true .abandoned none .idle
    else if s.readyUnbacked n x then s.finishTurn n x true .abandoned none .idle
    else s.finishTurn n x true .silent (some x) .idle
  else
    (s.settleFailure n x).finishTurn n x false .failure none .idle

/-! ### Well-formed replies (R113 to R116) -/

/-- R120: a QUERY whose SELECT was accepted enters ANSWERING. -/
def Request.enterAnswering (r : Request) (now spacing : Nat) : Request :=
  { r with
    state := .answering, deliveryUnknown := false
    answerDeadline := some (now + r.answerWindow.toNat), queryPollDue := some (now + spacing), answerLength := 0 }

/-- R113, Figure 6-3: ACCEPT. -/
def State.onAccept (s : State) (n : LineNo) (x : Exchange) : State :=
  let rep := Report.success (.accepted (x.control.extractLsb' 0 3))
  match x.slot with
  | none => s.finishTurn n x false rep none .idle
  | some k =>
    match s.request? n k with
    | none => s.finishTurn n x false rep none .idle
    | some r =>
      if r.kind = .query then
        (s.settleContinuing n x
          (fun q => q.enterAnswering s.now (s.line n).config.querySpacing)
          (fun q => { q with deliveryUnknown := false })).finishTurn n x true rep none .idle
      else (s.makeDone n k .ok fun q => { q with deliveryUnknown := false }).finishTurn n x false rep none .idle

/-- R114: BUSY. -/
def State.onBusy (s : State) (n : LineNo) (x : Exchange) : State :=
  let rep := Report.success .busy
  match x.slot, s.entryOf n x with
  | some k, some e =>
    match s.request? n k with
    | none => s.finishTurn n x false rep none .idle
    | some r =>
      if r.busyCount < e.busyLimit then
        (s.settleContinuing n x
          (fun q => { q with state := .waiting, busyCount := q.busyCount + 1 })
          (fun q => { q with busyCount := q.busyCount + 1 })).finishTurn n x true rep none .idle
      else (s.makeDone n k .refused id).finishTurn n x false rep none .idle
  | _, _ => s.finishTurn n x false rep none .idle

/-- R45, R69: the detail a REJECT gives. -/
def rejectDetail (expected : Option Byte) : Nat :=
  match expected with
  | some b => b.toNat
  | none => 255

/-- R113: REJECT to a SELECT. An overridden request has resent set whichever rule overrides it; the spec says so for CANCEL
(Figure 11-1) (log entry 21). -/
def State.onSelectReject (s : State) (n : LineNo) (x : Exchange) (expected : Option Byte) : State :=
  (s.settleContinuing n x
    (fun q => { q with state := .waiting, resent := true })
    (fun q => { q with resent := true })).finishTurn n x true (.success (.outOfStep (rejectDetail expected))) none .idle

/-- R65, R113: READY to RESET; the RESYNC it served, if any, is completed OK. -/
def State.onReady (s : State) (n : LineNo) (x : Exchange) : State :=
  let t := match x.slot with
    | some k => s.makeDone n k .ok id
    | none => s
  t.finishTurn n x false (.success .synced) none .idle

/-- R115, R116: a reply to a POLL that completes nothing. An ANSWERING head it served would continue. -/
def State.onPollPlain (s : State) (n : LineNo) (x : Exchange) (eff : ReplyEffect) : State :=
  let served := match x.slot with
    | some k => s.slotIs n k .answering
    | none => false
  let t := if served then s.settleContinuing n x id id else s
  t.finishTurn n x served (.success eff) none .idle

/-- The turn in flight of line `n` is replaced. -/
def State.setTurn (s : State) (n : LineNo) (t : Turn) : State := s.onLine n fun l => { l with state := .turn t }

/-- R130, R132: accepted DATA begins its write, into the answer area of the ANSWERING head the turn serves, or into the
reserved buffer. The turn is not over until the write has completed. -/
def State.beginStore (s : State) (n : LineNo) (t : Turn) (seq : Seq) (payload : List Byte) : State :=
  let write := fun (answer : Bool) (kind : AccessKind) (address : Addr) (room : Nat) =>
    (s.setTurn n { t with
        phase := .store, gapEnd := none, collector := none
        store := some ⟨answer, seq, min payload.length room, decide (room < payload.length)⟩ }).request
      (writeAccess kind address (payload.take room))
  match t.exch.slot.bind (s.request? n) with
  | some r => write true (.answerWrite n) r.answerAddr r.answerCap.toNat
  | none =>
    match (s.line n).buf.cache with
    | d :: _ => write false (.bufferWrite n) d.address ((s.line n).config.bufferSize.getD 0)
    | [] => s.onPollPlain n t.exch .plain

/-- R115, R116, Figure 6-4: DATA in answer to a POLL. -/
def State.onPollData (s : State) (n : LineNo) (t : Turn) (control : Byte) (seq : Seq) (payload : List Byte) : State :=
  let x := t.exch
  match s.entryOf n x with
  | none => s.onPollPlain n x .plain
  | some e =>
    if x.control.getLsbD 3 = false then (s.noteProtocolError n x control).onPollPlain n x .plain
    else if seq = e.rxExpect then
      if s.readyUnbacked n x then s.onPollPlain n x .plain else s.beginStore n t seq payload
    else if seq = e.rxExpect - 1 then s.onPollPlain n x .plain
    else s.onPollPlain n x (.outOfStep (256 + seq.toNat))

/-- R112 to R116: a well-formed reply is evaluated. -/
def State.onReply (s : State) (n : LineNo) (t : Turn) (control : Byte) (reply : Reply) : State :=
  let x := t.exch
  match reply with
  | .accept => s.onAccept n x
  | .busy => s.onBusy n x
  | .ready => s.onReady n x
  | .idle => s.onPollPlain n x .plain
  | .data seq payload => s.onPollData n t control seq payload
  | .reject expected =>
    match x.frame with
    | .poll => s.onPollPlain n x (.outOfStep (rejectDetail expected))
    | .select => s.onSelectReject n x expected
    | .reset => s.onSelectReject n x expected
    | .broadcast => s.onSelectReject n x expected

/-- R52, R112: a frame that passed its check. -/
def State.onFrame (s : State) (n : LineNo) (t : Turn) (control : Byte) (payload : List Byte) : State :=
  match classify t.exch.frame t.exch.control control payload with
  | .wellFormed reply => s.onReply n t control reply
  | .garbled => s.failTurn n t.exch
  | .protocolError c => (s.noteProtocolError n t.exch c).failTurn n t.exch

/-! ### Turns given up or abandoned, and retries given up -/

/-- R108: the turn is given up in GUARD. The request of a SELECT's retry turn has delivery_unknown set; the line becomes
JAMMED and LINE_JAMMED is offered. -/
def State.jamTurn (s : State) (n : LineNo) (x : Exchange) : State :=
  let mark : Request → Request := fun r =>
    { r with deliveryUnknown := r.deliveryUnknown || (decide (x.frame = .select) && decide (1 < x.turns)) }
  let served := match x.slot with
    | some k => s.slotIs n k .answering || s.slotIs n k .active
    | none => false
  let t := if served then
      s.settleContinuing n x
        (fun r => if r.state = .active then { mark r with state := .waiting } else r)
        (fun r => if r.state = .active then mark r else r)
    else s
  let address := match x.station with
    | some a => a
    | none => 0
  let t := t.offer (eventOf .lineJammed (lineByte n) address x.frame.code.toNat)
  t.finishTurn n x true .silent none .jammed

/-- R93, R167, R177, R180: a retry pending is given up: the exchange's result is decided as at the end of a failed turn with
retries left: status `st` for its request; the report, withheld under DETACH; on a RUNNING device a passed answer deadline of
the station's head (R112 steps 2 to 5, R121). What stands behind the request is left to the rule that gives the retry up. The
flush of R24 is CANCEL's alone: STOP and LINE_DISABLE abort what stands behind (log entry 10). -/
def State.giveUpRetry (s : State) (n : LineNo) (st : LineStatus) (report : Bool) : State :=
  match (s.line n).sched.retry with
  | none => s
  | some x =>
    let mark : Request → Request := fun r =>
      { r with deliveryUnknown := r.deliveryUnknown || decide (x.frame = FrameKind.select) }
    let t : State := match x.slot with
      | some k => s.makeDone n k st mark
      | none => s
    let t : State := match report, x.station with
      | true, some address => t.noteAbandoned n address x
      | _, _ => t
    let t := if t.running then t.settleAnswering n x true else t
    t.onLine n fun l =>
      { l with sched := { l.sched with retry := none }, buf := { l.buf with reserved := false } }

end Sys2Proof.Machine
end

