-- ==== Sys2Proof/Machine/Buffers.lean ====
section
/-! DEFINITION. The Buffer Unit: descriptor claims, and the end of a write of accepted DATA (Section 7). -/

namespace Sys2Proof.Machine

/-- R126: the conditions of a descriptor claim. -/
def State.mayClaimDescriptor (s : State) (n : LineNo) : Bool :=
  s.running && (s.line n).enabled && !s.disabling n && decide (1 ≤ (s.bqRing n).available)
    && decide ((s.line n).buf.cache.length < 4) && (s.line n).buf.reading.isNone

/-- R126: a descriptor is claimed and its read asked for. -/
def State.claimDescriptor (s : State) (n : LineNo) : State :=
  let ring := s.bqRing n
  ((s.setBq n ring.claim).onLine n fun l => { l with buf := { l.buf with reading := some false } }).request
    (readAccess (.descriptorRead n) (entryAddr ring.base 16 ring.c) 16)

def State.afterDescriptorClaim (s : State) (n : LineNo) : State :=
  if s.mayClaimDescriptor n then s.claimDescriptor n else s

def execDescriptorClaim (n : LineNo) (s : State) : Host.Outcome State Fault Refusal := .next (s.afterDescriptorClaim n)

/-- R127: a descriptor read completes: it joins the cache, or is discarded. -/
def State.descriptorArrived (s : State) (n : LineNo) (rec : List Byte) : State :=
  (s.onLine n fun l =>
    { l with buf := { l.buf with
        reading := none
        cache := if l.buf.reading = some false then l.buf.cache ++ [descriptorOf rec] else l.buf.cache } }).drainCache n

def State.afterDescriptorRead (s : State) (rec : List Byte) : State :=
  match s.port.inFlight with
  | some a =>
    match a.kind with
    | .descriptorRead n =>
      if rec.length = 16 then
        if s.heeds a then (s.finishAccess a).descriptorArrived n rec else s.finishAccess a
      else s
    | _ => s
  | none => s

def execDescriptorReadDone (rec : List Byte) (s : State) : Host.Outcome State Fault Refusal := .next (s.afterDescriptorRead rec)

/-- R130 step 3: the descriptor leaves the cache and the arrival record enters the posting queue at the place the turn
reserved. -/
def State.postArrival (s : State) (n : LineNo) (d : Descriptor) (station : Byte) (st : Store) : State :=
  s.onLine n fun l =>
    { l with
      buf := { l.buf with cache := l.buf.cache.tail, reserved := false }
      post := { l.post with
        queue := l.post.queue ++ [arrivalOf n d.tag station st.length st.truncated], reservation := false } }

/-- R130: the write into the reserved buffer has completed. -/
def State.bufferStored (s : State) (n : LineNo) : State :=
  match (s.line n).turn?, (s.line n).buf.cache with
  | some t, d :: _ =>
    match t.store with
    | some st =>
      (s.postArrival n d t.exch.address st).finishTurn n t.exch false (.success (.stored st.seq)) none .idle
    | none => s
  | _, _ => s

def State.afterBufferWrite (s : State) : State :=
  match s.port.inFlight with
  | some a =>
    match a.kind with
    | .bufferWrite n => if s.heeds a then (s.finishAccess a).bufferStored n else s.finishAccess a
    | _ => s
  | none => s

def execBufferWriteDone (s : State) : Host.Outcome State Fault Refusal := .next s.afterBufferWrite

/-- R132: the write into the answer area has completed: the QUERY becomes DONE with status OK. -/
def State.answerStored (s : State) (n : LineNo) : State :=
  match (s.line n).turn? with
  | some t =>
    match t.store, t.exch.slot with
    | some st, some k =>
      (s.makeDone n k .ok fun r => { r with answerLength := st.length, truncated := st.truncated }).finishTurn
        n t.exch false (.success (.stored st.seq)) none .idle
    | _, _ => s
  | none => s

def State.afterAnswerWrite (s : State) : State :=
  match s.port.inFlight with
  | some a =>
    match a.kind with
    | .answerWrite n => if s.heeds a then (s.finishAccess a).answerStored n else s.finishAccess a
    | _ => s
  | none => s

def execAnswerWriteDone (s : State) : Host.Outcome State Fault Refusal := .next s.afterAnswerWrite

end Sys2Proof.Machine
end

