-- ==== Sys2Proof/Machine/EventRegister.lean ====
section
/-! DEFINITION. The EVENT register and the writes into the event ring (9.2, 9.4). -/

namespace Sys2Proof.Machine

/-! ### EVENT (9.4) -/

/-- R157: a read of EVENT. While the reset input is asserted it returns the value the register takes after a device reset
(R162). -/
def State.afterTake (s : State) : State :=
  if s.resetHeld then { s with eventRead := eventWord 7 .reset }
  else { s with events := s.events.taken, eventRead := eventWord (takeCode s.events) s.events.taken }

def execTake (s : State) : Host.Outcome State Fault Refusal := .next s.afterTake

/-- R158: a RELEASE. -/
def State.afterRelease (s : State) : State := if s.resetHeld then s else { s with events := s.events.released }

def execRelease (s : State) : Host.Outcome State Fault Refusal := .next s.afterRelease

/-- R159: a SET_MASK. The command is the operation: of its word only the mask bits are read (log entry 25). -/
def State.afterSetMask (s : State) (w : Word) : State :=
  if s.resetHeld then s else { s with events := s.events.masked (maskBits w) }

def execSetMask (w : Word) (s : State) : Host.Outcome State Fault Refusal := .next (s.afterSetMask w)

/-! ### Event record writes (9.2) -/

/-- R152: the record at the head of the FIFO as it is written: the missed count and the lap value placed. -/
def EventRecord.placed (r : EventRecord) (missed : Nat) (lap : Bool) : EventRecord := { r with missed := missed, lap := lap }

/-- R152: the write of the head record begins. -/
def State.afterEventWriteStart (s : State) : State :=
  match s.events.fifo with
  | [] => s
  | r :: rest =>
    if s.active ∧ s.events.writing = false ∧ s.er.room then
      let placed := r.placed s.events.missed s.er.lap
      { s with events := { s.events with fifo := placed :: rest, missed := 0, writing := true } }.request
        (writeAccess .eventWrite (entryAddr s.er.base 16 s.er.producer) placed.bytes)
    else s

def execEventWriteStart (s : State) : Host.Outcome State Fault Refusal := .next s.afterEventWriteStart

/-- R152: the record being written leaves the FIFO, ER advances and the record's class becomes pending; a full ER then drops
what is staged (R153). -/
def State.eventWritten (s : State) : State :=
  match s.events.writing, s.events.fifo with
  | true, r :: rest =>
    { s with
      er := s.er.advance
      events := ({ s.events with fifo := rest, writing := false }.setPending r.kind.eventClass).settle s.er.advance.room }
  | _, _ => s

/-- The ER record write completes; in FAULTED the ring never shows the record (R172). -/
def State.afterEventWriteDone (s : State) : State :=
  match s.port.inFlight with
  | some a =>
    if a.kind = .eventWrite then
      if s.heeds a then (s.finishAccess a).eventWritten else s.dropRecord a
    else s
  | none => s

def execEventWriteDone (s : State) : Host.Outcome State Fault Refusal := .next s.afterEventWriteDone

end Sys2Proof.Machine
end

