-- ==== Sys2Proof/Machine/HostAccess.lean ====
section
/-! DEFINITION. The Host Port's choice of an access, and a failed access (10.6, 10.7). -/

namespace Sys2Proof.Machine

/-- R171: with no access in flight the Host Port starts the next one; in FAULTED it starts none. -/
def State.afterAccessStart (s : State) : State :=
  if s.control.device = .faulted then s else { s with port := s.port.startNext }

def execHostPortAccessStart (s : State) : Host.Outcome State Fault Refusal := .next s.afterAccessStart

/-- R172, R173: the access in flight fails after `words` of its words. With `startFirst` the start of the next waiting access
is acted on before the entry into FAULTED. -/
def State.afterBusError (s : State) (words : Nat) (startFirst : Bool) : State :=
  match s.port.inFlight with
  | none => s
  | some a =>
    let t : State := { s with port := { s.port with inFlight := none }, hostMem := s.hostMem.afterCut a words }
    match s.control.device with
    | .idle => t
    | .faulted => { t with control := { t.control with furtherFault := true } }
    | _ => (if startFirst then { t with port := t.port.startNext } else t).enterFaulted a.kind

def execBusError (words : Nat) (startFirst : Bool) (s : State) : Host.Outcome State Fault Refusal :=
  .next (s.afterBusError words startFirst)

end Sys2Proof.Machine
end

