-- ==== Sys2Proof/Machine/HostCommands.lean ====
section
/-! DEFINITION. The host's writes of POST, BASE and COMMAND, the reset input, the end of the control block read, the end of
the drain, and the reads of the register window that change nothing (1.3, 10.1 to 10.4, 10.8, 13.1). -/

namespace Sys2Proof.Machine

/-! ### POST (1.3) -/

/-- R7, R8: the state after a POST of index `i` to ring `id`, when it is taken. -/
def State.postTaken (s : State) (id i : Nat) : Option State :=
  if h : id < 9 then
    if (s.sqRing ⟨id, h⟩).accepts i then some (s.setSq ⟨id, h⟩ { s.sqRing ⟨id, h⟩ with p := i }) else none
  else if h : id - 9 < 5 then
    if (s.cqRing ⟨id - 9, h⟩).accepts i then some (s.setCq ⟨id - 9, h⟩ ((s.cqRing ⟨id - 9, h⟩).release i)) else none
  else if h : id - 14 < 4 then
    if (s.bqRing ⟨id - 14, h⟩).accepts i then some (s.setBq ⟨id - 14, h⟩ { s.bqRing ⟨id - 14, h⟩ with p := i }) else none
  else if id = 18 then
    if s.er.accepts i then some { s with er := s.er.release i } else none
  else none

/-- R9: the record a rejected POST offers. -/
def postRejected (id : Nat) : EventRecord := eventOf .postRejected (ringLineByte id) 0 id

/-- R6: a write of POST. -/
def State.afterPost (s : State) (w : Word) : State :=
  if s.resetHeld = false ∧ s.active then
    match s.postTaken (postRing w).toNat (postIndex w) with
    | some t => t
    | none => s.offer (postRejected (postRing w).toNat)
  else s

def execPost (w : Word) (s : State) : Host.Outcome State Fault Refusal := .next (s.afterPost w)

/-! ### BASE and COMMAND (10.1, 10.2) -/

/-- One half of BASE replaced. -/
def baseReplaced (base : Addr) (high : Bool) (w : Word) : Addr :=
  if high then w ++ base.extractLsb' 0 32 else base.extractLsb' 32 32 ++ w

/-- R162: a write of BASE_LO or BASE_HI. -/
def State.afterBaseWrite (s : State) (high : Bool) (w : Word) : State :=
  if s.resetHeld = false ∧ s.control.device = .idle then
    { s with control := { s.control with base := baseReplaced s.control.base high w } }
  else s

def execBaseWrite (high : Bool) (w : Word) (s : State) : Host.Outcome State Fault Refusal := .next (s.afterBaseWrite high w)

/-- R164: a command write that is refused. -/
def State.refuseCommand (s : State) : State := { s with control := { s.control with lastCommand := .refused } }

/-- R164: the window ignores writes while the reset input is asserted (R162). -/
def State.onCommand (s : State) (taken : Bool) (f : State → State) : State :=
  if s.resetHeld then s else if taken then f s else s.refuseCommand

/-- R165: START is taken. -/
def State.starting (s : State) : State :=
  { s with control := { s.control with device := .starting, lastCommand := .accepted } }.request
    (readAccess .controlBlockRead s.control.base 512)

def execStart (s : State) : Host.Outcome State Fault Refusal :=
  .next (s.onCommand (decide (s.control.device = .idle)) State.starting)

/-! ### STOP (10.4) -/

/-- R133: the turn in flight is writing an answer for the head of this station's list. -/
def Line.storingAnswer (l : Line) (address : Byte) : Bool :=
  match l.turn? with
  | some t =>
    decide (t.phase = .store) && decide (t.exch.station = some address)
      && (match t.store with
        | some st => st.answer
        | none => false)
  | none => false

/-- R167: a list whose head is ACTIVE, its turn in flight, is left to that turn's end; so is one whose head's answer is being
written (R133). -/
def State.leftToTurn (s : State) (n : LineNo) (ks : List SlotNo) (storing : Bool) : Bool :=
  storing || (match ks with
    | [] => false
    | k :: _ => s.slotIs n k .active)

/-- R167: the WAITING and ANSWERING slots of a line become DONE with status ABORTED. -/
def State.stopSlots (s : State) (n : LineNo) : State :=
  let t := (s.ring n).foldl (fun t e =>
    if t.leftToTurn n e.pending ((t.line n).storingAnswer e.address) then t else t.endAll n .aborted e.pending) s
  if t.leftToTurn n (t.line n).pool.broadcast false then t else t.endAll n .aborted (t.line n).pool.broadcast

/-- R167, R127, R14: what STOP does on one line at once. The slot of a retry given up, an ANSWERING head that a POLL served too,
becomes DONE before the slots that are taken in station ring order (log entry 28). -/
def State.stopLine (s : State) (n : LineNo) : State :=
  let t := s.onLine n fun l =>
    { l with
      fetch := l.fetch.map fun f => { f with overtaken := true }
      buf := { l.buf with reading := l.buf.reading.map fun _ => true }
      sched := { l.sched with pollTimer := none } }
  ((t.giveUpRetry n .aborted true).stopSlots n).drainCache n

/-- R167: STOP is taken. -/
def State.stopTaken (s : State) : State :=
  let t := { s with control := { s.control with device := .stopping, lastCommand := .accepted } }
  t.forLines fun n u => u.stopLine n

def execStop (s : State) : Host.Outcome State Fault Refusal :=
  .next (s.onCommand s.running State.stopTaken)

/-! ### RESUME_ADMIN and the refused codes -/

/-- R13: SQ0 becomes ACTIVE. -/
def State.adminResumed (s : State) : State :=
  { s with control := { s.control with lastCommand := .accepted } }.setSq 0 { s.sqRing 0 with state := .active }

/-- R13: when RESUME_ADMIN is taken. -/
def State.resumeAllowed (s : State) : Bool :=
  decide ((s.sqRing 0).state = .halted) && (s.active || decide (s.control.device = .idle))

def execResumeAdmin (s : State) : Host.Outcome State Fault Refusal :=
  .next (s.onCommand s.resumeAllowed State.adminResumed)

/-- R174: the command is taken in every device state; the window ignores it while the reset input is asserted, when every
block already stands at its reset value. -/
def execDeviceReset (s : State) : Host.Outcome State Fault Refusal :=
  .next (if s.resetHeld then s else s.deviceReset)

/-- R164: a COMMAND write whose code is not 1..4. A word that carries one of those codes is not this command (log entry 1). -/
def execCommandInvalid (w : Word) (s : State) : Host.Outcome State Fault Refusal :=
  .next (if 1 ≤ commandCode w ∧ commandCode w ≤ 4 then s else s.onCommand false id)

/-! ### The reset input (10.8) -/

/-- R174: assertion performs a device reset and holds the part. -/
def execResetInput (s : State) : Host.Outcome State Fault Refusal :=
  .next (if s.resetHeld then s else { s.deviceReset with resetHeld := true })

def execResetInputRelease (s : State) : Host.Outcome State Fault Refusal := .next { s with resetHeld := false }

/-- R162, R159, R184: a write of the window that changes nothing. -/
def execRegisterWriteIgnored (_offset : BitVec 5) (_size : Nat) (_w : Word) (s : State) : Host.Outcome State Fault Refusal :=
  .next s

/-! ### The end of START (10.3) -/

/-- R1, R16: a host-fed ring from its descriptor. -/
def hostRingFrom (block : List Byte) (k : Nat) : HostRing :=
  if blockCount block k = 0 then .reset else ⟨blockBase block k, blockCount block k, .active, 0, 0⟩

/-- R1, R16: a part-fed ring from its descriptor. -/
def partRingFrom (block : List Byte) (k : Nat) : PartRing :=
  if blockCount block k = 0 then .reset else ⟨blockBase block k, blockCount block k, .active, 0, true, 0, 0⟩

/-- R166: START ends START_INVALID, naming ring `k`. -/
def State.startRefused (s : State) (k : Nat) : State :=
  { s with control := { s.control with
      device := .idle, lastCommand := .startInvalid, invalidRing := BitVec.ofNat 5 k } }.ringsAbsent

/-- R101, R124, R135, R149: a line's START values; its configuration and transmit buffer are kept. -/
def Line.started (l : Line) : Line :=
  { l with
    state := if l.state = .disabled then .disabled else .idle
    streak := 0, fetch := none, pool := .reset, sched := .reset, buf := .reset, post := .reset }

/-- R166: START succeeds. -/
def State.started (s : State) (block : List Byte) : State :=
  let t : State :=
    { s with
      control := { s.control with device := .running }
      sq := Vector.ofFn fun k => hostRingFrom block k.val
      cq := Vector.ofFn fun k => partRingFrom block (9 + k.val)
      bq := Vector.ofFn fun k => hostRingFrom block (14 + k.val)
      er := partRingFrom block 18
      admin := .reset
      stations := s.stations.map Station.resync
      lines := s.lines.map Line.started
      events := { EventUnit.reset with mask := blockMask block } }
  t.forLines fun n u => if (u.line n).enabled then u.startPollTimer n else u

/-- R165, R166: the control block read completes with 512 bytes. -/
def State.afterControlBlock (s : State) (block : List Byte) : State :=
  match s.port.inFlight with
  | some a =>
    if a.kind = .controlBlockRead ∧ block.length = 512 then
      if s.control.device = .starting then
        match firstInvalid block with
        | some k => (s.finishAccess a).startRefused k
        | none => (s.finishAccess a).started block
      else s.finishAccess a
    else s
  | none => s

def execControlBlockReadDone (block : List Byte) (s : State) : Host.Outcome State Fault Refusal :=
  .next (s.afterControlBlock block)

/-! ### The end of the drain (10.4) -/

/-- R169: nothing of the line keeps the device in STOPPING. -/
def Line.drained (l : Line) : Bool :=
  l.turn?.isNone && l.fetch.isNone && l.buf.reading.isNone && decide (∀ k : SlotNo, l.pool.slots[k] = .free)
    && l.post.queue.isEmpty && !l.post.writing && l.buf.cache.isEmpty

/-- R169: the device can reach IDLE. -/
def State.drained (s : State) : Bool :=
  s.stopping && allLines.all (fun n => (s.line n).drained) && decide (s.admin.work = .none)
    && s.events.fifo.isEmpty && !s.events.writing

/-- R101, R124, R149: a line when the device reaches IDLE. -/
def Line.idled (l : Line) : Line :=
  { l with
    state := if l.state = .disabled then .disabled else .idle
    streak := 0, sched := .reset
    buf := { l.buf with reserved := false }
    post := { l.post with held := false } }

/-- R169: the device reaches IDLE. -/
def State.idled (s : State) : State :=
  { s with
    control := { s.control with device := .idle }
    stations := s.stations.map Station.resync
    lines := s.lines.map Line.idled }

def execDrainComplete (s : State) : Host.Outcome State Fault Refusal := .next (if s.drained then s.idled else s)

/-! ### Reads of the window that change nothing (10.1, 13.1) -/

/-- R163, Figure 13-2: the word a read of STATE returns. -/
def State.stateWord (s : State) : Word :=
  let c := s.control
  let line : BitVec 8 := match c.faultLine with
    | some n => lineByte n
    | none => 255
  (0#2) ++ BitVec.ofBool (decide ((s.sqRing 0).state = .halted)) ++ BitVec.ofBool c.furtherFault ++ line
    ++ c.faultCode.code ++ (0#3) ++ c.invalidRing ++ (0#2) ++ c.lastCommand.code ++ (0#1) ++ c.device.code

/-- R162, R184, Figure 13-1: what a read of the window at a byte offset returns. A read of EVENT is TAKE, a command of its
own: here it is the value the last one returned. -/
def State.readRegister (s : State) (offset : Nat) : Word :=
  if offset / 4 = 0 then s.control.base.extractLsb' 0 32
  else if offset / 4 = 1 then s.control.base.extractLsb' 32 32
  else if offset / 4 = 3 then s.stateWord
  else if offset / 4 = 5 then s.eventRead
  else 0

end Sys2Proof.Machine
end

