-- ==== Sys2Proof/Machine/Admin.lean ====
section
/-! DEFINITION. The Admin Unit: claims, the value checks of Figure 2-5, and the requests on stations and rings
(1.4, 2.3, 4.8 to 4.10, 10.5). -/

namespace Sys2Proof.Machine

/-! ### ADMIN_CLAIM (R170, R147) -/

/-- R170: the conditions of a claim from SQ0. -/
def State.mayClaimAdmin (s : State) : Bool :=
  s.running && decide (1 ≤ (s.sqRing 0).available) && decide (s.admin.work = .none) && (s.cqRing 0).room

/-- R170, R147: the record is claimed, the CQ0 reservation made and the read asked for. -/
def State.claimAdmin (s : State) : State :=
  let ring := s.sqRing 0
  { s.setSq 0 ring.claim with admin := ⟨.reading, true⟩ }.request
    (readAccess .adminRead (entryAddr ring.base 32 ring.c) 32)

def State.afterAdminClaim (s : State) : State := if s.mayClaimAdmin then s.claimAdmin else s

def execAdminClaim (s : State) : Host.Outcome State Fault Refusal := .next s.afterAdminClaim

/-! ### An admin record arrives (R28) -/

/-- The SQ0 read in flight completes with a record this command is for (`ok`): it is examined and executed by `f`. -/
def State.onAdminRecord (s : State) (ok : Bool) (f : State → State) : State :=
  match s.port.inFlight with
  | some a =>
    if a.kind = .adminRead ∧ ok then
      if s.heeds a then f (s.finishAccess a) else s.finishAccess a
    else s
  | none => s

/-- R28 step 2: the request is completed BAD_PARAM unless its value checks pass. -/
def State.checked (s : State) (rec : List Byte) (station : Byte) (ok : Bool) (f : State → State) : State :=
  if ok then f s else s.completeAdmin (adminTag rec) .badParam station 0

/-- The line an admin record names; 0 where it names none, which the value checks refuse before any use. -/
def lineNamed (rec : List Byte) : LineNo :=
  match adminLineNo rec with
  | some n => n
  | none => 0

/-- R11: SQ0 halts; the record is completed MALFORMED, station 0. -/
def State.malformedAdmin (s : State) (rec : List Byte) : State :=
  ((s.setSq 0 { s.sqRing 0 with state := .halted }).offer (eventOf .queueHalted 255 0 0)).completeAdmin
    (adminTag rec) .malformed 0 0

def execAdminMalformed (rec : List Byte) (s : State) : Host.Outcome State Fault Refusal :=
  .next (s.onAdminRecord (decide (rec.length = 32) && !adminKindKnown rec) fun t => t.malformedAdmin rec)

/-- A 32-byte record of kind `k`. -/
def isKind (k : Nat) (rec : List Byte) : Bool := decide (rec.length = 32) && decide (adminKind rec = k)

/-! ### ATTACH, DETACH (R74 to R76) -/

/-- Figure 2-5: the line and station checks. -/
def lineStationOk (rec : List Byte) : Bool := (adminLineNo rec).isSome && adminStationOk rec

/-- R74: the three conditions in order. -/
def State.attach (s : State) (rec : List Byte) : State :=
  let n := lineNamed rec
  let done := fun (t : State) (st : AdminStatus) => t.completeAdmin (adminTag rec) st (adminStation rec) 0
  if (s.station? n (adminStation rec)).isSome then done s .duplicate
  else if 64 ≤ s.stations.length then done s .tableFull
  else (done { s with stations := s.stations ++ [attachedStation n rec] } .ok).settleHeld n

def execAttach (rec : List Byte) (s : State) : Host.Outcome State Fault Refusal :=
  .next (s.onAdminRecord (isKind 4 rec) fun t =>
    t.checked rec (adminStation rec) (lineStationOk rec && stationParamsOk rec) fun u => u.attach rec)

/-- R75: a turn to the station is in flight. -/
def Line.turnTo (l : Line) (address : Byte) : Bool :=
  match l.turn? with
  | some t => decide (t.exch.station = some address)
  | none => false

/-- R93: a retry pending of an exchange to the station. -/
def Line.retryTo (l : Line) (address : Byte) : Bool :=
  match l.sched.retry with
  | some x => decide (x.station = some address)
  | none => false

/-- R75, R76, R93: the entry is freed at once, or the DETACH waits for the turn in flight. -/
def State.detach (s : State) (rec : List Byte) : State :=
  let n := lineNamed rec
  let a := adminStation rec
  if (s.station? n a).isNone then s.completeAdmin (adminTag rec) .notFound a 0
  else if (s.line n).turnTo a then
    let t := s.onStation n a fun e => { e with detachPending := true }
    { t with admin := { t.admin with work := .detaching (adminTag rec) n a } }
  else
    let t := if (s.line n).retryTo a then s.giveUpRetry n .detached false else s
    ((t.freeStation n a).completeAdmin (adminTag rec) .ok a 0).settleHeld n

def execDetach (rec : List Byte) (s : State) : Host.Outcome State Fault Refusal :=
  .next (s.onAdminRecord (isKind 5 rec) fun t =>
    t.checked rec (adminStation rec) (lineStationOk rec) fun u => u.detach rec)

/-! ### STATION_SET, STATION_READ (R78, R79) -/

/-- R78: the five parameters. -/
def State.stationSet (s : State) (rec : List Byte) : State :=
  let n := lineNamed rec
  let a := adminStation rec
  if (s.station? n a).isNone then s.completeAdmin (adminTag rec) .notFound a 0
  else (s.onStation n a fun e => e.withParams rec).completeAdmin (adminTag rec) .ok a 0

def execStationSet (rec : List Byte) (s : State) : Host.Outcome State Fault Refusal :=
  .next (s.onAdminRecord (isKind 6 rec) fun t =>
    t.checked rec (adminStation rec) (lineStationOk rec && stationParamsOk rec) fun u => u.stationSet rec)

/-- R79: the three counters return to 0. -/
def Station.cleared (e : Station) : Station := { e with exchanges := 0, failedTurns := 0, protocolErrors := 0 }

/-- R79: the snapshot is taken, the counters cleared if asked, and the write of the snapshot asked for. -/
def State.stationRead (s : State) (rec : List Byte) : State :=
  let n := lineNamed rec
  let a := adminStation rec
  match s.station? n a with
  | none => s.completeAdmin (adminTag rec) .notFound a 0
  | some e =>
    let t := if adminClear rec then s.onStation n a Station.cleared else s
    { t with admin := { t.admin with work := .snapshot (adminTag rec) a } }.request
      (writeAccess .snapshotWrite (adminHostArea rec) (e.snapshot s.now))

def execStationRead (rec : List Byte) (s : State) : Host.Outcome State Fault Refusal :=
  .next (s.onAdminRecord (isKind 7 rec) fun t =>
    t.checked rec (adminStation rec) (lineStationOk rec) fun u => u.stationRead rec)

/-- R79: the snapshot write has completed. -/
def State.snapshotWritten (s : State) : State :=
  match s.admin.work with
  | .snapshot tag station => s.completeAdmin tag .ok station 32
  | _ => s

def State.afterSnapshotWrite (s : State) : State :=
  match s.port.inFlight with
  | some a =>
    if a.kind = .snapshotWrite then
      if s.heeds a then (s.finishAccess a).snapshotWritten else s.finishAccess a
    else s
  | none => s

def execSnapshotWriteDone (s : State) : Host.Outcome State Fault Refusal := .next s.afterSnapshotWrite

/-! ### QUEUE_RESUME (R12) -/

/-- Figure 2-5: the target ring is 1..8. -/
def targetRingOk (rec : List Byte) : Bool := within 1 8 (adminTargetRing rec)

/-- The submission ring with identifier `k`, as an index of `sq`; used for 1..8 only. -/
def targetIndex (rec : List Byte) : Fin 9 := Fin.ofNat 9 (adminTargetRing rec)

/-- R12: a HALTED ring becomes ACTIVE. -/
def State.queueResume (s : State) (rec : List Byte) : State :=
  let k := targetIndex rec
  if (s.sqRing k).state = .halted then
    (s.setSq k { s.sqRing k with state := .active }).completeAdmin (adminTag rec) .ok 0 0
  else s.completeAdmin (adminTag rec) .wrongState 0 0

def execQueueResume (rec : List Byte) (s : State) : Host.Outcome State Fault Refusal :=
  .next (s.onAdminRecord (isKind 9 rec) fun t => t.checked rec 0 (targetRingOk rec) fun u => u.queueResume rec)

/-! ### The completion write (R147) -/

/-- R147: with the CQ0 reservation standing, CQ0 advances, class 2 becomes pending and the request is no longer in
progress. -/
def State.adminWritten (s : State) : State :=
  if s.admin.reservation then { s.setCq 0 (s.cqRing 0).advance with admin := ⟨.none, false⟩ }.classPending 2 else s

/-- A completion write into CQ0 completes; in FAULTED the ring never shows the record (R32). -/
def State.afterAdminWrite (s : State) : State :=
  match s.port.inFlight with
  | some a =>
    if a.kind = .adminWrite then
      if s.heeds a then (s.finishAccess a).adminWritten else s.dropRecord a
    else s
  | none => s

def execAdminCompletionWriteDone (s : State) : Host.Outcome State Fault Refusal := .next s.afterAdminWrite

end Sys2Proof.Machine
end

