-- ==== Sys2Proof/Machine/LineAdmin.lean ====
section
/-! DEFINITION. The admin requests that act on a line or on one of its requests: LINE_SETUP, LINE_DISABLE, LINE_RESET,
CANCEL (6.1, Section 11). -/

namespace Sys2Proof.Machine

/-! ### LINE_SETUP (R103) -/

/-- Figure 2-5: the checks of LINE_SETUP. -/
def State.lineSetupOk (s : State) (rec : List Byte) : Bool :=
  match adminLineNo rec with
  | none => false
  | some n =>
    lineParamsOk rec && decide ((s.cqOf n).state ≠ .absent)
      && (decide ((s.sqRing (sqIndex n true)).state ≠ .absent) || decide ((s.sqRing (sqIndex n false)).state ≠ .absent))

/-- R103, R101, R135: a DISABLED line set up. -/
def Line.setUp (l : Line) (c : LineConfig) : Line :=
  { l with
    config := c, state := .idle, txBuf := [], streak := 0, sched := .reset
    buf := { l.buf with exhausted := false } }

/-- R103. -/
def State.lineSetup (s : State) (rec : List Byte) : State :=
  let n := lineNamed rec
  if (s.line n).enabled then s.completeAdmin (adminTag rec) .wrongState 0 0
  else
    let t := (s.onLine n fun l => l.setUp (lineParams rec)).startPollTimer n
    (t.completeAdmin (adminTag rec) .ok 0 0).settleHeld n

def execLineSetup (rec : List Byte) (s : State) : Host.Outcome State Fault Refusal :=
  .next (s.onAdminRecord (isKind 1 rec) fun t => t.checked rec 0 (t.lineSetupOk rec) fun u => u.lineSetup rec)

/-! ### What a request made DONE (R179, R180) -/

/-- The slots that joined the DONE order since it held `before` slots. -/
def State.madeSince (s : State) (n : LineNo) (before : Nat) : List SlotNo := (s.line n).pool.doneOrder.drop before

/-- R179, R180: every slot of a list has entered the posting queue. -/
def State.allEntered (s : State) (n : LineNo) (made : List SlotNo) : Bool :=
  made.all fun k => !(s.line n).pool.doneOrder.contains k

/-- The fetch in flight, if any, is overtaken (R14). -/
def Line.overtakeFetch (l : Line) : Line := { l with fetch := l.fetch.map fun f => { f with overtaken := true } }

/-! ### LINE_DISABLE (R180) -/

/-- R180: what takes effect at the take. Of the slots a retry given up leaves DONE only those made ABORTED are waited for (log
entry 23). -/
def State.disableTaken (s : State) (n : LineNo) (tag : Half) : State :=
  let before := (s.line n).pool.doneOrder.length
  let t := s.onLine n fun l =>
    { l.overtakeFetch with buf := { l.buf with reading := l.buf.reading.map fun _ => true } }
  let t := t.giveUpRetry n .aborted true
  let made := (t.madeSince n before).filter fun k => decide (t.outcome? n k = some .aborted)
  if (t.line n).turn?.isSome then { t with admin := { t.admin with work := .disabling tag n false .ok made } }
  else t.disableEnded n tag .ok made

def State.lineDisable (s : State) (rec : List Byte) : State :=
  let n := lineNamed rec
  if (s.line n).enabled then s.disableTaken n (adminTag rec)
  else s.completeAdmin (adminTag rec) .wrongState 0 0

def execLineDisable (rec : List Byte) (s : State) : Host.Outcome State Fault Refusal :=
  .next (s.onAdminRecord (isKind 2 rec) fun t =>
    t.checked rec 0 (adminLineNo rec).isSome fun u => u.lineDisable rec)

/-- R180: the reads in flight have arrived: the cache is emptied and the line becomes DISABLED, its receiver stopped. -/
def State.disableLine (s : State) (n : LineNo) : State :=
  if (s.line n).fetch.isNone ∧ (s.line n).buf.reading.isNone then
    s.onLine n fun l =>
      { l with state := .disabled, de := false, rx := .reset, buf := { l.buf with cache := [], reserved := false } }
  else s

/-- R180: the LINE_DISABLE in progress goes on: the line becomes DISABLED, and once every slot it made DONE has entered the
queue the completion is composed. -/
def State.afterDisableComplete (s : State) : State :=
  match s.active, s.admin.work with
  | true, .disabling tag n true st made =>
    let t := s.disableLine n
    if (t.line n).enabled = false ∧ t.allEntered n made then t.completeAdmin tag st 0 0 else t
  | _, _ => s

def execLineDisableComplete (s : State) : Host.Outcome State Fault Refusal := .next s.afterDisableComplete

/-! ### LINE_RESET (R178, R179, R122) -/

/-- The exchange a LINE_RESET abandons: that of the turn in flight, or of the retry pending. -/
def Line.exchange? (l : Line) : Option Exchange :=
  match l.turn? with
  | some t => some t.exch
  | none => l.sched.retry

/-- R178: the abandoned exchange's request, if it is still ACTIVE or ANSWERING, is the first slot made DONE. delivery_unknown
is set when a SELECT or a BROADCAST of the exchange reached the wire, whole or cut. -/
def State.abortExchange (s : State) (n : LineNo) (x : Exchange) : State :=
  match x.slot with
  | some k =>
    if s.slotIs n k .active || s.slotIs n k .answering then
      s.makeDone n k .aborted fun r =>
        { r with deliveryUnknown := r.deliveryUnknown
            || (x.sent && (decide (x.frame = .select) || decide (x.frame = .broadcast))) }
    else s
  | none => s

/-- R178, R67: the exchange is reported abandoned. -/
def State.reportAbandoned (s : State) (n : LineNo) (x : Exchange) : State :=
  match x.station with
  | some a => s.noteAbandoned n a x
  | none => s

/-- R122, R133: the accesses of the line's turn. -/
def turnAccess (n : LineNo) (k : AccessKind) : Bool :=
  decide (k = .payloadRead n) || decide (k = .bufferWrite n) || decide (k = .answerWrite n)

/-- R178, R179: the line's own parts at the take. The line is IDLE from the take (R178) and not only when the reset completes
(R122): log entry 20. -/
def Line.resetTaken (l : Line) : Line :=
  { l.overtakeFetch with
    state := .idle, de := false, txBuf := [], streak := 0, sched := .reset
    buf := { l.buf with reserved := false }
    post := { l.post with reservation := false } }

/-- R178, R179: what takes effect at the take. In STOPPING (R168) the cache is emptied with the turn gone (R169). -/
def State.resetTaken (s : State) (n : LineNo) (tag : Half) : State :=
  let before := (s.line n).pool.doneOrder.length
  let t : State := match (s.line n).exchange? with
    | some x => (s.abortExchange n x).reportAbandoned n x
    | none => s
  let t := ((t.endAll n .aborted (t.listed n)).resyncLine n).onLine n Line.resetTaken
  let made := t.madeSince n before
  let t := { t with
    port := t.port.abandon (turnAccess n)
    admin := { t.admin with work := .resetting tag n made } }
  (t.drainCache n).settleHeld n

def State.lineReset (s : State) (rec : List Byte) : State :=
  let n := lineNamed rec
  if (s.line n).enabled then s.resetTaken n (adminTag rec)
  else s.completeAdmin (adminTag rec) .wrongState 0 0

def execLineReset (rec : List Byte) (s : State) : Host.Outcome State Fault Refusal :=
  .next (s.onAdminRecord (isKind 3 rec) fun t =>
    t.checked rec 0 (adminLineNo rec).isSome fun u => u.lineReset rec)

/-- R179: no slot of the line is WAITING, ACTIVE, ANSWERING or set aside. -/
def Line.settled (l : Line) : Bool :=
  (List.finRange 16).all fun k => match l.pool.slots[k] with
    | .free => true
    | .setAside => false
    | .held r => decide (r.state = .done)

/-- R179: the LINE_RESET in progress completes. -/
def State.afterResetComplete (s : State) : State :=
  match s.active, s.admin.work with
  | true, .resetting tag n made =>
    if (s.line n).settled ∧ s.allEntered n made then
      ((s.startPollTimer n).completeAdmin tag .ok 0 0).settleHeld n
    else s
  | _, _ => s

def execLineResetComplete (s : State) : Host.Outcome State Fault Refusal := .next s.afterResetComplete

/-! ### CANCEL (R175 to R177) -/

/-- The line of the target ring, for 1..8 (Section 1). -/
def targetLine (rec : List Byte) : LineNo := Fin.ofNat 4 (sqLine (adminTargetRing rec))

/-- The target ring is its line's urgent ring: an odd identifier (Section 1). -/
def targetUrgent (rec : List Byte) : Bool := decide (adminTargetRing rec % 2 = 1)

/-- R175: the slots that hold a request of that ring and tag, DONE or not. -/
def Line.matching (l : Line) (urgent : Bool) (tag : Half) (done : Bool) : List (SlotNo × Request) :=
  (List.finRange 16).filterMap fun k =>
    match l.held? k with
    | some r => if r.urgent = urgent ∧ r.tag = tag ∧ decide (r.state = .done) = done then some (k, r) else none
    | none => none

/-- R175: the one taken earliest. -/
def earliest : List (SlotNo × Request) → Option (SlotNo × Request)
  | [] => none
  | p :: ps =>
    match earliest ps with
    | none => some p
    | some q => if q.2.takeNo < p.2.takeNo then some q else some p

/-- R176, R177: the CANCEL waits for the end of the target's turn. -/
def State.cancelWaits (s : State) (n : LineNo) (k : SlotNo) (tag : Half) : State :=
  let t := s.onRequest n k fun r => { r with cancelMark := true }
  { t with admin := { t.admin with work := .cancelling tag n k } }

/-- The retry pending of the line serves slot `k`. -/
def Line.retryServes (l : Line) (k : SlotNo) : Bool :=
  match l.sched.retry with
  | some x => decide (x.slot = some k)
  | none => false

/-- R176: the answer of the request in slot `k` is being written. -/
def Line.storesAnswerOf (l : Line) (k : SlotNo) : Bool :=
  match l.turn? with
  | some t => decide (t.phase = .store) && decide (t.exch.slot = some k)
  | none => false

/-- R176, R177: a request cancelled at once: it becomes DONE with status CANCELLED, a retry pending that serves it is given
up, and the station's list is then judged under R24. -/
def State.cancelNow (s : State) (n : LineNo) (k : SlotNo) (r : Request) (tag : Half) : State :=
  let t := if (s.line n).retryServes k then s.giveUpRetry n .cancelled true else s.makeDone n k .cancelled id
  ((t.flushOffline n r.station).completeAdmin tag .ok 0 0).settleHeld n

/-- R175: the chosen request is cancelled, marked, or left. -/
def State.cancelFound (s : State) (n : LineNo) (k : SlotNo) (r : Request) (tag : Half) : State :=
  if r.state = .answering ∧ (s.line n).storesAnswerOf k then s.cancelWaits n k tag
  else if r.state = .active ∧ (s.line n).retryServes k = false then s.cancelWaits n k tag
  else s.cancelNow n k r tag

/-- R175: the search in two passes. -/
def State.cancel (s : State) (rec : List Byte) : State :=
  let n := targetLine rec
  let l := s.line n
  match earliest (l.matching (targetUrgent rec) (adminTargetTag rec) false) with
  | some (k, r) => s.cancelFound n k r (adminTag rec)
  | none =>
    if (l.matching (targetUrgent rec) (adminTargetTag rec) true).isEmpty then
      s.completeAdmin (adminTag rec) .notFound 0 0
    else s.completeAdmin (adminTag rec) .tooLate 0 0

def execCancel (rec : List Byte) (s : State) : Host.Outcome State Fault Refusal :=
  .next (s.onAdminRecord (isKind 8 rec) fun t => t.checked rec 0 (targetRingOk rec) fun u => u.cancel rec)

end Sys2Proof.Machine
end

