-- ==== Sys2Proof/Machine/Posting.lean ====
section
/-! DEFINITION. The Posting Path of a line (8.2, 8.3). -/

namespace Sys2Proof.Machine

/-- R140: slot `k` at the front of the DONE order enters the queue and becomes free. -/
def Line.enterQueue (l : Line) (k : SlotNo) (rest : List SlotNo) (r : PostRecord) : Line :=
  { l with
    pool := { l.pool with slots := l.pool.slots.set k .free, doneOrder := rest }
    post := { l.post with queue := l.post.queue ++ [r] } }

/-- R140: the front DONE slot enters when there is an unreserved free place. -/
def State.afterSlotEnters (s : State) (n : LineNo) : State :=
  match s.active && decide ((s.line n).post.taken < 6), (s.line n).pool.doneOrder with
  | true, k :: rest =>
    match s.request? n k, s.outcome? n k with
    | some r, some st => (s.onLine n fun l => l.enterQueue k rest (completionOf n r st)).settleHeld n
    | _, _ => s
  | _, _ => s

def execSlotEntersQueue (n : LineNo) (s : State) : Host.Outcome State Fault Refusal := .next (s.afterSlotEnters n)

/-- R141: the write of the front record begins, at position P with lap value L. -/
def State.afterRecordWriteStart (s : State) (n : LineNo) : State :=
  match (s.line n).post.queue with
  | [] => s
  | r :: _ =>
    if s.active ∧ (s.line n).post.writing = false ∧ (s.cqOf n).room then
      (s.onLine n fun l => { l with post := { l.post with writing := true } }).request
        (writeAccess (.recordWrite n) (entryAddr (s.cqOf n).base 16 (s.cqOf n).producer) (r.bytes (s.cqOf n).lap))
    else s

def execRecordWriteStart (n : LineNo) (s : State) : Host.Outcome State Fault Refusal := .next (s.afterRecordWriteStart n)

/-- R142: the record being written leaves the queue, the ring advances and class 2 becomes pending. -/
def State.recordWritten (s : State) (n : LineNo) : State :=
  if (s.line n).post.writing then
    let t := (s.onLine n fun l => { l with post := { l.post with queue := l.post.queue.tail, writing := false } }).setCq
      (cqIndex n) (s.cqOf n).advance
    (t.classPending 2).settleHeld n
  else s

/-- A completion ring record write completes; in FAULTED the ring never shows the record (R32). -/
def State.afterRecordWrite (s : State) : State :=
  match s.port.inFlight with
  | some a =>
    match a.kind with
    | .recordWrite n => if s.heeds a then (s.finishAccess a).recordWritten n else s.dropRecord a
    | _ => s
  | none => s

def execRecordWriteDone (s : State) : Host.Outcome State Fault Refusal := .next s.afterRecordWrite

end Sys2Proof.Machine
end

