-- ==== Sys2Proof/Machine/Requests.lean ====
section
/-! DEFINITION. Claiming and taking line requests (1.4, 2.2, 5.2). -/

namespace Sys2Proof.Machine

/-! ### FETCH_CLAIM (R85, R86) -/

/-- R86: the ring the next claim goes to, urgent or normal. -/
def chooseRing (streak urgentAvailable normalAvailable : Nat) : Option Bool :=
  if streak = 4 ∧ 0 < normalAvailable then some false
  else if 0 < urgentAvailable then some true
  else if 0 < normalAvailable then some false
  else none

/-- R86: the urgent-streak counter after a claim. -/
def streakAfter (urgent : Bool) (streak : Nat) : Nat := if urgent then min (streak + 1) 4 else 0

/-- R85: every condition of a claim but the pool's and the submission rings'. -/
def State.mayFetch (s : State) (n : LineNo) : Bool :=
  s.running && (s.line n).enabled && !s.resetting n && !s.disabling n && (s.line n).fetch.isNone
    && decide ((s.cqOf n).state = .active)

/-- R3, R82, R86: the record at the ring's consumer index is claimed into slot `k`. -/
def State.claimRequest (s : State) (n : LineNo) (k : SlotNo) (urgent : Bool) : State :=
  let ring := s.sqRing (sqIndex n urgent)
  ((s.setSq (sqIndex n urgent) ring.claim).onLine n fun l =>
    { l.setSlot k .setAside with
      streak := streakAfter urgent l.streak, fetch := some ⟨urgent, k, false⟩ }).request
    (readAccess (.fetchRead n) (entryAddr ring.base 32 ring.c) 32)

/-- R85: the fetch logic claims a record when its conditions hold. -/
def State.afterFetchClaim (s : State) (n : LineNo) : State :=
  match s.mayFetch n, (s.line n).freeSlot?,
    chooseRing (s.line n).streak (s.sqRing (sqIndex n true)).available (s.sqRing (sqIndex n false)).available with
  | true, some k, some urgent => s.claimRequest n k urgent
  | _, _, _ => s

def execFetchClaim (n : LineNo) (s : State) : Host.Outcome State Fault Refusal := .next (s.afterFetchClaim n)

/-! ### TAKE_LINE_REQUEST (R14, R20 to R24) -/

/-- A slot that a LINE_RESET or LINE_DISABLE in progress has made DONE is added to those it waits for (R179, R180). -/
def State.noteMade (s : State) (n : LineNo) (k : SlotNo) : State :=
  match s.admin.work with
  | .resetting tag m made =>
    if m = n then { s with admin := { s.admin with work := .resetting tag m (made ++ [k]) } } else s
  | .disabling tag m ended st made =>
    if m = n then { s with admin := { s.admin with work := .disabling tag m ended st (made ++ [k]) } } else s
  | _ => s

/-- R10: a line submission ring is halted and QUEUE_HALTED offered. -/
def State.haltRing (s : State) (n : LineNo) (urgent : Bool) : State :=
  (s.setSq (sqIndex n urgent) { s.sqRing (sqIndex n urgent) with state := .halted }).offer
    (eventOf .queueHalted (lineByte n) 0 (sqIdOf n urgent))

/-- R21 step 2: slot `k` joins the broadcast list. -/
def State.placeBroadcast (s : State) (n : LineNo) (k : SlotNo) : State :=
  s.onLine n fun l => { l with pool := { l.pool with broadcast := l.pool.broadcast ++ [k] } }

/-- R23: slot `k` joins the end of a station's pending list. -/
def State.placePending (s : State) (n : LineNo) (address : Byte) (k : SlotNo) : State :=
  s.onStation n address fun e => { e with pending := e.pending ++ [k] }

/-- R23: where a request for an existing entry goes. For an OFFLINE entry with detach_pending set and an empty list R23's third
point is followed, where Figure 2-2 would place a SEND or QUERY (log entry 19). -/
def State.placeForStation (s : State) (n : LineNo) (k : SlotNo) (e : Station) (kind : RequestKind) : State :=
  if e.liveness = .offline ∧ kind ≠ .resync ∧ e.pending = [] then s.makeDone n k .offline id
  else s.placePending n e.address k

/-- R21: the four steps. -/
def State.examineRequest (s : State) (n : LineNo) (k : SlotNo) (urgent : Bool) (rec : List Byte) : State :=
  if malformed rec then (s.makeDone n k .malformed id).haltRing n urgent
  else if recKind rec = .broadcast then s.placeBroadcast n k
  else
    match s.station? n (recStation rec) with
    | none => s.makeDone n k .noStation id
    | some e => s.placeForStation n k e (recKind rec)

/-- R22: the slot set aside takes the record's fields, and the fetch is no longer in flight. -/
def State.fillSlot (s : State) (n : LineNo) (f : Fetch) (rec : List Byte) : State :=
  s.onLine n fun l =>
    { l.setSlot f.slot (.held (requestOf f.urgent l.pool.takes rec)) with
      fetch := none
      pool := { (l.setSlot f.slot (.held (requestOf f.urgent l.pool.takes rec))).pool with takes := l.pool.takes + 1 } }

/-- The read of a line request has completed: it is examined (R21), or dealt with as overtaken (R14). -/
def State.requestArrived (s : State) (n : LineNo) (rec : List Byte) : State :=
  match (s.line n).fetch with
  | none => s
  | some f =>
    let t := s.fillSlot n f rec
    let t := if f.overtaken then (t.makeDone n f.slot .aborted id).noteMade n f.slot
      else t.examineRequest n f.slot f.urgent rec
    t.settleHeld n

/-- The read in flight completes with 32 bytes. -/
def State.afterTakeLineRequest (s : State) (rec : List Byte) : State :=
  match s.port.inFlight with
  | some a =>
    match a.kind with
    | .fetchRead n =>
      if rec.length = 32 then
        if s.heeds a then (s.finishAccess a).requestArrived n rec else s.finishAccess a
      else s
    | _ => s
  | none => s

def execTakeLineRequest (rec : List Byte) (s : State) : Host.Outcome State Fault Refusal := .next (s.afterTakeLineRequest rec)

end Sys2Proof.Machine
end

