-- ==== Sys2Proof/Machine/Turns.lean ====
section
/-! DEFINITION. The turns of a line: selection, retry, LOAD, GUARD, SEND, LISTEN and RECEIVE (5.5, 5.6, 6.2). -/

namespace Sys2Proof.Machine

/-! ### Starting a turn (R99, R105) -/

/-- The first turn of an exchange. -/
def firstTurn (kind : TurnKind) (station : Option Byte) (slot : Option SlotNo) (frame : FrameKind) (address control : Byte) :
    Exchange := ⟨kind, station, slot, frame, address, control, 1, false⟩

/-- A turn in LOAD: no timer runs (R106). -/
def loadTurn (x : Exchange) : Turn := ⟨x, .load, none, none, none, none, none, [], none, none⟩

/-- A turn entering GUARD at time `now`: the quiet count and the jam timer start (R107, R108). -/
def guardTurn (x : Exchange) (c : LineConfig) (now : Nat) : Turn :=
  ⟨x, .guard, some (now + charUnits c.rate c.guardChars), some (now + c.jamLimit), none, none, none, [], none, none⟩

/-- R99: the line leaves IDLE for TURN with a posting place reserved. -/
def State.beginTurn (s : State) (n : LineNo) (t : Turn) : State :=
  s.onLine n fun l => { l with state := .turn t, post := { l.post with reservation := true } }

/-- R105: a turn whose payload is at hand: the transmit buffer takes it and the turn begins in GUARD. -/
def State.beginGuard (s : State) (n : LineNo) (x : Exchange) (payload : List Byte) : State :=
  (s.beginTurn n (guardTurn x (s.line n).config s.now)).onLine n fun l => { l with txBuf := payload }

/-- R106: a turn that begins in LOAD asks for its payload. -/
def State.beginLoad (s : State) (n : LineNo) (x : Exchange) (r : Request) : State :=
  (s.beginTurn n (loadTurn x)).request (readAccess (.payloadRead n) r.payloadAddr r.payloadLen.toNat)

/-- The line's scheduler changed by `f`. -/
def State.onScheduler (s : State) (n : LineNo) (f : Scheduler → Scheduler) : State :=
  s.onLine n fun l => { l with sched := f l.sched }

/-- R128: the oldest cached descriptor is reserved, if there is one, and the exhausted flag follows. -/
def BufferUnit.reserve (b : BufferUnit) : BufferUnit :=
  if b.cache.isEmpty then { b with reserved := false, exhausted := true } else { b with reserved := true, exhausted := false }

/-- R129: the detail of BUFFERS_EXHAUSTED: the buffer ring's available count, 0 for an ABSENT ring. -/
def State.exhaustedDetail (s : State) (n : LineNo) : Nat := (s.bqRing n).available

/-- R129: the record of a shortage's onset. -/
def State.noteExhausted (s : State) (n : LineNo) (address : Byte) (before : BufferUnit) : State :=
  if before.cache.isEmpty && !before.exhausted then
    s.offer (eventOf .buffersExhausted (lineByte n) address (s.exhaustedDetail n))
  else s

/-- R44, R128: a POLL turn, with the descriptor it reserves or the ANSWERING head it serves. -/
def State.startPoll (s : State) (n : LineNo) (kind : TurnKind) (e : Station) : State :=
  let frame := fun (slot : Option SlotNo) (ready : Bool) =>
    firstTurn kind (some e.address) slot .poll e.address (controlByte FrameKind.poll.code ready 0)
  match s.answeringHead? n e with
  | some k => s.beginGuard n (frame (some k) true) [ackByte e.lastAck]
  | none =>
    let before := (s.line n).buf
    let t := s.onLine n fun l => { l with buf := l.buf.reserve }
    (t.beginGuard n (frame none (!before.cache.isEmpty)) [ackByte e.lastAck]).noteExhausted n e.address before

/-- R96: a RESET turn. -/
def State.startReset (s : State) (n : LineNo) (kind : TurnKind) (e : Station) (slot : Option SlotNo) : State :=
  s.beginGuard n (firstTurn kind (some e.address) slot .reset e.address (controlByte FrameKind.reset.code false 0)) []

/-- R99: the head slot becomes ACTIVE. -/
def State.activate (s : State) (n : LineNo) (k : SlotNo) : State := s.onRequest n k fun r => { r with state := .active }

/-- R95: a REQUEST turn for slot `k` at the head of a station's list. -/
def State.startRequest (s : State) (n : LineNo) (e : Station) (k : SlotNo) : State :=
  match s.request? n k with
  | none => s
  | some r =>
    let t := (s.activate n k).onScheduler n fun sc => { sc with requestCursor := .station e.address }
    if r.kind = .resync then t.startReset n .request e (some k)
    else
      t.beginLoad n
        (firstTurn .request (some e.address) (some k) .select e.address (controlByte FrameKind.select.code false e.txSeq)) r

/-- R95: the REQUEST turn of slot `k` at the head of the broadcast list. -/
def State.startBroadcast (s : State) (n : LineNo) (k : SlotNo) : State :=
  match s.request? n k with
  | none => s
  | some r =>
    ((s.activate n k).onScheduler n fun sc => { sc with requestCursor := .broadcast }).beginLoad n
      (firstTurn .request none (some k) .broadcast 127 (controlByte FrameKind.broadcast.code false 0)) r

/-- R98: a POLL selection's scheduler changes: the poll cursor, poll_due in step 3, and the wrap. -/
def Scheduler.polled (sc : Scheduler) (address : Byte) (due wrapped : Bool) (divisor : Nat) : Scheduler :=
  let sc := { sc with pollCursor := some address, pollDue := sc.pollDue && !due }
  if wrapped then sc.countWrap divisor else sc

/-- R94, Figure 5-4: the selected turn starts. -/
def State.startChoice (s : State) (n : LineNo) : Choice → State
  | .sync e => (s.onScheduler n fun sc => { sc with syncCursor := some e.address }).startReset n .sync e none
  | .queryPoll e => s.startPoll n .queryPoll e
  | .poll e due wrapped =>
    (s.onScheduler n fun sc => sc.polled e.address due wrapped (s.line n).config.slowDivisor).startPoll n .poll e
  | .request e k => s.startRequest n e k
  | .broadcast k => s.startBroadcast n k
  | .slow e =>
    (s.onScheduler n fun sc => { sc with slowCursor := some e.address, credit := false }).startReset n .slow e none

/-- R94: a selection. -/
def State.afterSelection (s : State) (n : LineNo) : State :=
  if s.canStart n ∧ (s.line n).sched.retry = none then
    match s.choose n with
    | some c => s.startChoice n c
    | none => s
  else s

def execTurnSelection (n : LineNo) (s : State) : Host.Outcome State Fault Refusal := .next (s.afterSelection n)

/-- R93: the retry turn of an exchange starts in GUARD with the frame in the transmit buffer. -/
def State.startRetry (s : State) (n : LineNo) (x : Exchange) : State :=
  let t := match x.slot with
    | some k => s.onRequest n k fun r => { r with retriesUsed := min (r.retriesUsed + 1) 255 }
    | none => s
  (t.beginTurn n (guardTurn { x with turns := x.turns + 1 } (s.line n).config s.now)).onScheduler n fun sc =>
    { sc with retry := none }

def State.afterRetryStart (s : State) (n : LineNo) : State :=
  match s.canStart n, (s.line n).sched.retry with
  | true, some x => s.startRetry n x
  | _, _ => s

def execRetryTurnStart (n : LineNo) (s : State) : Host.Outcome State Fault Refusal := .next (s.afterRetryStart n)

/-! ### LOAD, GUARD, SEND -/

/-- R106: LOAD ends: the payload is in the transmit buffer and the turn enters GUARD. -/
def State.payloadLoaded (s : State) (n : LineNo) (payload : List Byte) : State :=
  match (s.line n).turn? with
  | some t =>
    if t.phase = .load then
      s.onLine n fun l => { l with txBuf := payload, state := .turn (guardTurn t.exch l.config s.now) }
    else s
  | none => s

/-- The payload read in flight completes. -/
def State.afterPayloadRead (s : State) (payload : List Byte) : State :=
  match s.port.inFlight with
  | some a =>
    match a.kind with
    | .payloadRead n =>
      if payload.length = a.length then
        if s.heeds a then (s.finishAccess a).payloadLoaded n payload else s.finishAccess a
      else s
    | _ => s
  | none => s

def execPayloadReadDone (payload : List Byte) (s : State) : Host.Outcome State Fault Refusal :=
  .next (s.afterPayloadRead payload)

/-- R39, R43: the characters of a turn's frame. -/
def Line.frameOf (l : Line) (x : Exchange) : List Byte := frameChars x.address x.control l.txBuf

/-- R107, R110: GUARD ends and SEND begins: DE is asserted and the frame goes out. -/
def Line.beginSend (l : Line) (t : Turn) (now : Nat) : Line :=
  { l with
    de := true
    state := .turn { t with
      phase := .send, quietEnd := none, jamEnd := none, exch := { t.exch with sent := true }
      wire := l.frameOf t.exch
      sendEnd := some (now + charUnits l.config.rate (l.frameOf t.exch).length) } }

/-- The turn in flight while the device carries turns out: FAULTED has abandoned it (R122). -/
def State.liveTurn (s : State) (n : LineNo) : Option Turn := if s.active then (s.line n).turn? else none

/-- R107: the quiet count reaches the guard. -/
def State.afterGuardEnd (s : State) (n : LineNo) : State :=
  match s.liveTurn n with
  | some t =>
    match t.phase, t.quietEnd with
    | .guard, some d => (s.reach d).onLine n fun l => l.beginSend t (s.reach d).now
    | _, _ => s
  | none => s

def execGuardEnd (n : LineNo) (s : State) : Host.Outcome State Fault Refusal := .next (s.afterGuardEnd n)

/-- R36: the level on TXD in bit time `bit` of the frame being sent; 1 while DE is released, whatever was cut short. -/
def Line.txd (l : Line) (bit : Nat) : Bool :=
  match l.de, l.turn? with
  | true, some t => (wireLevels t.wire).getD bit true
  | _, _ => true

/-- R110: DE is released at the end of END's stop bit. -/
def State.releaseDe (s : State) (n : LineNo) : State := s.onLine n fun l => { l with de := false }

/-- R110: a BROADCAST turn ends with its slot DONE(OK). -/
def State.broadcastSent (s : State) (n : LineNo) (x : Exchange) : State :=
  (match x.slot with
    | some k => s.makeDone n k .ok id
    | none => s).finishTurn n x false .silent none .idle

/-- R111, R47: a turn enters LISTEN: the reply timer takes the station's reply_timeout, the collector waits for MARK. -/
def Turn.listening (t : Turn) (now timeout : Nat) : Turn :=
  { t with
    phase := .listen, sendEnd := none, wire := [], replyEnd := some (now + timeout), collector := some .waiting }

/-- R110: SEND ends at time `d`. -/
def State.sendEnded (s : State) (n : LineNo) (t : Turn) : State :=
  let u := s.releaseDe n
  match t.exch.frame, u.entryOf n t.exch with
  | .broadcast, _ => u.broadcastSent n t.exch
  | _, some e => u.setTurn n (t.listening u.now e.replyTimeout)
  | _, none => u

def State.afterSendDone (s : State) (n : LineNo) : State :=
  match s.liveTurn n with
  | some t =>
    match t.phase, t.sendEnd with
    | .send, some d => (s.reach d).sendEnded n t
    | _, _ => s
  | none => s

def execSendDone (n : LineNo) (s : State) : Host.Outcome State Fault Refusal := .next (s.afterSendDone n)

/-! ### Characters received (R38) -/

/-- R107: a character restarts the quiet count. -/
def Turn.restartQuiet (t : Turn) (c : LineConfig) (now : Nat) : Turn :=
  { t with quietEnd := some (now + charUnits c.rate c.guardChars) }

/-- R47, R51: what the turn holds while it collects: the gap timer runs from the character just received. -/
def Turn.collecting (t : Turn) (c : Collector) (cfg : LineConfig) (now : Nat) : Turn :=
  { t with
    phase := .receive, replyEnd := none, collector := some c
    gapEnd := some (now + charUnits cfg.rate cfg.gapLimit) }

/-- R47 to R52: one character handed to the collector. -/
def State.collectCharacter (s : State) (n : LineNo) (t : Turn) (c : Collector) (ch : Byte) (framing : Bool) : State :=
  match c.receive t.exch.address ch framing with
  | .more d => if d.collecting then s.setTurn n (t.collecting d (s.line n).config s.now) else s
  | .garbled => s.failTurn n t.exch
  | .complete control payload => s.onFrame n t control payload

/-- R38: a character by the phase of the turn. -/
def State.characterInTurn (s : State) (n : LineNo) (t : Turn) (ch : Byte) (framing : Bool) : State :=
  match t.phase, t.collector with
  | .guard, _ => s.setTurn n (t.restartQuiet (s.line n).config s.now)
  | .listen, some c => s.collectCharacter n t c ch framing
  | .receive, some c => s.collectCharacter n t c ch framing
  | _, _ => s

/-- R38: a character whose start bit was seen under DE is discarded, and so is one with no turn in flight. -/
def State.afterCharacter (s : State) (n : LineNo) (ch : Byte) (framing underDe : Bool) : State :=
  match underDe, s.liveTurn n with
  | false, some t => s.characterInTurn n t ch framing
  | _, _ => s

def execCharacterReceived (n : LineNo) (ch : Byte) (framing underDe : Bool) (s : State) :
    Host.Outcome State Fault Refusal := .next (s.afterCharacter n ch framing underDe)

end Sys2Proof.Machine
end

