-- ==== Sys2Proof/Machine/Timers.lean ====
section
/-! DEFINITION. Timers and deadlines reached (R51, R70, R97, R98, R108, R111, R121). -/

namespace Sys2Proof.Machine

/-- R108: the jam timer of a turn in GUARD expires. -/
def State.afterJamExpiry (s : State) (n : LineNo) : State :=
  match s.liveTurn n with
  | some t =>
    match t.phase, t.jamEnd with
    | .guard, some d => (s.reach d).jamTurn n t.exch
    | _, _ => s
  | none => s

def execJamTimerExpiry (n : LineNo) (s : State) : Host.Outcome State Fault Refusal := .next (s.afterJamExpiry n)

/-- R111: the reply timer of a turn in LISTEN expires: a failed turn with no reply. -/
def State.afterReplyExpiry (s : State) (n : LineNo) : State :=
  match s.liveTurn n with
  | some t =>
    match t.phase, t.replyEnd with
    | .listen, some d => (s.reach d).failTurn n t.exch
    | _, _ => s
  | none => s

def execReplyTimerExpiry (n : LineNo) (s : State) : Host.Outcome State Fault Refusal := .next (s.afterReplyExpiry n)

/-- R51: the gap timer of a turn in RECEIVE expires: a garbled reply. -/
def State.afterGapExpiry (s : State) (n : LineNo) : State :=
  match s.liveTurn n with
  | some t =>
    match t.phase, t.gapEnd with
    | .receive, some d => (s.reach d).failTurn n t.exch
    | _, _ => s
  | none => s

def execGapTimerExpiry (n : LineNo) (s : State) : Host.Outcome State Fault Refusal := .next (s.afterGapExpiry n)

/-- R98: the scheduler after an expiry at moment `d`: the next period starts there, poll_due is set, and an empty poll view
counts a wrap. -/
def Scheduler.expired (sc : Scheduler) (d interval divisor : Nat) (viewEmpty : Bool) : Scheduler :=
  let sc := { sc with pollTimer := some (d + interval), pollDue := true }
  if viewEmpty then sc.countWrap divisor else sc

/-- R98: a poll timer expires. -/
def State.afterPollExpiry (s : State) (n : LineNo) : State :=
  match s.running && (s.line n).enabled, (s.line n).sched.pollTimer with
  | true, some d =>
    let c := (s.line n).config
    (((s.reach d).onScheduler n fun sc =>
      sc.expired d c.pollInterval c.slowDivisor (!(s.ring n).any Station.inPollView))).settleHeld n
  | _, _ => s

def execPollTimerExpiry (n : LineNo) (s : State) : Host.Outcome State Fault Refusal := .next (s.afterPollExpiry n)

/-- R70, R90: a holdoff deadline is reached and removed. -/
def State.afterHoldoff (s : State) (n : LineNo) (address : Byte) : State :=
  match s.active, (s.station? n address).bind fun e => e.holdoff with
  | true, some d => ((s.reach d).onStation n address fun e => { e with holdoff := none }).settleHeld n
  | _, _ => s

def execHoldoffDeadlineReached (n : LineNo) (address : Byte) (s : State) : Host.Outcome State Fault Refusal :=
  .next (s.afterHoldoff n address)

/-- The ANSWERING head of a station, with its slot. -/
def State.answering? (s : State) (n : LineNo) (address : Byte) : Option (SlotNo × Request) :=
  match (s.station? n address).bind (s.head? n) with
  | some (k, r) => if r.state = .answering then some (k, r) else none
  | none => none

/-- R97: a query-poll due time is reached. -/
def State.afterQueryPollDue (s : State) (n : LineNo) (address : Byte) : State :=
  match s.running, (s.answering? n address).bind fun p => p.2.queryPollDue with
  | true, some d => (s.reach d).settleHeld n
  | _, _ => s

def execQueryPollDue (n : LineNo) (address : Byte) (s : State) : Host.Outcome State Fault Refusal :=
  .next (s.afterQueryPollDue n address)

/-- R121: an exchange to the station is in flight: a turn to it, or a retry pending of one. -/
def Line.exchangeTo (l : Line) (address : Byte) : Bool :=
  (match l.turn? with
    | some t => decide (t.exch.station = some address)
    | none => false)
  || (match l.sched.retry with
    | some x => decide (x.station = some address)
    | none => false)

/-- R121: an answer deadline is reached. -/
def State.afterAnswerDeadline (s : State) (n : LineNo) (address : Byte) : State :=
  match s.running, s.answering? n address with
  | true, some (k, r) =>
    match r.answerDeadline with
    | some d =>
      if (s.line n).exchangeTo address then s.reach d
      else ((s.reach d).makeDone n k .answerTimeout id).settleHeld n
    | none => s
  | _, _ => s

def execAnswerDeadline (n : LineNo) (address : Byte) (s : State) : Host.Outcome State Fault Refusal :=
  .next (s.afterAnswerDeadline n address)

end Sys2Proof.Machine
end

