-- ==== Sys2Proof/Machine/Dispatch.lean ====
section
/-! DEFINITION. exec: one arm per command, each a direct call of its meaning. -/

namespace Sys2Proof.Machine

/-- The effect of a command on everything but the queue. -/
def exec (i : Instr) (s : State) : Host.Outcome State Fault Refusal :=
  match i with
  | .post w => Sys2Proof.Machine.execPost w s
  | .baseWrite high w => Sys2Proof.Machine.execBaseWrite high w s
  | .start => Sys2Proof.Machine.execStart s
  | .stop => Sys2Proof.Machine.execStop s
  | .resumeAdmin => Sys2Proof.Machine.execResumeAdmin s
  | .deviceReset => Sys2Proof.Machine.execDeviceReset s
  | .commandInvalid w => Sys2Proof.Machine.execCommandInvalid w s
  | .resetInput => Sys2Proof.Machine.execResetInput s
  | .resetInputRelease => Sys2Proof.Machine.execResetInputRelease s
  | .take => Sys2Proof.Machine.execTake s
  | .release => Sys2Proof.Machine.execRelease s
  | .setMask w => Sys2Proof.Machine.execSetMask w s
  | .registerWriteIgnored offset size w => Sys2Proof.Machine.execRegisterWriteIgnored offset size w s
  | .hostPortAccessStart => Sys2Proof.Machine.execHostPortAccessStart s
  | .busError words startFirst => Sys2Proof.Machine.execBusError words startFirst s
  | .controlBlockReadDone block => Sys2Proof.Machine.execControlBlockReadDone block s
  | .fetchClaim n => Sys2Proof.Machine.execFetchClaim n s
  | .takeLineRequest rec => Sys2Proof.Machine.execTakeLineRequest rec s
  | .adminClaim => Sys2Proof.Machine.execAdminClaim s
  | .adminMalformed rec => Sys2Proof.Machine.execAdminMalformed rec s
  | .lineSetup rec => Sys2Proof.Machine.execLineSetup rec s
  | .lineDisable rec => Sys2Proof.Machine.execLineDisable rec s
  | .lineDisableComplete => Sys2Proof.Machine.execLineDisableComplete s
  | .lineReset rec => Sys2Proof.Machine.execLineReset rec s
  | .lineResetComplete => Sys2Proof.Machine.execLineResetComplete s
  | .attach rec => Sys2Proof.Machine.execAttach rec s
  | .detach rec => Sys2Proof.Machine.execDetach rec s
  | .stationSet rec => Sys2Proof.Machine.execStationSet rec s
  | .stationRead rec => Sys2Proof.Machine.execStationRead rec s
  | .snapshotWriteDone => Sys2Proof.Machine.execSnapshotWriteDone s
  | .cancel rec => Sys2Proof.Machine.execCancel rec s
  | .queueResume rec => Sys2Proof.Machine.execQueueResume rec s
  | .adminCompletionWriteDone => Sys2Proof.Machine.execAdminCompletionWriteDone s
  | .descriptorClaim n => Sys2Proof.Machine.execDescriptorClaim n s
  | .descriptorReadDone rec => Sys2Proof.Machine.execDescriptorReadDone rec s
  | .turnSelection n => Sys2Proof.Machine.execTurnSelection n s
  | .retryTurnStart n => Sys2Proof.Machine.execRetryTurnStart n s
  | .payloadReadDone payload => Sys2Proof.Machine.execPayloadReadDone payload s
  | .guardEnd n => Sys2Proof.Machine.execGuardEnd n s
  | .jamTimerExpiry n => Sys2Proof.Machine.execJamTimerExpiry n s
  | .sendDone n => Sys2Proof.Machine.execSendDone n s
  | .characterReceived n ch framing underDe => Sys2Proof.Machine.execCharacterReceived n ch framing underDe s
  | .replyTimerExpiry n => Sys2Proof.Machine.execReplyTimerExpiry n s
  | .gapTimerExpiry n => Sys2Proof.Machine.execGapTimerExpiry n s
  | .bufferWriteDone => Sys2Proof.Machine.execBufferWriteDone s
  | .answerWriteDone => Sys2Proof.Machine.execAnswerWriteDone s
  | .pollTimerExpiry n => Sys2Proof.Machine.execPollTimerExpiry n s
  | .holdoffDeadlineReached n address => Sys2Proof.Machine.execHoldoffDeadlineReached n address s
  | .queryPollDue n address => Sys2Proof.Machine.execQueryPollDue n address s
  | .answerDeadline n address => Sys2Proof.Machine.execAnswerDeadline n address s
  | .slotEntersQueue n => Sys2Proof.Machine.execSlotEntersQueue n s
  | .recordWriteStart n => Sys2Proof.Machine.execRecordWriteStart n s
  | .recordWriteDone => Sys2Proof.Machine.execRecordWriteDone s
  | .eventWriteStart => Sys2Proof.Machine.execEventWriteStart s
  | .eventWriteDone => Sys2Proof.Machine.execEventWriteDone s
  | .drainComplete => Sys2Proof.Machine.execDrainComplete s

end Sys2Proof.Machine
end

