-- ==== Sys2Proof/Machine/Receiver.lean ====
section
/-! DEFINITION. The receiver of a line: the characters it forms from the samples of RXD (R38). -/

namespace Sys2Proof.Machine

/-- A character the receiver has completed. -/
structure Received where
  character : Byte
  framing : Bool
  /-- its start bit was seen while DE was asserted -/
  underDe : Bool
  deriving DecidableEq, Repr

/-- The level most of three samples show. -/
def majority (a b c : Bool) : Bool := (a && b) || (a && c) || (b && c)

/-- R38: bit `k` of a character, the start bit being bit 0: the majority of the three samples around the middle of its bit
time, which begins with sample 16 k (log entry 24). -/
def bitTaken (samples : List Bool) (k : Nat) : Bool :=
  majority (samples.getD (16 * k + 7) false) (samples.getD (16 * k + 8) false) (samples.getD (16 * k + 9) false)

/-- R36, R38: the eight data bits, the least significant first on the wire. -/
def dataTaken (samples : List Bool) : Byte :=
  BitVec.ofBool (bitTaken samples 8) ++ BitVec.ofBool (bitTaken samples 7) ++ BitVec.ofBool (bitTaken samples 6)
    ++ BitVec.ofBool (bitTaken samples 5) ++ BitVec.ofBool (bitTaken samples 4) ++ BitVec.ofBool (bitTaken samples 3)
    ++ BitVec.ofBool (bitTaken samples 2) ++ BitVec.ofBool (bitTaken samples 1)

/-- R38: the receiver after the next sample of a character, all of whose samples are `samples`: noise when the line is back at
level 1 at the middle of the start bit, a character once the stop bit is taken. After a stop bit taken as 1 the next falling
edge is looked for from sample 154 on: one that sample 153 shows starts no candidate (log entry 24). -/
def characterSampled (underDe : Bool) (samples : List Bool) (level : Bool) : Receiver × Option Received :=
  if samples.length = 9 ∧ level = true then (⟨level, .idle⟩, none)
  else if samples.length < 154 then (⟨level, .character underDe samples⟩, none)
  else (⟨level, if bitTaken samples 9 then .idle else .hold 0⟩,
    some ⟨dataTaken samples, !bitTaken samples 9, underDe⟩)

/-- R38: one sample of RXD, DE standing at `de`. The bit time at level 1 after a framing error is counted from the sample after
the last of the stop bit's three (log entry 24). -/
def Receiver.sample (r : Receiver) (de level : Bool) : Receiver × Option Received :=
  match r.phase with
  | .idle => (⟨level, if r.level && !level then .character de [level] else .idle⟩, none)
  | .character underDe samples => characterSampled underDe (samples ++ [level]) level
  | .hold ones =>
    (⟨level, if level then (if ones + 1 = 16 then .idle else .hold (ones + 1)) else .hold 0⟩, none)

/-- A run of samples, DE standing still: the receiver after it and the characters completed, in order. -/
def Receiver.feed (r : Receiver) (de : Bool) : List Bool → Receiver × List Received
  | [] => (r, [])
  | level :: levels =>
    let next := r.sample de level
    let rest := next.1.feed de levels
    (rest.1, next.2.toList ++ rest.2)

/-- R38: RXD of line `n` is sampled. The receiver of an enabled line goes on, and a character it completes joins the commands
waiting; a DISABLED line's receiver forms none. This is how CHARACTER_RECEIVED comes into the queue (log entry 17). -/
def State.rxdSampled (s : State) (n : LineNo) (level : Bool) : State :=
  if (s.line n).enabled then
    let next := (s.line n).rx.sample (s.line n).de level
    { s.onLine n (fun l => { l with rx := next.1 }) with
      pending := s.pending ++ next.2.toList.map fun c => .characterReceived n c.character c.framing c.underDe }
  else s

end Sys2Proof.Machine
end

