-- ==== Sys2Proof/Safety.lean ====
section
/-! DEFINITION. What a safe state is: the invariants the spec states of the part, and the frames the statements use. -/

namespace Sys2Proof.Machine

/-! ### Invariants -/

/-- R156: the interrupt output is asserted exactly when an unmasked pending class is more urgent than every class in
service. -/
def State.irqFollows (s : State) : Prop :=
  s.events.irq = true ↔
    ∃ k < 4, s.events.pending.getLsbD k = true ∧ (k = 0 ∨ s.events.mask.getLsbD k = false)
      ∧ ∀ j ≤ k, s.events.inService.getLsbD j = false

/-- R151, 9.1: the staging FIFO holds at most 8 records, the missed count is at most 255, and class 0 has no mask flag. -/
def State.stagingBounded (s : State) : Prop :=
  s.events.fifo.length ≤ 8 ∧ s.events.missed ≤ 255 ∧ s.events.mask.getLsbD 0 = false

/-- R137, R138: a line's queue and reservation take at most 6 places, and a turn in flight holds the reservation. -/
def Line.postingBounded (l : Line) : Prop := l.post.taken ≤ 6 ∧ (l.turn?.isSome = true → l.post.reservation = true)

/-- R137 on every line. -/
def State.postingBounded (s : State) : Prop := ∀ n, (s.line n).postingBounded

/-- R126: the cache, with a read in flight, never passes 4 descriptors. -/
def Line.cacheBounded (l : Line) : Prop := l.buf.cache.length + (if l.buf.reading.isSome then 1 else 0) ≤ 4

/-- R126 on every line. -/
def State.cacheBounded (s : State) : Prop := ∀ n, (s.line n).cacheBounded

/-- R4: no part-fed ring's unconsumed count passes its entry count; while the device is RUNNING or STOPPING, a record being
written, and a CQ0 reservation, stand for a place the ring still has. -/
def State.ringsBounded (s : State) : Prop :=
  (∀ k, (s.cqRing k).unconsumed ≤ (s.cqRing k).count) ∧ s.er.unconsumed ≤ s.er.count
    ∧ (s.active = true →
        (∀ n, (s.line n).post.writing = true → (s.cqOf n).room = true)
          ∧ (s.events.writing = true → s.er.room = true)
          ∧ (s.admin.reservation = true → (s.cqRing 0).room = true))

/-- R58: at most 64 entries, and no line has two with the same address. -/
def State.stationsDistinct (s : State) : Prop :=
  s.stations.length ≤ 64 ∧ (s.stations.map fun e => (e.line, e.address)).Nodup

/-- Host memory keeps its canonical form. -/
def State.memoryCanonical (s : State) : Prop := s.hostMem.wf = true

/-- R174, R101, R124, R135, R149: a line's own parts as a device reset leaves them. -/
def Line.AtReset (l : Line) : Prop :=
  l.state = .disabled ∧ l.de = false ∧ l.rx = ⟨true, .idle⟩ ∧ l.txBuf = [] ∧ l.config = ⟨none, none, 3, 4, 500, 100, 8, 50⟩ ∧ l.streak = 0
    ∧ l.fetch = none ∧ (∀ k : SlotNo, l.pool.slots[k] = .free) ∧ l.pool.doneOrder = [] ∧ l.pool.broadcast = []
    ∧ l.pool.takes = 0 ∧ l.sched = ⟨none, none, none, .start, none, false, 0, false, none⟩
    ∧ l.buf = ⟨[], false, false, none⟩ ∧ l.post = ⟨[], false, false, false⟩

/-- R174: every block of the part stands as a device reset leaves it. The queue, the clock, the free values drawn, host
memory and the pins are not blocks of the part. -/
def State.AtReset (s : State) : Prop :=
  s.control = ⟨.idle, 0, .none, 0, .none, none, false⟩
    ∧ (∀ k, s.sqRing k = ⟨0, 0, .absent, 0, 0⟩) ∧ (∀ k, s.cqRing k = ⟨0, 0, .absent, 0, true, 0, 0⟩)
    ∧ (∀ n, s.bqRing n = ⟨0, 0, .absent, 0, 0⟩) ∧ s.er = ⟨0, 0, .absent, 0, true, 0, 0⟩
    ∧ s.admin = ⟨.none, false⟩ ∧ s.port = ⟨none, [], 22⟩ ∧ s.stations = [] ∧ (∀ n, (s.line n).AtReset)
    ∧ s.events = ⟨[], false, 0, 0, 0, 0, false⟩

/-- R174: while the reset input is asserted every block stands at its reset value. -/
def State.heldAtReset (s : State) : Prop := s.resetHeld = true → s.AtReset

/-! ### Frames -/

/-- The Control Unit, the rings, the pins, the queue and host memory are as they were. -/
def State.SameDevice (s t : State) : Prop :=
  t.control = s.control ∧ t.sq = s.sq ∧ t.cq = s.cq ∧ t.bq = s.bq ∧ t.er = s.er ∧ t.resetHeld = s.resetHeld
    ∧ t.eventRead = s.eventRead ∧ t.freeDraws = s.freeDraws ∧ t.hostMem = s.hostMem ∧ t.pending = s.pending

/-- Every other line, with its station entries, is as it was. -/
def State.OthersKept (n : LineNo) (s t : State) : Prop := ∀ m, m ≠ n → t.line m = s.line m ∧ t.ring m = s.ring m

/-- Every slot of line `n` but `k` is as it was. -/
def State.SlotsKept (n : LineNo) (k : SlotNo) (s t : State) : Prop := ∀ j, j ≠ k → (t.line n).pool.slots[j] = (s.line n).pool.slots[j]

/-- Every request of line `n` but the one in slot `k` is as it was, an ANSWERING one excepted: an ANSWERING head's deadlines
are settled at a turn's end (R97, R121). -/
def State.RequestsKept (n : LineNo) (k : Option SlotNo) (s t : State) : Prop :=
  ∀ j r, k ≠ some j → s.request? n j = some r → r.state ≠ .answering → t.request? n j = some r

/-- Every entry of line `n` but the one of address `a` is as it was, its list excepted. -/
def State.EntriesKept (n : LineNo) (a : Byte) (s t : State) : Prop :=
  ∀ b e, b ≠ a → s.station? n b = some e → ∃ p, t.station? n b = some { e with pending := p }

/-! ### What a completion command waits for -/

/-- Access `a`, of kind `kind`, is in flight, and its requester acts on its completion: it was not abandoned, and the device
is RUNNING or STOPPING (R171, R173). -/
def State.Awaits (s : State) (kind : AccessKind) (a : Access) : Prop :=
  s.port.inFlight = some a ∧ a.kind = kind ∧ s.heeds a = true

/-- The SQ0 read in flight is acted on, and `rec` is a record of kind `k` (R28). -/
def State.AwaitsAdmin (s : State) (a : Access) (k : Nat) (rec : List Byte) : Prop :=
  s.Awaits .adminRead a ∧ rec.length = 32 ∧ (byteAt rec 0).toNat = k

/-- R1: descriptor `k` of a control block is acceptable. -/
def DescriptorGood (block : List Byte) (k : Nat) : Prop :=
  (blockCount block k = 0 ∧ k ≠ 0 ∧ k ≠ 9 ∧ k ≠ 18)
    ∨ (4 ≤ blockCount block k ∧ blockCount block k ≤ 4096 ∧ (blockBase block k).toNat % 64 = 0)

/-- R20: the five tests of a line request, in the rule's order. -/
def RequestMalformed (rec : List Byte) : Prop :=
  ((byteAt rec 0).toNat < 1 ∨ 4 < (byteAt rec 0).toNat)
    ∨ ((byteAt rec 1).toNat = 0 ∨ 127 < (byteAt rec 1).toNat)
    ∨ (((byteAt rec 1).toNat = 127 ∧ (byteAt rec 0).toNat ≠ 4) ∨ ((byteAt rec 0).toNat = 4 ∧ (byteAt rec 1).toNat ≠ 127))
    ∨ (((byteAt rec 0).toNat = 3 ∧ (halfAt rec 4).toNat ≠ 0)
        ∨ ((byteAt rec 0).toNat ≠ 3 ∧ ((halfAt rec 4).toNat < 1 ∨ 240 < (halfAt rec 4).toNat)))
    ∨ ((byteAt rec 0).toNat = 2
        ∧ (((halfAt rec 6).toNat = 0 ∨ 240 < (halfAt rec 6).toNat) ∨ (halfAt rec 24).toNat = 0))

/-- Figure 2-5 with R27: a value check of LINE_SETUP fails. -/
def State.LineSetupBad (s : State) (rec : List Byte) : Prop :=
  3 < (byteAt rec 1).toNat
    ∨ 7 < (byteAt rec 18).toNat
    ∨ (byteAt rec 19).toNat < 16 ∨ 240 < (byteAt rec 19).toNat ∨ (byteAt rec 19).toNat % 16 ≠ 0
    ∨ ((byteAt rec 5).getLsbD 0 = false
        ∧ ((byteAt rec 20).toNat < 1 ∨ 64 < (byteAt rec 20).toNat ∨ (byteAt rec 21).toNat < 2 ∨ 32 < (byteAt rec 21).toNat
          ∨ (halfAt rec 22).toNat = 0 ∨ (halfAt rec 24).toNat = 0 ∨ (byteAt rec 26).toNat = 0 ∨ (halfAt rec 28).toNat = 0))
    ∨ (∃ n : LineNo, (byteAt rec 1).toNat = n.val ∧ ((s.cqOf n).state = .absent
        ∨ ((s.sqRing (sqIndex n true)).state = .absent ∧ (s.sqRing (sqIndex n false)).state = .absent)))

/-- Figure 2-5: the line or station check of an admin record fails. -/
def LineStationBad (rec : List Byte) : Prop :=
  3 < (byteAt rec 1).toNat ∨ (byteAt rec 4).toNat < 1 ∨ 126 < (byteAt rec 4).toNat

/-- Figure 2-5 with R27: a value check of ATTACH or STATION_SET fails. -/
def StationParamsBad (rec : List Byte) : Prop :=
  LineStationBad rec
    ∨ ((byteAt rec 5).getLsbD 0 = false
        ∧ ((halfAt rec 18).toNat = 0 ∨ 7 < (byteAt rec 20).toNat ∨ (byteAt rec 21).toNat < 1 ∨ 15 < (byteAt rec 21).toNat
          ∨ (halfAt rec 22).toNat = 0))

/-- R50: the collector of a turn in RECEIVE stands before END with a check that agrees. -/
def Turn.BeforeEnd (t : Turn) (control : Byte) (payload : List Byte) : Prop :=
  t.phase = .receive ∧ ∃ c, t.collector = some c ∧ c.collecting = true ∧ c.escape = false ∧ c.position = .endMark
    ∧ c.check = c.received ∧ c.control = control ∧ c.store = payload

/-- R91: the line can start a turn, no teardown of it being under way (R178, R180). -/
def State.CanStartTurn (s : State) (n : LineNo) : Prop :=
  s.control.device = .running ∧ (s.line n).state = .idle ∧ s.resetting n = false ∧ s.disabling n = false
    ∧ (s.line n).pool.doneOrder = [] ∧ (s.line n).post.taken < 6

/-- Turn `t` to entry `e` is in flight on a RUNNING device, and neither detach_pending nor an admin request in progress bears
on its end. -/
def State.PlainTurn (s : State) (n : LineNo) (t : Turn) (e : Station) : Prop :=
  s.control.device = .running ∧ s.admin.work = .none ∧ (s.line n).state = .turn t ∧ t.exch.station = some e.address
    ∧ t.exch.address = e.address ∧ s.station? n e.address = some e ∧ e.detachPending = false

/-- R112 steps 6 and 7: the turn is over: the line is IDLE with no posting place reserved, `retry` is the retry pending, and
everything the turn has no part in is as it was. -/
def State.TurnOver (n : LineNo) (retry : Option Exchange) (s u : State) : Prop :=
  (u.line n).state = .idle ∧ (u.line n).sched = { (s.line n).sched with retry := retry }
    ∧ (u.line n).post.reservation = false ∧ (u.line n).post.writing = (s.line n).post.writing
    ∧ (u.line n).config = (s.line n).config ∧ (u.line n).fetch = (s.line n).fetch ∧ (u.line n).streak = (s.line n).streak
    ∧ (u.line n).txBuf = (s.line n).txBuf ∧ (u.line n).rx = (s.line n).rx ∧ (u.line n).buf.reading = (s.line n).buf.reading
    ∧ s.SameDevice u ∧ u.admin = s.admin ∧ u.port = s.port ∧ State.OthersKept n s u

/-- R145, R146: line `n`, its held latch clear before, is held at the end: an onset. While a LINE_RESET or LINE_DISABLE
of the line is in progress there is none (R178; log entry 2). -/
def State.HeldOnset (n : LineNo) (s u : State) : Prop :=
  (s.line n).post.held = false ∧ u.control.device = .running ∧ (u.line n).state = .idle ∧ u.resetting n = false
    ∧ u.disabling n = false ∧ 6 ≤ (u.line n).post.taken + (u.line n).pool.doneOrder.length
    ∧ ((u.line n).sched.retry.isSome = true ∨ (u.choose n).isSome = true)

/-- The Event Unit has been offered these records in this order, and after them LINE_HELD exactly at an onset, which sets the
latch; without one the latch stands unless the gate is open (R72, R146). -/
def State.Offered (n : LineNo) (records : List EventRecord) (s u : State) : Prop :=
  (State.HeldOnset n s u → (u.line n).post.held = true
    ∧ u.events = ((records ++ [(⟨.lineHeld, BitVec.ofNat 8 n.val, 0, BitVec.ofNat 16 (s.cqOf n).unconsumed, 0, false⟩ :
      EventRecord)]).foldl State.offer s).events)
  ∧ (¬ State.HeldOnset n s u → u.events = (records.foldl State.offer s).events
    ∧ ((u.line n).post.held = true ↔ (s.line n).post.held = true
      ∧ ¬ ((u.line n).pool.doneOrder = [] ∧ (u.line n).post.taken < 6)))

/-- A request that has become DONE with an outcome (R84). -/
def Request.ended (r : Request) (st : LineStatus) : Request :=
  { r with state := .done, outcome := some st, cancelMark := false, answerDeadline := none, queryPollDue := none }

/-- R97, R112 step 5, R121: the end of a turn to entry `e` on a RUNNING device, `gone` being the slot its own result made DONE
and `ends` saying that the exchange has ended. An ANSWERING head of what is left of the list is DONE with ANSWER_TIMEOUT if
its deadline has passed and the exchange has ended, and otherwise is next due one query spacing later. The DONE order gains
`gone` and then that head (R84). -/
def State.HeadSettled (n : LineNo) (e : Station) (gone : Option SlotNo) (ends : Bool) (s u : State) : Prop :=
  ∀ rest : List SlotNo, rest = e.pending.filter (fun j => decide (gone ≠ some j)) →
    ((∀ k r, rest.head? = some k → s.request? n k = some r → r.state ≠ .answering) →
      (u.line n).pool.doneOrder = (s.line n).pool.doneOrder ++ gone.toList)
    ∧ ∀ k r, rest.head? = some k → s.request? n k = some r → r.state = .answering →
      ((ends = true ∧ ∃ d, r.answerDeadline = some d ∧ d ≤ u.now) →
        u.request? n k = some (r.ended .answerTimeout)
        ∧ (u.line n).pool.doneOrder = (s.line n).pool.doneOrder ++ gone.toList ++ [k])
      ∧ (¬ (ends = true ∧ ∃ d, r.answerDeadline = some d ∧ d ≤ u.now) →
        u.request? n k = some { r with queryPollDue := some (u.now + (s.line n).config.querySpacing) }
        ∧ (u.line n).pool.doneOrder = (s.line n).pool.doneOrder ++ gone.toList)

/-- R62: an entry after an exchange success whose reply changes nothing more. -/
def Station.succeeded (e : Station) : Station :=
  { e with
    exchanges := e.exchanges + 1, missCount := 0, liveness := if e.liveness = .suspect then .online else e.liveness }

/-- R24, R176: slot `k` of the list of address `a` has been ended. If the entry is OFFLINE, the waiting SENDs and QUERYs at the
head of what is left become DONE with OFFLINE, in list order, up to the first RESYNC, and nothing else of the line's requests
changes. -/
def State.FlushedBehind (n : LineNo) (a : Byte) (k : SlotNo) (s t : State) : Prop :=
  ∀ f pre post, s.station? n a = some f → f.liveness = .offline → f.pending.filter (fun j => decide (j ≠ k)) = pre ++ post →
    (pre ++ post).Nodup →
    (∀ j ∈ pre, ∃ r, s.request? n j = some r ∧ (r.kind = .send ∨ r.kind = .query) ∧ r.state = .waiting) →
    (∀ j rest, post = j :: rest → ∃ r, s.request? n j = some r ∧ r.kind = .resync ∧ r.state = .waiting) →
    (t.line n).pool.doneOrder = (s.line n).pool.doneOrder ++ [k] ++ pre ∧ t.station? n a = some { f with pending := post }
    ∧ (∀ j ∈ pre, ∀ r, s.request? n j = some r → t.request? n j = some (r.ended .offline))
    ∧ ∀ j r, j ∉ pre → j ≠ k → s.request? n j = some r → t.request? n j = some r

/-- R65: an entry after a sync success. -/
def Station.synced (e : Station) : Station :=
  { e with
    exchanges := e.exchanges + 1, missCount := 0, liveness := .online, outOfStep := false, txSeq := 0, rxExpect := 0
    lastAck := none }

/-- R61: an entry with a failed turn counted, and with it the protocol error the turn ended on, if it did (R53). -/
def Station.failedTurn (e : Station) (protocolError : Bool) : Station :=
  { e with
    failedTurns := min (e.failedTurns + 1) 65535
    protocolErrors := if protocolError then min (e.protocolErrors + 1) 65535 else e.protocolErrors }

/-- R63, R69: an entry after the failure of an exchange of frame `frame`. -/
def Station.failed (e : Station) (frame : FrameKind) : Station :=
  if e.liveness = .offline then { e with exchanges := e.exchanges + 1 }
  else
    { e with
      exchanges := e.exchanges + 1, missCount := min (e.missCount + 1) 15
      liveness := if e.liveness = .online then .suspect
        else if e.missLimit ≤ min (e.missCount + 1) 15 then .offline else e.liveness
      outOfStep := e.outOfStep || decide (frame = .select) || decide (frame = .reset) }

/-- R69: an entry that loses its step, unless it is OFFLINE. -/
def Station.loseStep (e : Station) : Station := { e with outOfStep := e.outOfStep || decide (e.liveness ≠ .offline) }

/-- R51 to R53, R111: command `c` ends turn `t` as a failed turn at `moment`: the reply timer or the gap timer expires, or a
character garbles the reply or completes a frame that is garbled (an ACCEPT with another sequence) or, then `protocolError`,
of no use to the turn. -/
def State.FailsTurn (s : State) (n : LineNo) (t : Turn) (c : Instr) (moment : Nat) (protocolError : Bool) : Prop :=
  (c = .replyTimerExpiry n ∧ t.phase = .listen ∧ protocolError = false ∧ ∃ d, t.replyEnd = some d ∧ moment = max s.now d)
  ∨ (c = .gapTimerExpiry n ∧ t.phase = .receive ∧ protocolError = false ∧ ∃ d, t.gapEnd = some d ∧ moment = max s.now d)
  ∨ (∃ ch framing col, c = .characterReceived n ch framing false ∧ moment = s.now ∧ t.phase = .receive
    ∧ t.collector = some col ∧ col.collecting = true
    ∧ ((protocolError = false ∧ col.receive t.exch.address ch framing = .garbled)
      ∨ ∃ control payload, col.receive t.exch.address ch framing = .complete control payload
        ∧ ((protocolError = false ∧ classify t.exch.frame t.exch.control control payload = .garbled)
          ∨ (protocolError = true ∧ classify t.exch.frame t.exch.control control payload = .protocolError control))))

/-- R112 step 3: command `c` ends turn `t` to entry `e` with a result that would continue: BUSY, REJECT or ACCEPT in answer to
a SELECT; a reply to a POLL that leaves the ANSWERING head it served still ANSWERING; a failed turn with retries left; or a
jam in GUARD. `keeps` is what the result leaves in the request when a rule makes it final, `after` the line's state, `moment`
the time, and `g` the entry with the report applied. -/
def State.WouldContinue (s : State) (n : LineNo) (t : Turn) (e : Station) (c : Instr) (keeps : Request → Request)
    (after : LineState) (moment : Nat) (g : Station) : Prop :=
  (c = .characterReceived n 0xCA false false ∧ after = .idle ∧ moment = s.now ∧ ∃ control payload k r,
    t.BeforeEnd control payload ∧ t.exch.slot = some k ∧ s.request? n k = some r
      ∧ ((t.exch.frame = .select ∧ r.state = .active
          ∧ ((control.extractLsb' 4 4 = 0xB ∧ payload = [] ∧ r.busyCount < e.busyLimit
              ∧ keeps = (fun q => { q with busyCount := q.busyCount + 1 })
              ∧ g = { e.succeeded with holdoff := some (s.now + e.busyHoldoff) })
            ∨ (control.extractLsb' 4 4 = 0xC ∧ payload.length ≤ 1 ∧ keeps = (fun q => { q with resent := true })
              ∧ g = e.succeeded.loseStep)
            ∨ (r.kind = .query ∧ control.extractLsb' 4 4 = 0xA ∧ payload = []
              ∧ control.extractLsb' 0 3 = t.exch.control.extractLsb' 0 3
              ∧ keeps = (fun q => { q with deliveryUnknown := false })
              ∧ g = { e.succeeded with txSeq := t.exch.control.extractLsb' 0 3 + 1 })))
        ∨ (t.exch.frame = .poll ∧ t.exch.kind ≠ .slow ∧ r.state = .answering ∧ keeps = id
          ∧ ((control.extractLsb' 4 4 = 0x9 ∧ payload = [] ∧ g = e.succeeded)
            ∨ (control.extractLsb' 4 4 = 0xC ∧ payload.length ≤ 1 ∧ g = e.succeeded.loseStep)
            ∨ (control.extractLsb' 4 4 = 0x8 ∧ 1 ≤ payload.length ∧ payload.length ≤ 240
              ∧ ((t.exch.control.getLsbD 3 = true ∧ control.extractLsb' 0 3 = e.rxExpect - 1 ∧ g = e.succeeded)
                ∨ (t.exch.control.getLsbD 3 = true ∧ control.extractLsb' 0 3 ≠ e.rxExpect
                  ∧ control.extractLsb' 0 3 ≠ e.rxExpect - 1 ∧ g = e.succeeded.loseStep)
                ∨ (t.exch.control.getLsbD 3 = false
                  ∧ g = { e.succeeded with protocolErrors := min (e.protocolErrors + 1) 65535 })))))))
  ∨ (∃ protocolError, s.FailsTurn n t c moment protocolError ∧ after = .idle ∧ t.exch.kind ≠ .slow
      ∧ t.exch.turns ≤ e.retryLimit
      ∧ ((t.exch.slot = none ∧ (t.exch.frame = .poll ∨ t.exch.frame = .reset))
        ∨ ∃ k r, t.exch.slot = some k ∧ s.request? n k = some r
          ∧ ((t.exch.frame = .poll ∧ r.state = .answering)
            ∨ ((t.exch.frame = .select ∨ t.exch.frame = .reset) ∧ r.state = .active)))
      ∧ keeps = (fun q => { q with deliveryUnknown := q.deliveryUnknown || decide (t.exch.frame = .select) })
      ∧ g = (if t.exch.sent = true ∧ (t.exch.frame = .select ∨ t.exch.frame = .reset) then (e.failedTurn protocolError).loseStep
          else e.failedTurn protocolError))
  ∨ (∃ d, c = .jamTimerExpiry n ∧ t.phase = .guard ∧ t.jamEnd = some d ∧ after = .jammed ∧ moment = max s.now d ∧ g = e
      ∧ (t.exch.slot = none ∨ ∃ k r, t.exch.slot = some k ∧ s.request? n k = some r
        ∧ (r.state = .active ∨ r.state = .answering))
      ∧ keeps = (fun q => if q.state = .active then { q with
          deliveryUnknown := q.deliveryUnknown || (decide (t.exch.frame = .select) && decide (1 < t.exch.turns)) } else q))

/-- R112: command `c` ends turn `t` to entry `e` with a final result: OK for a SEND or a RESYNC, REFUSED, NO_REPLY, or DATA
stored as an answer or for an arrival record. `b` is the state with the access finished that the command completes, `st` and
`keeps` what the result makes of the request, `moment` the time, and `g` the entry with the report applied. -/
def State.EndsFinally (s : State) (n : LineNo) (t : Turn) (e : Station) (c : Instr) (b : State) (st : LineStatus)
    (keeps : Request → Request) (moment : Nat) (g : Station) : Prop :=
  (c = .characterReceived n 0xCA false false ∧ b = s ∧ moment = s.now ∧ ∃ control payload k r,
    t.BeforeEnd control payload ∧ payload = [] ∧ t.exch.slot = some k ∧ s.request? n k = some r ∧ r.state = .active
      ∧ ((t.exch.frame = .select ∧ r.kind ≠ .query ∧ control.extractLsb' 4 4 = 0xA
          ∧ control.extractLsb' 0 3 = t.exch.control.extractLsb' 0 3 ∧ st = .ok
          ∧ keeps = (fun q => { q with deliveryUnknown := false })
          ∧ g = { e.succeeded with txSeq := t.exch.control.extractLsb' 0 3 + 1 })
        ∨ (t.exch.frame = .select ∧ control.extractLsb' 4 4 = 0xB ∧ e.busyLimit ≤ r.busyCount ∧ st = .refused ∧ keeps = id
          ∧ g = { e.succeeded with holdoff := some (s.now + e.busyHoldoff) })
        ∨ (t.exch.frame = .reset ∧ control.extractLsb' 4 4 = 0xD ∧ st = .ok ∧ keeps = id ∧ g = e.synced)))
  ∨ (∃ protocolError k r, s.FailsTurn n t c moment protocolError ∧ b = s ∧ t.exch.kind ≠ .slow ∧ e.retryLimit < t.exch.turns
      ∧ t.exch.slot = some k ∧ s.request? n k = some r
      ∧ ((t.exch.frame = .poll ∧ r.state = .answering)
        ∨ ((t.exch.frame = .select ∨ t.exch.frame = .reset) ∧ r.state = .active))
      ∧ st = .noReply
      ∧ keeps = (fun q => { q with deliveryUnknown := q.deliveryUnknown || decide (t.exch.frame = .select) })
      ∧ g = (e.failedTurn protocolError).failed t.exch.frame)
  ∨ (∃ a stored, b = s.finishAccess a ∧ moment = s.now ∧ t.store = some stored ∧ st = .ok
      ∧ g = { e.succeeded with lastAck := some stored.seq, rxExpect := stored.seq + 1 }
      ∧ ((c = .answerWriteDone ∧ s.Awaits (.answerWrite n) a
          ∧ (∃ k r, t.exch.slot = some k ∧ s.request? n k = some r ∧ r.state = .answering)
          ∧ keeps = (fun q => { q with answerLength := stored.length, truncated := stored.truncated }))
        ∨ (c = .bufferWriteDone ∧ s.Awaits (.bufferWrite n) a ∧ t.exch.slot = none ∧ (s.line n).buf.cache ≠ []
          ∧ keeps = id)))

/-- Feeding characters without framing errors to a collector, until one of them settles the reply. -/
def Collector.feed (address : Byte) (c : Collector) : List Byte → Collected
  | [] => .more c
  | ch :: chs =>
    match c.receive address ch false with
    | .more d => Collector.feed address d chs
    | .garbled => .garbled
    | .complete control payload => .complete control payload

end Sys2Proof.Machine
end

