-- ==== Sys2Proof/Certificates/Slice0/Obligations.lean ====
section
/-! DEFINITION. The statements for the provers, in the order of OBLIGATIONS.json. -/

open Sys2Proof Sys2Proof.Machine

/-! ### The queue and the resets -/

/-- A step of a state whose queue begins with `c` is `exec c` on that state with the queue's rest. (The queue is the task's
form: log entry 16.) -/
def Obligations.StepRunsFrontCommand : Prop :=
  ∀ (c : Instr) (rest : List Instr) (s : State), s.pending = c :: rest → step s = exec c { s with pending := rest }

/-- State.reset has every block at the values R174 lists. DEVICE RESET and the reset input put every block at those values
in every device state; with no access in flight host memory is untouched. The reset input also holds the part, and its
release changes nothing but that; asserted again while it is asserted it changes nothing. (The model's choices: what a reset
keeps beside host memory, the pins and the clock, and the second assertion, log entry 6; the number of the next take, 0, log
entry 7; the receiver's value, log entry 24.) -/
def Obligations.DeviceResetSetsEveryBlock : Prop :=
  (State.reset.AtReset ∧ State.reset.resetHeld = false ∧ State.reset.pending = [] ∧ State.reset.hostMem = [])
  ∧ (∀ s : State,
      (s.resetHeld = false →
        (∃ t, exec .deviceReset s = .next t ∧ t.AtReset ∧ t.resetHeld = false ∧ t.pending = s.pending ∧ t.now = s.now
          ∧ (s.port.inFlight = none → t.hostMem = s.hostMem))
        ∧ ∃ t, exec .resetInput s = .next t ∧ t.AtReset ∧ t.resetHeld = true ∧ t.pending = s.pending ∧ t.now = s.now
          ∧ (s.port.inFlight = none → t.hostMem = s.hostMem))
      ∧ (s.resetHeld = true → exec .resetInput s = .next s)
      ∧ exec .resetInputRelease s = .next { s with resetHeld := false })

/-! ### The register window -/

/-- Writes of the window without effect: the row REGISTER_WRITE_IGNORED, a POST outside RUNNING and STOPPING, a BASE write
outside IDLE, and every write while the reset input is asserted change nothing, a TAKE then only returning NONE with no flag
set; a START outside IDLE, a STOP outside RUNNING and a COMMAND write whose code is not 1..4 only set the last-command result to REFUSED. -/
def Obligations.WritesWithoutEffect : Prop :=
  (∀ (s : State) (w : Word) (high : Bool),
      (∀ offset size, exec (.registerWriteIgnored offset size w) s = .next s)
      ∧ (s.active = false → exec (.post w) s = .next s)
      ∧ (s.control.device ≠ .idle → exec (.baseWrite high w) s = .next s)
      ∧ (s.resetHeld = true →
          exec (.post w) s = .next s ∧ exec (.baseWrite high w) s = .next s ∧ exec .start s = .next s
            ∧ exec .stop s = .next s ∧ exec .resumeAdmin s = .next s ∧ exec .deviceReset s = .next s
            ∧ exec (.commandInvalid w) s = .next s ∧ exec .release s = .next s ∧ exec (.setMask w) s = .next s
            ∧ exec .take s = .next { s with eventRead := 7 }))
  ∧ (∀ (s : State) (w : Word), s.resetHeld = false →
      (s.control.device ≠ .idle →
        exec .start s = .next { s with control := { s.control with lastCommand := .refused } })
      ∧ (s.control.device ≠ .running →
        exec .stop s = .next { s with control := { s.control with lastCommand := .refused } })
      ∧ ((w.extractLsb' 0 4).toNat = 0 ∨ 4 < (w.extractLsb' 0 4).toNat →
        exec (.commandInvalid w) s = .next { s with control := { s.control with lastCommand := .refused } }))

/-- A POST of index i to a present submission or buffer ring, HALTED ones too, is taken when i is below n and
(i − c) mod n is no smaller than (p − c) mod n: p becomes i and nothing else changes. -/
def Obligations.PostMovesProducerIndex : Prop :=
  ∀ (s : State) (w : Word) (i : Nat), s.resetHeld = false → s.active = true → (w.extractLsb' 16 16).toNat = i →
    (∀ k : Fin 9, (w.extractLsb' 0 8).toNat = k.val → (s.sqRing k).state ≠ .absent → i < (s.sqRing k).count →
      ((s.sqRing k).p + (s.sqRing k).count - (s.sqRing k).c) % (s.sqRing k).count
        ≤ (i + (s.sqRing k).count - (s.sqRing k).c) % (s.sqRing k).count →
      exec (.post w) s = .next (s.setSq k { s.sqRing k with p := i }))
    ∧ (∀ n : LineNo, (w.extractLsb' 0 8).toNat = 14 + n.val → (s.bqRing n).state ≠ .absent → i < (s.bqRing n).count →
      ((s.bqRing n).p + (s.bqRing n).count - (s.bqRing n).c) % (s.bqRing n).count
        ≤ (i + (s.bqRing n).count - (s.bqRing n).c) % (s.bqRing n).count →
      exec (.post w) s = .next (s.setBq n { s.bqRing n with p := i }))

/-- A POST of index i to a present completion ring or the event ring is taken when i is below n and d = (i − C) mod n is no
greater than U: C becomes i, U decreases by d, and nothing else changes. -/
def Obligations.PostReleasesRecords : Prop :=
  ∀ (s : State) (w : Word) (i d : Nat), s.resetHeld = false → s.active = true → (w.extractLsb' 16 16).toNat = i →
    (∀ k : Fin 5, (w.extractLsb' 0 8).toNat = 9 + k.val → (s.cqRing k).state ≠ .absent → i < (s.cqRing k).count →
      (i + (s.cqRing k).count - (s.cqRing k).consumer) % (s.cqRing k).count = d → d ≤ (s.cqRing k).unconsumed →
      exec (.post w) s
        = .next (s.setCq k { s.cqRing k with consumer := i, unconsumed := (s.cqRing k).unconsumed - d }))
    ∧ ((w.extractLsb' 0 8).toNat = 18 → s.er.state ≠ .absent → i < s.er.count →
      (i + s.er.count - s.er.consumer) % s.er.count = d → d ≤ s.er.unconsumed →
      exec (.post w) s = .next { s with er := { s.er with consumer := i, unconsumed := s.er.unconsumed - d } })

/-- An evaluated POST that names no ring or an ABSENT one, whose index is not below n, or that fails the condition of R7 or
R8, changes nothing but the Event Unit, which is offered POST_REJECTED of class 3 with the identifier as its detail; its line
field is the ring's owning line or 255 (Figure 9-2). -/
def Obligations.RejectedPostOffersEvent : Prop :=
  ∀ (s : State) (w : Word) (id i : Nat), s.resetHeld = false → s.active = true →
    (w.extractLsb' 0 8).toNat = id → (w.extractLsb' 16 16).toNat = i →
    (18 < id
      ∨ (∃ k : Fin 9, id = k.val ∧ ((s.sqRing k).state = .absent ∨ (s.sqRing k).count ≤ i
          ∨ (i + (s.sqRing k).count - (s.sqRing k).c) % (s.sqRing k).count
              < ((s.sqRing k).p + (s.sqRing k).count - (s.sqRing k).c) % (s.sqRing k).count))
      ∨ (∃ n : LineNo, id = 14 + n.val ∧ ((s.bqRing n).state = .absent ∨ (s.bqRing n).count ≤ i
          ∨ (i + (s.bqRing n).count - (s.bqRing n).c) % (s.bqRing n).count
              < ((s.bqRing n).p + (s.bqRing n).count - (s.bqRing n).c) % (s.bqRing n).count))
      ∨ (∃ k : Fin 5, id = 9 + k.val ∧ ((s.cqRing k).state = .absent ∨ (s.cqRing k).count ≤ i
          ∨ (s.cqRing k).unconsumed < (i + (s.cqRing k).count - (s.cqRing k).consumer) % (s.cqRing k).count))
      ∨ (id = 18 ∧ (s.er.state = .absent ∨ s.er.count ≤ i
          ∨ s.er.unconsumed < (i + s.er.count - s.er.consumer) % s.er.count))) →
    ∃ r : EventRecord, exec (.post w) s = .next (s.offer r)
      ∧ r.kind = .postRejected ∧ r.kind.eventClass = 3 ∧ r.station = 0 ∧ r.detail.toNat = id
      ∧ r.line.toNat = (if 1 ≤ id ∧ id ≤ 8 then (id - 1) / 2 else if 10 ≤ id ∧ id ≤ 13 then id - 10
          else if 14 ≤ id ∧ id ≤ 17 then id - 14 else 255)

/-- In IDLE a write of BASE_LO or BASE_HI replaces that half of BASE and changes nothing else; START moves the device to STARTING
with the result ACCEPTED and asks for the 512-byte read at BASE. -/
def Obligations.BaseWritesAndStartInIdle : Prop :=
  (∀ (s : State) (w : Word), s.resetHeld = false → s.control.device = .idle →
      exec (.baseWrite false w) s
        = .next { s with control := { s.control with base := s.control.base.extractLsb' 32 32 ++ w } }
      ∧ exec (.baseWrite true w) s
        = .next { s with control := { s.control with base := w ++ s.control.base.extractLsb' 0 32 } })
  ∧ (∀ s : State, s.resetHeld = false → s.control.device = .idle →
      exec .start s = .next { s with
        control := { s.control with device := .starting, lastCommand := .accepted }
        port := { s.port with waiting := s.port.waiting ++ [⟨.controlBlockRead, s.control.base, 512, [], false⟩] } })

/-- RESUME_ADMIN makes a HALTED SQ0 ACTIVE in RUNNING, STOPPING and IDLE, with the result ACCEPTED and no other change (so no
completion record); it is refused when SQ0 is ACTIVE or ABSENT or the device is STARTING or FAULTED. -/
def Obligations.ResumeAdminReactivatesSQ0 : Prop :=
  ∀ s : State, s.resetHeld = false →
    ((s.sqRing 0).state = .halted →
      s.control.device = .running ∨ s.control.device = .stopping ∨ s.control.device = .idle →
      exec .resumeAdmin s = .next ({ s with control := { s.control with lastCommand := .accepted } }.setSq 0
        { s.sqRing 0 with state := .active }))
    ∧ ((s.sqRing 0).state = .active ∨ (s.sqRing 0).state = .absent
        ∨ s.control.device = .starting ∨ s.control.device = .faulted →
      exec .resumeAdmin s = .next { s with control := { s.control with lastCommand := .refused } })

/-! ### The Event Unit -/

/-- A TAKE takes the most urgent class that is pending, unmasked or class 0, and more urgent than every class in service: its
pending flag is cleared, its in-service flag set, and its number returned with the flags after it and the missed count. When
none qualifies NONE (7) is returned and no flag changes. Nothing else changes. -/
def Obligations.TakeTakesMostUrgentClass : Prop :=
  ∀ s : State, s.resetHeld = false →
    (∀ k < 4, s.events.pending.getLsbD k = true → k = 0 ∨ s.events.mask.getLsbD k = false →
      (∀ j ≤ k, s.events.inService.getLsbD j = false) →
      (∀ j < k, s.events.pending.getLsbD j = false ∨ (j ≠ 0 ∧ s.events.mask.getLsbD j = true)) →
      ∃ t, exec .take s = .next t
        ∧ t = { s with
            events := { s.events with
              pending := s.events.pending &&& ~~~(1#4 <<< k), inService := s.events.inService ||| (1#4 <<< k)
              irq := t.events.irq }
            eventRead := 0#8 ++ BitVec.ofNat 8 s.events.missed ++ (s.events.mask &&& 0b1110#4)
              ++ (s.events.inService ||| (1#4 <<< k)) ++ (s.events.pending &&& ~~~(1#4 <<< k)) ++ 0#1
              ++ BitVec.ofNat 3 k }
        ∧ t.irqFollows)
    ∧ ((∀ k < 4, s.events.pending.getLsbD k = false ∨ (k ≠ 0 ∧ s.events.mask.getLsbD k = true)
          ∨ ∃ j ≤ k, s.events.inService.getLsbD j = true) →
      exec .take s = .next { s with
        eventRead := 0#8 ++ BitVec.ofNat 8 s.events.missed ++ (s.events.mask &&& 0b1110#4) ++ s.events.inService
          ++ s.events.pending ++ 0#1 ++ 7#3 })

/-- A RELEASE clears the in-service flag of the most urgent class in service, leaves every other flag, and re-evaluates the
interrupt output; with no class in service it changes nothing. -/
def Obligations.ReleaseLeavesService : Prop :=
  ∀ s : State, s.resetHeld = false →
    (∀ k < 4, s.events.inService.getLsbD k = true → (∀ j < k, s.events.inService.getLsbD j = false) →
      ∃ t, exec .release s = .next t
        ∧ t = { s with events := { s.events with
            inService := s.events.inService &&& ~~~(1#4 <<< k), irq := t.events.irq } }
        ∧ t.irqFollows)
    ∧ (s.events.inService = 0 → s.irqFollows → exec .release s = .next s)

/-- A SET_MASK sets the mask flags of classes 1..3 from bits 5..7 of the word, leaves class 0 unmasked, leaves the pending
and in-service flags, and re-evaluates the interrupt output; nothing else changes. (That a word with other operation bits than
SET_MASK's sets the masks too is the model's choice: log entry 25.) -/
def Obligations.SetMaskSetsThreeFlags : Prop :=
  ∀ (s : State) (w : Word), s.resetHeld = false →
    ∃ t, exec (.setMask w) s = .next t
      ∧ t = { s with events := { s.events with mask := t.events.mask, irq := t.events.irq } }
      ∧ t.events.mask.getLsbD 0 = false ∧ (∀ k, 1 ≤ k → k < 4 → t.events.mask.getLsbD k = w.getLsbD (4 + k))
      ∧ t.irqFollows

/-- A record offered to the Event Unit: it is staged while the FIFO holds fewer than 8, and dropped and counted when it holds
8; with ER full and no write in flight everything staged is dropped. A drop sets the record's class pending. Only RUNNING and
STOPPING deal with it, and only the Event Unit changes. -/
def Obligations.OfferedRecordStagedOrDropped : Prop :=
  ∀ (s : State) (r : EventRecord),
    (s.active = false → s.offer r = s)
    ∧ (s.active = true → s.er.unconsumed < s.er.count ∨ s.events.writing = true → s.events.fifo.length < 8 →
      s.offer r = { s with events := { s.events with fifo := s.events.fifo ++ [r] } })
    ∧ (s.active = true → s.er.unconsumed < s.er.count ∨ s.events.writing = true → 8 ≤ s.events.fifo.length →
      s.offer r = { s with events := { s.events with
          missed := min (s.events.missed + 1) 255, pending := s.events.pending ||| (1#4 <<< r.kind.eventClass)
          irq := (s.offer r).events.irq } }
        ∧ (s.offer r).irqFollows)
    ∧ (s.active = true → s.er.count ≤ s.er.unconsumed → s.events.writing = false →
      s.offer r = { s with events := { s.events with
          fifo := [], missed := min (s.events.missed + s.events.fifo.length + 1) 255
          pending := (s.events.fifo ++ [r]).foldl (fun p x => p ||| (1#4 <<< x.kind.eventClass)) s.events.pending
          irq := (s.offer r).events.irq } }
        ∧ (s.offer r).irqFollows)

/-- The Event Unit begins writing its head record in RUNNING or STOPPING when no write is in flight and ER has room: the
missed count and ER's lap value are placed in it, the missed count becomes 0, and a 16-byte write at position P is asked for.
When the write completes the record leaves the FIFO, U and P advance, L inverts at the wrap and the record's class becomes
pending; a ring then full drops and counts what is still staged. Nothing else changes. (That all of it is dropped in the one
command is the model's choice: log entry 22.) -/
def Obligations.EventRecordIsWritten : Prop :=
  (∀ (s : State) (r : EventRecord) (rest : List EventRecord), s.active = true → s.events.fifo = r :: rest →
      s.events.writing = false → s.er.unconsumed < s.er.count →
      exec .eventWriteStart s = .next { s with
        events := { s.events with
          fifo := { r with missed := s.events.missed, lap := s.er.lap } :: rest, missed := 0, writing := true }
        port := { s.port with waiting := s.port.waiting
          ++ [⟨.eventWrite, s.er.base + BitVec.ofNat 64 (16 * s.er.producer), 16,
              EventRecord.bytes { r with missed := s.events.missed, lap := s.er.lap }, false⟩] } })
  ∧ (∀ (s : State) (a : Access) (r : EventRecord) (rest : List EventRecord), s.Awaits .eventWrite a →
      s.events.writing = true → s.events.fifo = r :: rest →
      ∃ t, exec .eventWriteDone s = .next t
        ∧ t = { s.finishAccess a with
            er := { s.er with
              unconsumed := s.er.unconsumed + 1
              producer := if s.er.producer + 1 = s.er.count then 0 else s.er.producer + 1
              lap := if s.er.producer + 1 = s.er.count then !s.er.lap else s.er.lap }
            events := t.events }
        ∧ t.events.writing = false ∧ t.events.inService = s.events.inService ∧ t.events.mask = s.events.mask ∧ t.irqFollows
        ∧ (s.er.unconsumed + 1 < s.er.count → t.events.fifo = rest ∧ t.events.missed = s.events.missed
            ∧ t.events.pending = s.events.pending ||| (1#4 <<< r.kind.eventClass))
        ∧ (s.er.count ≤ s.er.unconsumed + 1 → t.events.fifo = []
            ∧ (s.events.missed ≤ 255 → t.events.missed = min (s.events.missed + rest.length) 255)
            ∧ t.events.pending = (r :: rest).foldl (fun p x => p ||| (1#4 <<< x.kind.eventClass)) s.events.pending))

/-! ### The Host Port and FAULTED -/

/-- With no access in flight the Host Port starts the waiting access first reached by counting on from the cursor, wrapping
from 22 to 0, and the cursor then names its requester; in FAULTED, with an access in flight, or with none waiting it starts
nothing. -/
def Obligations.HostPortServesInRotation : Prop :=
  ∀ s : State,
    (∀ a : Access, s.control.device ≠ .faulted → s.port.inFlight = none → a ∈ s.port.waiting →
      (∀ b ∈ s.port.waiting, b.kind.position = a.kind.position → b = a) →
      (∀ b ∈ s.port.waiting, (a.kind.position + 22 - s.port.cursor.val) % 23
        ≤ (b.kind.position + 22 - s.port.cursor.val) % 23) →
      ∃ t, exec .hostPortAccessStart s = .next t
        ∧ t = { s with port := ⟨some a, s.port.waiting.erase a, t.port.cursor⟩ }
        ∧ t.port.cursor.val = a.kind.position)
    ∧ (s.control.device = .faulted ∨ s.port.inFlight.isSome = true ∨ s.port.waiting = [] →
      exec .hostPortAccessStart s = .next s)

/-- A failed access in STARTING, RUNNING or STOPPING enters FAULTED: fault code and line name it; every DE is released, the
turns' timers and the poll timers stop, class 0 becomes pending, and pools, lists, queues, caches, the staging FIFO, the
Admin Unit, the entries and the rings keep their values (all rings become ABSENT when the control block read failed). The
next waiting access starts first or not, as the operand says; a payload read that still waits is withdrawn. Host memory is
unchanged when the access was a read. In IDLE a
failed access only leaves the Host Port (log entry 14). -/
def Obligations.FailedAccessEntersFaulted : Prop :=
  ∀ (s : State) (a : Access) (words : Nat) (startFirst : Bool), s.port.inFlight = some a →
    (s.control.device = .starting ∨ s.control.device = .running ∨ s.control.device = .stopping →
    ∃ t, exec (.busError words startFirst) s = .next t
      ∧ t.control = { s.control with device := .faulted, faultCode := a.kind.faultCode, faultLine := a.kind.faultLine }
      ∧ (startFirst = false → t.port = { s.port with
          inFlight := none, waiting := s.port.waiting.filter fun b => decide (∀ n, b.kind ≠ .payloadRead n) })
      ∧ (∀ p, startFirst = true → p = HostPort.startNext { s.port with inFlight := none } → t.port = { p with
          waiting := p.waiting.filter fun b => decide (∀ n, b.kind ≠ .payloadRead n) })
      ∧ (a.data = [] → t.hostMem = s.hostMem)
      ∧ t.stations = s.stations ∧ t.admin = s.admin ∧ t.pending = s.pending ∧ t.now = s.now
      ∧ (a.kind ≠ .controlBlockRead → t.sq = s.sq ∧ t.cq = s.cq ∧ t.bq = s.bq ∧ t.er = s.er)
      ∧ (a.kind = .controlBlockRead → (∀ k, t.sqRing k = ⟨0, 0, .absent, 0, 0⟩)
          ∧ (∀ k, t.cqRing k = ⟨0, 0, .absent, 0, true, 0, 0⟩) ∧ (∀ n, t.bqRing n = ⟨0, 0, .absent, 0, 0⟩)
          ∧ t.er = ⟨0, 0, .absent, 0, true, 0, 0⟩)
      ∧ t.events = { s.events with pending := s.events.pending ||| 1#4, irq := t.events.irq } ∧ t.irqFollows
      ∧ ∀ n, t.line n = { s.line n with
            de := false, sched := { (s.line n).sched with pollTimer := none }, state := (t.line n).state }
          ∧ ((s.line n).turn? = none → (t.line n).state = (s.line n).state)
          ∧ ∀ x, (s.line n).state = .turn x → (t.line n).state = .turn { x with
              quietEnd := none, jamEnd := none, sendEnd := none, replyEnd := none, gapEnd := none, wire := []
              collector := none })
    ∧ (s.control.device = .idle → ∃ t, exec (.busError words startFirst) s = .next t
      ∧ t = { s with port := { s.port with inFlight := none }, hostMem := t.hostMem } ∧ (a.data = [] → t.hostMem = s.hostMem))

/-- The fault code and fault line of every kind of access (Figure 10-6) and its requester's position (Figure 10-5); SQ(2n+1) is
line n's urgent ring, SQ(2n+2) its normal ring, CQ(n+1) its completion ring; the available count is (p − c) mod n for an
ACTIVE ring and counts as 0 for a HALTED or ABSENT one. -/
def Obligations.FixedTables : Prop :=
  ((AccessKind.controlBlockRead.faultCode = .controlBlockRead ∧ AccessKind.adminRead.faultCode = .requestFetch
      ∧ AccessKind.adminWrite.faultCode = .recordWrite ∧ AccessKind.eventWrite.faultCode = .eventWrite
      ∧ AccessKind.snapshotWrite.faultCode = .snapshotWrite)
    ∧ (∀ k ∈ [AccessKind.controlBlockRead, .adminRead, .adminWrite, .eventWrite, .snapshotWrite], k.faultLine = none)
    ∧ (AccessKind.controlBlockRead.position = 0 ∧ AccessKind.adminRead.position = 1 ∧ AccessKind.adminWrite.position = 1
      ∧ AccessKind.snapshotWrite.position = 1 ∧ AccessKind.eventWrite.position = 2)
    ∧ ∀ n : LineNo,
      (AccessKind.fetchRead n).faultCode = .requestFetch ∧ (AccessKind.payloadRead n).faultCode = .payloadRead
      ∧ (AccessKind.descriptorRead n).faultCode = .bufferFetch ∧ (AccessKind.bufferWrite n).faultCode = .dataWrite
      ∧ (AccessKind.answerWrite n).faultCode = .dataWrite ∧ (AccessKind.recordWrite n).faultCode = .recordWrite
      ∧ (∀ k ∈ [AccessKind.fetchRead n, .payloadRead n, .descriptorRead n, .bufferWrite n, .answerWrite n, .recordWrite n],
          k.faultLine = some n)
      ∧ (AccessKind.fetchRead n).position = 3 + 5 * n.val ∧ (AccessKind.payloadRead n).position = 4 + 5 * n.val
      ∧ (AccessKind.descriptorRead n).position = 5 + 5 * n.val ∧ (AccessKind.bufferWrite n).position = 6 + 5 * n.val
      ∧ (AccessKind.answerWrite n).position = 6 + 5 * n.val ∧ (AccessKind.recordWrite n).position = 7 + 5 * n.val)
  ∧ ((∀ n : LineNo, (sqIndex n true).val = 2 * n.val + 1 ∧ (sqIndex n false).val = 2 * n.val + 2
      ∧ (cqIndex n).val = n.val + 1)
    ∧ ∀ r : HostRing, (r.state = .active → r.available = (r.p + r.count - r.c) % r.count)
      ∧ (r.state ≠ .active → r.available = 0))

/-- In FAULTED the end of an access that was already in flight has no effect beyond the bus. A failure sets the further-fault
flag, keeps fault code and line, and leaves in host memory what a cut access leaves there: nothing new when it was a read. A
completion, whichever of the part's accesses it ends, only finishes the access, and the write of a ring's record only drops the
record, which host memory never shows (State.dropRecord, said of host memory in WritesReachHostMemory); so does the completion
of an abandoned access on a RUNNING or STOPPING device. (How much of a dropped record stands in host memory is a free value:
log entry 26.) -/
def Obligations.AccessInFaultedHasNoFurtherEffect : Prop :=
  ∀ (s : State) (a : Access) (rec : List Byte) (n : LineNo), s.port.inFlight = some a →
    s.control.device = .faulted
      ∨ (a.abandoned = true ∧ (s.control.device = .running ∨ s.control.device = .stopping)) →
    (s.control.device = .faulted → ∀ words startFirst, exec (.busError words startFirst) s = .next { s with
        control := { s.control with furtherFault := true }, port := { s.port with inFlight := none }
        hostMem := s.hostMem.afterCut a words }
      ∧ (a.data = [] → s.hostMem.afterCut a words = s.hostMem))
    ∧ (a.kind = .controlBlockRead → rec.length = 512 → exec (.controlBlockReadDone rec) s = .next (s.finishAccess a))
    ∧ (a.kind = .fetchRead n → rec.length = 32 → exec (.takeLineRequest rec) s = .next (s.finishAccess a))
    ∧ (a.kind = .descriptorRead n → rec.length = 16 → exec (.descriptorReadDone rec) s = .next (s.finishAccess a))
    ∧ (a.kind = .payloadRead n → rec.length = a.length → exec (.payloadReadDone rec) s = .next (s.finishAccess a))
    ∧ (a.kind = .bufferWrite n → exec .bufferWriteDone s = .next (s.finishAccess a))
    ∧ (a.kind = .answerWrite n → exec .answerWriteDone s = .next (s.finishAccess a))
    ∧ (a.kind = .recordWrite n → exec .recordWriteDone s = .next (s.dropRecord a))
    ∧ (a.kind = .eventWrite → exec .eventWriteDone s = .next (s.dropRecord a))
    ∧ (a.kind = .snapshotWrite → exec .snapshotWriteDone s = .next (s.finishAccess a))
    ∧ (a.kind = .adminWrite → exec .adminCompletionWriteDone s = .next (s.dropRecord a))
    ∧ (a.kind = .adminRead → rec.length = 32 →
      (∀ p ∈ [(1, Instr.lineSetup rec), (2, .lineDisable rec), (3, .lineReset rec), (4, .attach rec), (5, .detach rec),
          (6, .stationSet rec), (7, .stationRead rec), (8, .cancel rec), (9, .queueResume rec)],
        (byteAt rec 0).toNat = p.1 → exec p.2 s = .next (s.finishAccess a))
      ∧ ((byteAt rec 0).toNat = 0 ∨ 9 < (byteAt rec 0).toNat → exec (.adminMalformed rec) s = .next (s.finishAccess a)))

/-- A completed write lies in host memory byte by byte from its address upward, every other address reads as before, no
access is in flight, and nothing else changes. A failing access leaves the bytes of the words acknowledged before it, its last
word never among them: for a record, whose place is word-aligned, the words go upward but the one with the record type and the
lap flag, which goes last; the words of a data, answer or snapshot write go upward. Every other address reads as before. A
device reset leaves an access in flight cut after some number of words. A record whose write completes in FAULTED is dropped:
its lap word reads as before, of its other words some number lie in host memory, upward, every other address reads as before, no
access is in flight, and nothing else changes. (An address the part has not written reads as none,
addresses wrap, and a data write's words are those of its host addresses: the model's choices, log entry 4; the number of
words at a reset is a free value, and that the last word is never among them the model's choice, log entry 5; the number of
words of a dropped record is a free value, log entry 26.) -/
def Obligations.WritesReachHostMemory : Prop :=
  (∀ (s : State) (a : Access), a.data.length ≤ 512 →
      s.finishAccess a = { s with
          port := { s.port with inFlight := none }, hostMem := (s.finishAccess a).hostMem }
      ∧ (∀ i (h : i < a.data.length), (s.finishAccess a).hostMem.read (a.address + BitVec.ofNat 64 i).toNat = some a.data[i])
      ∧ ∀ x, (∀ i < a.data.length, x ≠ (a.address + BitVec.ofNat 64 i).toNat) →
          (s.finishAccess a).hostMem.read x = s.hostMem.read x)
  ∧ (∀ (s : State) (a : Access) (words : Nat) (startFirst : Bool), s.port.inFlight = some a →
      ∃ t, exec (.busError words startFirst) s = .next t ∧ t.hostMem = s.hostMem.afterCut a words
        ∧ ((∃ n, a.kind = .recordWrite n) ∨ a.kind = .adminWrite ∨ a.kind = .eventWrite → a.data.length = 16 →
          a.address.toNat % 4 = 0 →
          (∀ i < 4, t.hostMem.read (a.address + BitVec.ofNat 64 i).toNat
              = s.hostMem.read (a.address + BitVec.ofNat 64 i).toNat)
          ∧ (∀ i (h : i < a.data.length), 4 ≤ i → t.hostMem.read (a.address + BitVec.ofNat 64 i).toNat
              = if i / 4 - 1 < words then some a.data[i] else s.hostMem.read (a.address + BitVec.ofNat 64 i).toNat)
          ∧ ∀ x, (∀ i < 16, x ≠ (a.address + BitVec.ofNat 64 i).toNat) → t.hostMem.read x = s.hostMem.read x)
        ∧ ((∃ n, a.kind = .bufferWrite n ∨ a.kind = .answerWrite n) ∨ a.kind = .snapshotWrite → a.data.length ≤ 240 →
          (∀ i (h : i < a.data.length), t.hostMem.read (a.address + BitVec.ofNat 64 i).toNat
            = if (a.address.toNat % 4 + i) / 4 < words
                ∧ (a.address.toNat % 4 + i) / 4 < (a.address.toNat % 4 + a.data.length - 1) / 4 then some a.data[i]
              else s.hostMem.read (a.address + BitVec.ofNat 64 i).toNat)
          ∧ ∀ x, (∀ i < a.data.length, x ≠ (a.address + BitVec.ofNat 64 i).toNat) → t.hostMem.read x = s.hostMem.read x))
  ∧ (∀ (s : State) (a : Access) (c : Instr), s.resetHeld = false → s.port.inFlight = some a →
      c = .deviceReset ∨ c = .resetInput →
      ∃ t words, exec c s = .next t ∧ t.hostMem = s.hostMem.afterCut a words)
  ∧ ∀ (s : State) (a : Access), (∃ n, a.kind = .recordWrite n) ∨ a.kind = .adminWrite ∨ a.kind = .eventWrite →
      a.data.length = 16 → a.address.toNat % 4 = 0 →
      ∃ words, s.dropRecord a = { s with
          port := { s.port with inFlight := none }, hostMem := (s.dropRecord a).hostMem, freeDraws := s.freeDraws + 1 }
        ∧ (∀ i < 4, (s.dropRecord a).hostMem.read (a.address + BitVec.ofNat 64 i).toNat
            = s.hostMem.read (a.address + BitVec.ofNat 64 i).toNat)
        ∧ (∀ i (h : i < a.data.length), 4 ≤ i → (s.dropRecord a).hostMem.read (a.address + BitVec.ofNat 64 i).toNat
            = if i / 4 - 1 < words then some a.data[i] else s.hostMem.read (a.address + BitVec.ofNat 64 i).toNat)
        ∧ ∀ x, (∀ i < 16, x ≠ (a.address + BitVec.ofNat 64 i).toNat) → (s.dropRecord a).hostMem.read x = s.hostMem.read x

/-! ### START, STOP and the drain -/

/-- A control block whose lowest failing descriptor is k sends the device back to IDLE with START_INVALID and invalid ring k,
every ring ABSENT with indices 0, and everything else as it was. One whose 19 descriptors are good makes the device RUNNING
with every block at its START values: rings from their descriptors with indices 0 and laps 1, entries kept with the
resynchronising values, enabled lines IDLE with a fresh poll timer, DISABLED lines DISABLED, configurations kept, pools,
caches and queues empty, flags clear, masks loaded. (That the transmit buffer keeps its bytes across START is deduced: log
entry 15.) -/
def Obligations.ControlBlockDecidesStart : Prop :=
  (∀ (s : State) (a : Access) (block : List Byte) (k : Nat), s.port.inFlight = some a → a.kind = .controlBlockRead →
      block.length = 512 → s.control.device = .starting → k < 19 → ¬ DescriptorGood block k →
      (∀ j < k, DescriptorGood block j) →
      ∃ t, exec (.controlBlockReadDone block) s = .next t
        ∧ t = { s.finishAccess a with
            control := { s.control with device := .idle, lastCommand := .startInvalid, invalidRing := BitVec.ofNat 5 k }
            sq := t.sq, cq := t.cq, bq := t.bq, er := ⟨0, 0, .absent, 0, true, 0, 0⟩ }
        ∧ (∀ j, t.sqRing j = ⟨0, 0, .absent, 0, 0⟩) ∧ (∀ j, t.cqRing j = ⟨0, 0, .absent, 0, true, 0, 0⟩)
        ∧ (∀ n, t.bqRing n = ⟨0, 0, .absent, 0, 0⟩))
  ∧ (∀ (s : State) (a : Access) (block : List Byte), s.port.inFlight = some a → a.kind = .controlBlockRead →
      block.length = 512 → s.control.device = .starting → (∀ k < 19, DescriptorGood block k) →
      ∃ t, exec (.controlBlockReadDone block) s = .next t
        ∧ t = { s.finishAccess a with
            control := { s.control with device := .running }, sq := t.sq, cq := t.cq, bq := t.bq, er := t.er
            admin := ⟨.none, false⟩
            stations := s.stations.map fun e => { e with
              liveness := .unknown, outOfStep := true, detachPending := false, txSeq := 0, rxExpect := 0, lastAck := none
              missCount := 0, holdoff := none, pending := [] }
            lines := t.lines
            events := ⟨[], false, 0, 0, 0, (byteAt block 0x130).extractLsb' 0 4 &&& 0b1110#4, false⟩ }
        ∧ (∀ k : Fin 9, t.sqRing k = if blockCount block k.val = 0 then ⟨0, 0, .absent, 0, 0⟩
            else ⟨blockBase block k.val, blockCount block k.val, .active, 0, 0⟩)
        ∧ (∀ k : Fin 5, t.cqRing k = if blockCount block (9 + k.val) = 0 then ⟨0, 0, .absent, 0, true, 0, 0⟩
            else ⟨blockBase block (9 + k.val), blockCount block (9 + k.val), .active, 0, true, 0, 0⟩)
        ∧ (∀ n : LineNo, t.bqRing n = if blockCount block (14 + n.val) = 0 then ⟨0, 0, .absent, 0, 0⟩
            else ⟨blockBase block (14 + n.val), blockCount block (14 + n.val), .active, 0, 0⟩)
        ∧ t.er = ⟨blockBase block 18, blockCount block 18, .active, 0, true, 0, 0⟩
        ∧ ∀ n : LineNo, (t.line n).config = (s.line n).config ∧ (t.line n).txBuf = (s.line n).txBuf
            ∧ (t.line n).state = (if (s.line n).state = .disabled then .disabled else .idle)
            ∧ (t.line n).streak = 0 ∧ (t.line n).fetch = none ∧ (∀ k : SlotNo, (t.line n).pool.slots[k] = .free)
            ∧ (t.line n).pool.doneOrder = [] ∧ (t.line n).pool.broadcast = []
            ∧ (t.line n).buf = ⟨[], false, false, none⟩ ∧ (t.line n).post = ⟨[], false, false, false⟩
            ∧ (t.line n).sched = ⟨none, none, none, .start,
                if (s.line n).state = .disabled then none else some (s.now + (s.line n).config.pollInterval),
                false, 0, false, none⟩)

/-- STOP in RUNNING: the device is STOPPING with ACCEPTED; fetches and descriptor reads in flight are overtaken; poll timers
stop. A retry pending is given up: its slot is ABORTED (delivery_unknown after a SELECT), its entry out of step if its
exchange had sent a SELECT or a RESET and the entry is not OFFLINE, its buffer released. The WAITING and ANSWERING slots of
every list, those behind the retry's slot included, become DONE with ABORTED, unless the list has an ACTIVE head whose turn is
in flight or the answer of its head is being written: such a list's slots stay, those of the broadcast list too. Line by line,
an entry that loses its step so has STATION_OUT_OF_STEP with 512 offered. On a line without a turn the DONE order gains
the retry's slot, then the stations' in ring order, then the broadcast list's, and the cache is emptied if no descriptor read
is in flight. Turns, rings, queues, configurations, the entries' other fields and the requests' other fields stay. (That STOP
leaves an answer being written is deduced: log entry 8; that the retry's slot comes first is the model's choice: log entry
28.) -/
def Obligations.StopAbortsWaitingRequests : Prop :=
  ∀ s : State, s.resetHeld = false → s.control.device = .running →
    ∃ t, exec .stop s = .next t
      ∧ t.control = { s.control with device := .stopping, lastCommand := .accepted }
      ∧ t.sq = s.sq ∧ t.cq = s.cq ∧ t.bq = s.bq ∧ t.er = s.er ∧ t.port = s.port ∧ t.admin = s.admin
      ∧ t.hostMem = s.hostMem ∧ t.now = s.now ∧ t.pending = s.pending
      ∧ (∀ lost : LineNo → List EventRecord, (∀ n, lost n = match (s.line n).sched.retry with
          | some x => match x.station.bind (s.station? n) with
            | some e => if x.sent = true ∧ (x.frame = .select ∨ x.frame = .reset) ∧ e.liveness ≠ .offline ∧ e.outOfStep = false
                then [⟨.stationOutOfStep, BitVec.ofNat 8 n.val, e.address, 512, 0, false⟩] else []
            | none => []
          | none => []) →
          t.events = ((lost 0 ++ lost 1 ++ lost 2 ++ lost 3).foldl State.offer s).events)
      ∧ ∀ (n : LineNo) (listed first : List SlotNo), listed = (s.ring n).flatMap Station.pending ++ (s.line n).pool.broadcast →
        (first = match (s.line n).sched.retry with
          | some x => x.slot.toList.filter fun k => match s.request? n k with
            | some r => decide (r.state ≠ .done)
            | none => false
          | none => []) →
        (t.line n).sched.retry = none ∧ (t.line n).sched.pollTimer = none
        ∧ (t.line n).fetch = (s.line n).fetch.map (fun f => { f with overtaken := true })
        ∧ ((s.line n).turn? = none → (s.line n).buf.reading = none →
            (t.line n).buf = { (s.line n).buf with cache := [], reserved := false })
        ∧ ((s.line n).turn?.isSome = true ∨ (s.line n).buf.reading.isSome = true → (t.line n).buf = { (s.line n).buf with
            reading := (s.line n).buf.reading.map fun _ => true
            reserved := (s.line n).buf.reserved && (s.line n).sched.retry.isNone })
        ∧ (t.line n).state = (s.line n).state ∧ (t.line n).de = (s.line n).de ∧ (t.line n).config = (s.line n).config
        ∧ (t.line n).post.queue = (s.line n).post.queue ∧ (t.line n).txBuf = (s.line n).txBuf
        ∧ (∀ x k r, (s.line n).sched.retry = some x → x.slot = some k → s.request? n k = some r → r.state ≠ .done →
            ∃ q, t.request? n k = some q ∧ q.state = .done ∧ q.outcome = some .aborted
              ∧ q.deliveryUnknown = (r.deliveryUnknown || decide (x.frame = .select)))
        ∧ (∀ k r, s.request? n k = some r → ∃ q, t.request? n k = some q
            ∧ (q = r ∨ (r.state ≠ .done ∧ q.state = .done ∧ q.outcome = some .aborted ∧ q.tag = r.tag ∧ q.kind = r.kind
                ∧ q.station = r.station ∧ q.resent = r.resent ∧ q.retriesUsed = r.retriesUsed)))
        ∧ (∀ e ∈ s.ring n, (∀ k ∈ e.pending, s.slotIs n k .active = true → k ∈ first) →
            (s.line n).storingAnswer e.address = false →
            ∀ k ∈ e.pending, s.slotIs n k .waiting = true ∨ s.slotIs n k .answering = true →
              ∃ q, t.request? n k = some q ∧ q.state = .done ∧ q.outcome = some .aborted)
        ∧ (listed.Nodup → ∀ e ∈ s.ring n, (∀ k ∈ e.pending, k ∉ first) →
            (∃ k rest, e.pending = k :: rest ∧ s.slotIs n k .active = true) ∨ (s.line n).storingAnswer e.address = true →
            ∀ k ∈ e.pending, t.request? n k = s.request? n k)
        ∧ ((∀ k ∈ (s.line n).pool.broadcast, s.slotIs n k .active = true → k ∈ first) →
            ∀ k ∈ (s.line n).pool.broadcast, s.slotIs n k .waiting = true →
              ∃ q, t.request? n k = some q ∧ q.state = .done ∧ q.outcome = some .aborted)
        ∧ (listed.Nodup → (∀ k ∈ (s.line n).pool.broadcast, k ∉ first) →
            (∃ k rest, (s.line n).pool.broadcast = k :: rest ∧ s.slotIs n k .active = true) →
            (t.line n).pool.broadcast = (s.line n).pool.broadcast
            ∧ ∀ k ∈ (s.line n).pool.broadcast, t.request? n k = s.request? n k)
        ∧ ((s.line n).turn? = none → listed.Nodup → (∀ k ∈ listed, s.slotIs n k .active = true → k ∈ first) →
            (t.line n).pool.doneOrder = (s.line n).pool.doneOrder ++ first
              ++ listed.filter fun k => !first.contains k && (s.slotIs n k .waiting || s.slotIs n k .answering))
        ∧ ∀ a e, s.station? n a = some e → ∃ f, t.station? n a = some f
          ∧ f = { e with outOfStep := f.outOfStep, pending := f.pending }
          ∧ (f.outOfStep = true ↔ e.outOfStep = true ∨ ∃ x, (s.line n).sched.retry = some x ∧ x.station = some a
              ∧ x.sent = true ∧ (x.frame = .select ∨ x.frame = .reset) ∧ e.liveness ≠ .offline)

/-- In STOPPING with nothing left in flight, every slot free, every queue, cache and the staging FIFO empty and no admin
request in progress, the device reaches IDLE: entries take the resynchronising values, enabled lines are IDLE, schedulers are
cleared, and rings, configurations, event flags, masks, the missed count and the last-command result are kept. -/
def Obligations.DrainReachesIdle : Prop :=
  ∀ s : State, s.control.device = .stopping → s.admin.work = .none → s.events.fifo = [] → s.events.writing = false →
    (∀ n, (s.line n).turn? = none ∧ (s.line n).fetch = none ∧ (s.line n).buf.reading = none
      ∧ (∀ k : SlotNo, (s.line n).pool.slots[k] = .free) ∧ (s.line n).post.queue = [] ∧ (s.line n).post.writing = false
      ∧ (s.line n).buf.cache = []) →
    ∃ t, exec .drainComplete s = .next t
      ∧ t = { s with
          control := { s.control with device := .idle }
          stations := s.stations.map fun e => { e with
            liveness := .unknown, outOfStep := true, detachPending := false, txSeq := 0, rxExpect := 0, lastAck := none
            missCount := 0, holdoff := none, pending := [] }
          lines := t.lines }
      ∧ ∀ n, t.line n = { s.line n with
          state := if (s.line n).state = .disabled then .disabled else .idle
          streak := 0, sched := ⟨none, none, none, .start, none, false, 0, false, none⟩
          buf := { (s.line n).buf with reserved := false }, post := { (s.line n).post with held := false } }

/-! ### Line requests -/

/-- Which ring, which claim: the line's fetch logic claims the record at the consumer index of the ring R86 chooses, into the
lowest free slot, and asks for its 32 bytes; only that ring's consumer index, the line's slot, counter and fetch, and the Host
Port change. -/
def Obligations.FetchClaimsByStreak : Prop :=
  ∀ (s : State) (n : LineNo) (k : SlotNo) (urgent : Bool) (ring : HostRing),
    s.control.device = .running → (s.line n).state ≠ .disabled → s.resetting n = false → s.disabling n = false →
    (s.line n).fetch = none → (s.cqOf n).state = .active →
    (s.line n).pool.slots[k] = .free → (∀ j : SlotNo, j < k → (s.line n).pool.slots[j] ≠ .free) →
    (urgent = false ∧ 0 < (s.sqRing (sqIndex n false)).available
        ∧ ((s.line n).streak = 4 ∨ (s.sqRing (sqIndex n true)).available = 0))
      ∨ (urgent = true ∧ 0 < (s.sqRing (sqIndex n true)).available
        ∧ ((s.line n).streak ≠ 4 ∨ (s.sqRing (sqIndex n false)).available = 0)) →
    s.sqRing (sqIndex n urgent) = ring →
    ∃ t, exec (.fetchClaim n) s = .next t
      ∧ t = { s.setSq (sqIndex n urgent) { ring with c := (ring.c + 1) % ring.count } with
          lines := t.lines
          port := { s.port with waiting := s.port.waiting
            ++ [⟨.fetchRead n, ring.base + BitVec.ofNat 64 (32 * ring.c), 32, [], false⟩] } }
      ∧ t.line n = { s.line n with
          streak := if urgent then min ((s.line n).streak + 1) 4 else 0, fetch := some ⟨urgent, k, false⟩
          pool := { (s.line n).pool with slots := (s.line n).pool.slots.set k .setAside } }
      ∧ ∀ m, m ≠ n → t.line m = s.line m

/-- A line record is malformed exactly when one of the five tests of R20 holds; its slot then becomes DONE with MALFORMED and
its tag, on no list; its ring becomes HALTED with its indices kept and the event QUEUE_HALTED offered with the ring's
identifier (R10); the line's other ring is unaffected. (When LINE_HELD follows an event is judged as log entry 2 has it: the
model's choice.) -/
def Obligations.MalformedRecordHaltsRing : Prop :=
  (∀ rec : List Byte, malformed rec = true ↔ RequestMalformed rec)
  ∧ ∀ (s : State) (n : LineNo) (a : Access) (f : Fetch) (rec : List Byte), s.Awaits (.fetchRead n) a → rec.length = 32 →
    (s.line n).fetch = some f → f.overtaken = false → RequestMalformed rec →
    ∃ t, exec (.takeLineRequest rec) s = .next t
      ∧ (t.line n).pool.slots[f.slot] = .held { requestOf f.urgent (s.line n).pool.takes rec with
          state := .done, outcome := some .malformed }
      ∧ (t.line n).pool.doneOrder = (s.line n).pool.doneOrder ++ [f.slot]
      ∧ (∀ e ∈ t.ring n, f.slot ∉ e.pending) ∧ f.slot ∉ (t.line n).pool.broadcast
      ∧ t.sqRing (sqIndex n f.urgent) = { s.sqRing (sqIndex n f.urgent) with state := .halted }
      ∧ (∀ k, k ≠ sqIndex n f.urgent → t.sqRing k = s.sqRing k)
      ∧ (t.line n).fetch = none ∧ State.SlotsKept n f.slot s t ∧ State.OthersKept n s t
      ∧ t.control = s.control ∧ t.cq = s.cq ∧ t.bq = s.bq ∧ t.er = s.er
      ∧ State.Offered n [⟨.queueHalted, BitVec.ofNat 8 n.val, 0, BitVec.ofNat 16 (sqIndex n f.urgent).val, 0, false⟩] s t

/-- A well-formed record that was not overtaken goes, WAITING, to the end of the broadcast list if it is a BROADCAST and to
the end of its station's pending list otherwise; it is DONE with NO_STATION when the line has no entry for its address, and
DONE with OFFLINE when the entry is OFFLINE with an empty list and the kind is not RESYNC. A record that STOP, LINE_RESET or
LINE_DISABLE overtook is not examined: its slot becomes DONE with ABORTED, it joins those a LINE_RESET or LINE_DISABLE of the
line in progress waits for, and the rings' states stay. No event is raised for any of these. (That an overtaken slot takes the
record's own tag, station and fields is deduced: log entry 12; that the rule for an OFFLINE entry holds with detach_pending
set too, and when LINE_HELD may follow, are the model's choices: log entries 19 and 2.) -/
def Obligations.TakenRequestIsPlaced : Prop :=
  (∀ (s : State) (n : LineNo) (a : Access) (f : Fetch) (rec : List Byte) (q : Request), s.Awaits (.fetchRead n) a →
      rec.length = 32 → (s.line n).fetch = some f → f.overtaken = false → ¬ RequestMalformed rec →
      q = requestOf f.urgent (s.line n).pool.takes rec →
      ∃ t, exec (.takeLineRequest rec) s = .next t
        ∧ (t.line n).fetch = none ∧ State.SlotsKept n f.slot s t ∧ State.OthersKept n s t
        ∧ t.control = s.control ∧ t.sq = s.sq ∧ t.cq = s.cq ∧ t.bq = s.bq ∧ t.er = s.er ∧ t.admin = s.admin
        ∧ State.Offered n [] s t
        ∧ ((byteAt rec 0).toNat = 4 →
            (t.line n).pool.slots[f.slot] = .held q ∧ (t.line n).pool.broadcast = (s.line n).pool.broadcast ++ [f.slot]
            ∧ (t.line n).pool.doneOrder = (s.line n).pool.doneOrder ∧ t.stations = s.stations)
        ∧ ((byteAt rec 0).toNat ≠ 4 → s.station? n (byteAt rec 1) = none →
            (t.line n).pool.slots[f.slot] = .held { q with state := .done, outcome := some .noStation }
            ∧ (t.line n).pool.doneOrder = (s.line n).pool.doneOrder ++ [f.slot])
        ∧ ∀ e, (byteAt rec 0).toNat ≠ 4 → s.station? n (byteAt rec 1) = some e →
            (e.liveness = .offline ∧ (byteAt rec 0).toNat ≠ 3 ∧ e.pending = [] →
              (t.line n).pool.slots[f.slot] = .held { q with state := .done, outcome := some .offline }
              ∧ (t.line n).pool.doneOrder = (s.line n).pool.doneOrder ++ [f.slot])
            ∧ (¬ (e.liveness = .offline ∧ (byteAt rec 0).toNat ≠ 3 ∧ e.pending = []) →
              (t.line n).pool.slots[f.slot] = .held q
              ∧ t.station? n (byteAt rec 1) = some { e with pending := e.pending ++ [f.slot] }
              ∧ (t.line n).pool.doneOrder = (s.line n).pool.doneOrder
              ∧ (t.line n).pool.broadcast = (s.line n).pool.broadcast))
  ∧ (∀ (s : State) (n : LineNo) (a : Access) (f : Fetch) (rec : List Byte), s.Awaits (.fetchRead n) a → rec.length = 32 →
      (s.line n).fetch = some f → f.overtaken = true →
      ∃ t, exec (.takeLineRequest rec) s = .next t
        ∧ (t.line n).pool.slots[f.slot] = .held { requestOf f.urgent (s.line n).pool.takes rec with
            state := .done, outcome := some .aborted }
        ∧ (t.line n).pool.doneOrder = (s.line n).pool.doneOrder ++ [f.slot]
        ∧ (t.line n).fetch = none ∧ State.SlotsKept n f.slot s t ∧ State.OthersKept n s t
        ∧ t.control = s.control ∧ t.sq = s.sq ∧ t.cq = s.cq ∧ t.bq = s.bq ∧ t.er = s.er ∧ State.Offered n [] s t
        ∧ (∀ tag made, s.admin.work = .resetting tag n made →
          t.admin = { s.admin with work := .resetting tag n (made ++ [f.slot]) })
        ∧ (∀ tag ended st made, s.admin.work = .disabling tag n ended st made →
          t.admin = { s.admin with work := .disabling tag n ended st (made ++ [f.slot]) })
        ∧ (s.resetting n = false → s.disabling n = false → t.admin = s.admin))

/-! ### Admin requests -/

/-- The Admin Unit claims the record at SQ0's consumer index when the device is RUNNING, SQ0 is ACTIVE with one available,
nothing is in progress and CQ0 has room: c advances, the CQ0 reservation is made and the 32-byte read asked for. A completion
is a record of type 1, ring 0, the tag, status, station and length given, flags and retries 0, whose 16 bytes with CQ0's lap
value are asked to be written at CQ0's position P. When that write completes U and P advance, L inverts at the wrap, class 2
becomes pending, and neither request nor reservation is left. -/
def Obligations.AdminUnitClaimsAndCompletes : Prop :=
  (∀ s : State, s.control.device = .running → 1 ≤ (s.sqRing 0).available → s.admin.work = .none →
    (s.cqRing 0).unconsumed < (s.cqRing 0).count →
    exec .adminClaim s = .next { s.setSq 0 { s.sqRing 0 with c := ((s.sqRing 0).c + 1) % (s.sqRing 0).count } with
      admin := ⟨.reading, true⟩
      port := { s.port with waiting := s.port.waiting
        ++ [⟨.adminRead, (s.sqRing 0).base + BitVec.ofNat 64 (32 * (s.sqRing 0).c), 32, [], false⟩] } })
  ∧ (∀ (s : State) (tag : Half) (st : AdminStatus) (station length : Byte),
    s.completeAdmin tag st station length = { s with
      admin := { s.admin with
        work := .completing ⟨1, 0, tag, st.code, station, false, false, false, length, 0⟩ }
      port := { s.port with waiting := s.port.waiting
        ++ [⟨.adminWrite, (s.cqRing 0).base + BitVec.ofNat 64 (16 * (s.cqRing 0).producer), 16,
            PostRecord.bytes ⟨1, 0, tag, st.code, station, false, false, false, length, 0⟩ (s.cqRing 0).lap, false⟩] } })
  ∧ ∀ (s : State) (a : Access), s.Awaits .adminWrite a → s.admin.reservation = true →
    ∃ t, exec .adminCompletionWriteDone s = .next t
      ∧ t = { (s.finishAccess a).setCq 0 { s.cqRing 0 with
            unconsumed := (s.cqRing 0).unconsumed + 1
            producer := if (s.cqRing 0).producer + 1 = (s.cqRing 0).count then 0 else (s.cqRing 0).producer + 1
            lap := if (s.cqRing 0).producer + 1 = (s.cqRing 0).count then !(s.cqRing 0).lap else (s.cqRing 0).lap } with
          admin := ⟨.none, false⟩
          events := { s.events with pending := s.events.pending ||| 0b0100#4, irq := t.events.irq } }
      ∧ t.irqFollows

/-- An SQ0 record whose kind is not 1..9 halts SQ0, offers QUEUE_HALTED with line 255 and detail 0, and is completed
MALFORMED with the record's tag and station 0. -/
def Obligations.MalformedAdminHaltsSQ0 : Prop :=
  ∀ (s : State) (a : Access) (rec : List Byte), s.Awaits .adminRead a → rec.length = 32 →
    (byteAt rec 0).toNat = 0 ∨ 9 < (byteAt rec 0).toNat →
    exec (.adminMalformed rec) s
      = .next (((s.finishAccess a).setSq 0 { s.sqRing 0 with state := .halted }).offer
          ⟨.queueHalted, 255, 0, 0, 0, false⟩ |>.completeAdmin (halfAt rec 2) .malformed 0 0)

/-- An admin request one of whose value checks in Figure 2-5 fails is completed BAD_PARAM and has no other effect; its
completion's station field is the record's for ATTACH, DETACH, STATION_SET and STATION_READ and 0 for the others. -/
def Obligations.FailedValueCheckIsBadParam : Prop :=
  ∀ (s : State) (a : Access) (rec : List Byte),
    (s.AwaitsAdmin a 1 rec → s.LineSetupBad rec →
      exec (.lineSetup rec) s = .next ((s.finishAccess a).completeAdmin (halfAt rec 2) .badParam 0 0))
    ∧ (s.AwaitsAdmin a 2 rec → 3 < (byteAt rec 1).toNat →
      exec (.lineDisable rec) s = .next ((s.finishAccess a).completeAdmin (halfAt rec 2) .badParam 0 0))
    ∧ (s.AwaitsAdmin a 3 rec → 3 < (byteAt rec 1).toNat →
      exec (.lineReset rec) s = .next ((s.finishAccess a).completeAdmin (halfAt rec 2) .badParam 0 0))
    ∧ (s.AwaitsAdmin a 4 rec → StationParamsBad rec →
      exec (.attach rec) s = .next ((s.finishAccess a).completeAdmin (halfAt rec 2) .badParam (byteAt rec 4) 0))
    ∧ (s.AwaitsAdmin a 5 rec → LineStationBad rec →
      exec (.detach rec) s = .next ((s.finishAccess a).completeAdmin (halfAt rec 2) .badParam (byteAt rec 4) 0))
    ∧ (s.AwaitsAdmin a 6 rec → StationParamsBad rec →
      exec (.stationSet rec) s = .next ((s.finishAccess a).completeAdmin (halfAt rec 2) .badParam (byteAt rec 4) 0))
    ∧ (s.AwaitsAdmin a 7 rec → LineStationBad rec →
      exec (.stationRead rec) s = .next ((s.finishAccess a).completeAdmin (halfAt rec 2) .badParam (byteAt rec 4) 0))
    ∧ (s.AwaitsAdmin a 8 rec → (byteAt rec 6).toNat = 0 ∨ 8 < (byteAt rec 6).toNat →
      exec (.cancel rec) s = .next ((s.finishAccess a).completeAdmin (halfAt rec 2) .badParam 0 0))
    ∧ (s.AwaitsAdmin a 9 rec → (byteAt rec 6).toNat = 0 ∨ 8 < (byteAt rec 6).toNat →
      exec (.queueResume rec) s = .next ((s.finishAccess a).completeAdmin (halfAt rec 2) .badParam 0 0))

/-- LINE_SETUP of a DISABLED line gives it the configuration R27 chooses, makes it IDLE with an empty transmit buffer, a
cleared counter, scheduler and exhausted flag and, in RUNNING, a fresh poll timer, and completes OK; on an enabled line it is
completed WRONG_STATE and changes nothing. -/
def Obligations.LineSetupEnablesLine : Prop :=
  ∀ (s : State) (n : LineNo) (a : Access) (rec : List Byte) (c : LineConfig), s.AwaitsAdmin a 1 rec →
    ¬ s.LineSetupBad rec → (byteAt rec 1).toNat = n.val → c.rate.map Fin.val = some (byteAt rec 18).toNat →
    c.bufferSize = some (byteAt rec 19).toNat →
    (c.guardChars, c.gapLimit, c.jamLimit, c.pollInterval, c.slowDivisor, c.querySpacing)
      = (if (byteAt rec 5).getLsbD 0 then (3, 4, 500, 100, 8, 50)
        else ((byteAt rec 20).toNat, (byteAt rec 21).toNat, (halfAt rec 22).toNat, (halfAt rec 24).toNat,
          (byteAt rec 26).toNat, (halfAt rec 28).toNat)) →
    ((s.line n).state = .disabled →
      exec (.lineSetup rec) s = .next ((((s.finishAccess a).onLine n fun l => { l with
          config := c, state := .idle, txBuf := [], streak := 0
          sched := ⟨none, none, none, .start, if s.control.device = .running then some (s.now + c.pollInterval) else none,
            false, 0, false, none⟩
          buf := { l.buf with exhausted := false } }).completeAdmin (halfAt rec 2) .ok 0 0).settleHeld n))
    ∧ ((s.line n).state ≠ .disabled →
      exec (.lineSetup rec) s = .next ((s.finishAccess a).completeAdmin (halfAt rec 2) .wrongState 0 0))

/-- LINE_DISABLE: on a DISABLED line WRONG_STATE. Otherwise the fetch and the descriptor read in flight are overtaken; with a
turn in flight it then waits. With no turn in flight, a retry pending is given up, its slot ABORTED, its entry reported; the
listed WAITING and ANSWERING slots become DONE with ABORTED in the order of the station ring and then the broadcast list,
unless the answer deadline of the head behind the retry of a SYNC has passed, which decides it ANSWER_TIMEOUT; the entries
take the resynchronising values, scheduler and transmit buffer are cleared, and it goes on, waiting for exactly the slots it
made DONE with ABORTED. With no turn left and neither a fetch nor a descriptor read in flight the cache is emptied and the
line becomes DISABLED with DE released and its receiver stopped; before that LINE_DISABLE_COMPLETE changes nothing; and the
completion is composed once every slot it waits for has entered the queue. (That the completion command acts in two stages,
and which slots are waited for, is the model's choice: log entries 13 and 23; that it changes nothing before its time: log entry
1; that the entries take those values as soon as no turn is in flight, and not when the line becomes DISABLED: log entry 30; the
receiver's value: log entry 24. That giving up a SYNC's retry decides a passed answer deadline, and that no list is
flushed, is deduced: log entry 10.) -/
def Obligations.LineDisableTakesLineOff : Prop :=
  (∀ (s : State) (n : LineNo) (a : Access) (rec : List Byte), s.AwaitsAdmin a 2 rec → (byteAt rec 1).toNat = n.val →
      ((s.line n).state = .disabled →
        exec (.lineDisable rec) s = .next ((s.finishAccess a).completeAdmin (halfAt rec 2) .wrongState 0 0))
      ∧ (∀ x, (s.line n).state = .turn x → (s.line n).sched.retry = none →
        exec (.lineDisable rec) s = .next { (s.finishAccess a).onLine n fun l => { l with
              fetch := l.fetch.map fun f => { f with overtaken := true }
              buf := { l.buf with reading := l.buf.reading.map fun _ => true } } with
            admin := { s.admin with work := .disabling (halfAt rec 2) n false .ok [] } })
      ∧ ∀ (listed first : List SlotNo), (s.line n).state = .idle ∨ (s.line n).state = .jammed →
        listed = (s.ring n).flatMap Station.pending ++ (s.line n).pool.broadcast →
        (first = match (s.line n).sched.retry with
          | some x => x.slot.toList.filter fun k => match s.request? n k with
            | some r => decide (r.state ≠ .done)
            | none => false
          | none => []) →
        ∃ t made, exec (.lineDisable rec) s = .next t
          ∧ t.admin = { s.admin with work := .disabling (halfAt rec 2) n true .ok made }
          ∧ (∀ k, k ∈ made ↔ (∃ r, s.request? n k = some r ∧ r.state ≠ .done)
              ∧ ∃ q, t.request? n k = some q ∧ q.state = .done ∧ q.outcome = some .aborted)
          ∧ (∀ k ∈ listed, s.slotIs n k .waiting = true ∨ s.slotIs n k .answering = true →
              (s.control.device = .running → ∀ x, (s.line n).sched.retry = some x → x.slot = some k
                ∨ (∀ e ∈ s.ring n, k ∈ e.pending → x.station ≠ some e.address)
                ∨ ∀ r d, s.request? n k = some r → r.state = .answering → r.answerDeadline = some d → s.now < d) →
              ∃ q, t.request? n k = some q ∧ q.state = .done ∧ q.outcome = some .aborted)
          ∧ (∀ x b e k rest r d, s.control.device = .running → (s.line n).sched.retry = some x → x.slot = none →
              x.station = some b → s.station? n b = some e → e.pending = k :: rest → s.request? n k = some r →
              r.state = .answering → r.answerDeadline = some d → d ≤ s.now →
              ∃ q, t.request? n k = some q ∧ q.state = .done ∧ q.outcome = some .answerTimeout)
          ∧ (listed.Nodup → (∀ k r d, (s.line n).sched.retry.isSome = true → s.control.device = .running →
              s.request? n k = some r → r.state = .answering → r.answerDeadline = some d → s.now < d ∨ k ∈ first) →
              made = first ++ listed.filter (fun k =>
                !first.contains k && (s.slotIs n k .waiting || s.slotIs n k .answering))
              ∧ (t.line n).pool.doneOrder = (s.line n).pool.doneOrder ++ made)
          ∧ (t.line n).fetch = (s.line n).fetch.map (fun f => { f with overtaken := true })
          ∧ (t.line n).buf.reading = (s.line n).buf.reading.map (fun _ => true)
          ∧ t.ring n = (s.ring n).map (fun e => { e with
              liveness := .unknown, outOfStep := true, detachPending := false, txSeq := 0, rxExpect := 0, lastAck := none
              missCount := 0, holdoff := none, pending := [] })
          ∧ (t.line n).sched = ⟨none, none, none, .start, none, false, 0, false, none⟩ ∧ (t.line n).txBuf = []
          ∧ (t.line n).state = (s.line n).state ∧ (t.line n).config = (s.line n).config
          ∧ (t.line n).buf.cache = (s.line n).buf.cache ∧ (t.line n).post.queue = (s.line n).post.queue
          ∧ (∀ x k r, (s.line n).sched.retry = some x → x.slot = some k → s.request? n k = some r → r.state ≠ .done →
              ∃ q, t.request? n k = some q ∧ q.state = .done ∧ q.outcome = some .aborted
                ∧ q.deliveryUnknown = (r.deliveryUnknown || decide (x.frame = .select)))
          ∧ ((s.line n).sched.retry = none → t.events = s.events)
          ∧ (∀ x b e, (s.line n).sched.retry = some x → x.station = some b → s.station? n b = some e →
              (x.sent = true ∧ (x.frame = .select ∨ x.frame = .reset) ∧ e.liveness ≠ .offline ∧ e.outOfStep = false →
                t.events = (s.offer ⟨.stationOutOfStep, BitVec.ofNat 8 n.val, b, 512, 0, false⟩).events)
              ∧ (¬ (x.sent = true ∧ (x.frame = .select ∨ x.frame = .reset) ∧ e.liveness ≠ .offline ∧ e.outOfStep = false) →
                t.events = s.events))
          ∧ t.control = s.control ∧ t.sq = s.sq ∧ t.cq = s.cq ∧ t.bq = s.bq ∧ t.er = s.er
          ∧ State.OthersKept n s t)
  ∧ (∀ (s : State) (n : LineNo) (tag : Half) (st : AdminStatus) (made : List SlotNo), s.active = true →
      s.admin.work = .disabling tag n true st made → (s.line n).fetch = none → (s.line n).buf.reading = none →
      ((∀ k ∈ made, k ∉ (s.line n).pool.doneOrder) →
        exec .lineDisableComplete s = .next ((s.onLine n fun l => { l with
          state := .disabled, de := false, rx := ⟨true, .idle⟩
          buf := { l.buf with cache := [], reserved := false } }).completeAdmin tag st 0 0))
      ∧ ((∃ k ∈ made, k ∈ (s.line n).pool.doneOrder) →
        exec .lineDisableComplete s = .next (s.onLine n fun l => { l with
          state := .disabled, de := false, rx := ⟨true, .idle⟩, buf := { l.buf with cache := [], reserved := false } })))
  ∧ (∀ (s : State) (n : LineNo) (tag : Half) (ended : Bool) (st : AdminStatus) (made : List SlotNo),
      s.admin.work = .disabling tag n ended st made →
      ended = false ∨ ((s.line n).state ≠ .disabled ∧ ((s.line n).fetch ≠ none ∨ (s.line n).buf.reading ≠ none)) →
      exec .lineDisableComplete s = .next s)

/-- LINE_RESET: on a DISABLED line WRONG_STATE. Otherwise the turn in flight is abandoned and DE released, the line is IDLE
with its scheduler, counter and transmit buffer cleared, the fetch in flight is overtaken, the turn's waiting accesses are
withdrawn, and the entries take the resynchronising values. The slot of the abandoned exchange and then every listed WAITING
or ANSWERING slot become DONE with ABORTED, in the order of the station ring and then the broadcast list, behind those DONE
before: exactly these it waits for. The queue, the rings and the configuration are kept, and the cache too, but on a device in
STOPPING with no descriptor read in flight, where it is emptied. It completes with OK, in RUNNING with a fresh poll timer,
when no slot of the line is set aside, WAITING, ACTIVE or ANSWERING and every slot it waits for has entered the queue; before
that LINE_RESET_COMPLETE changes nothing. An access of the abandoned turn that waits is withdrawn, and one in flight is marked
abandoned (when a LINE_RESET is executed its own SQ0 read has just completed, and none is in flight). (The model's choices: the
line is IDLE from the take, log entry 20; LINE_RESET_COMPLETE before its time, log entry 1.) -/
def Obligations.LineResetEndsEveryRequest : Prop :=
  (∀ (s : State) (n : LineNo) (a : Access) (rec : List Byte), s.AwaitsAdmin a 3 rec → (byteAt rec 1).toNat = n.val →
      ((s.line n).state = .disabled →
        exec (.lineReset rec) s = .next ((s.finishAccess a).completeAdmin (halfAt rec 2) .wrongState 0 0))
      ∧ ∀ (listed first : List SlotNo), (s.line n).state ≠ .disabled →
        listed = (s.ring n).flatMap Station.pending ++ (s.line n).pool.broadcast →
        (first = match (s.line n).exchange? with
          | some x => x.slot.toList.filter fun k => s.slotIs n k .active || s.slotIs n k .answering
          | none => []) →
        ∃ t made, exec (.lineReset rec) s = .next t
          ∧ t.admin = { s.admin with work := .resetting (halfAt rec 2) n made }
          ∧ (t.line n).pool.doneOrder = (s.line n).pool.doneOrder ++ made
          ∧ (∀ k, k ∈ made ↔ (∃ r, s.request? n k = some r ∧ r.state ≠ .done)
              ∧ ∃ q, t.request? n k = some q ∧ q.state = .done ∧ q.outcome = some .aborted)
          ∧ (listed.Nodup → made = first ++ listed.filter (fun k =>
              !first.contains k && (s.slotIs n k .waiting || s.slotIs n k .answering)))
          ∧ (t.line n).state = .idle ∧ (t.line n).de = false ∧ (t.line n).txBuf = [] ∧ (t.line n).streak = 0
          ∧ (t.line n).sched = ⟨none, none, none, .start, none, false, 0, false, none⟩
          ∧ (t.line n).fetch = (s.line n).fetch.map (fun f => { f with overtaken := true })
          ∧ (t.line n).config = (s.line n).config
          ∧ (s.control.device = .running ∨ (s.line n).buf.reading ≠ none →
              (t.line n).buf = { (s.line n).buf with reserved := false })
          ∧ (s.control.device = .stopping → (s.line n).buf.reading = none →
              (t.line n).buf = { (s.line n).buf with cache := [], reserved := false })
          ∧ (t.line n).post.queue = (s.line n).post.queue ∧ (t.line n).post.reservation = false
          ∧ (t.line n).post.writing = (s.line n).post.writing
          ∧ t.port = { s.port with
              inFlight := none
              waiting := s.port.waiting.filter (fun b => b.kind ≠ .payloadRead n ∧ b.kind ≠ .bufferWrite n
                ∧ b.kind ≠ .answerWrite n) }
          ∧ t.ring n = (s.ring n).map (fun e => { e with
              liveness := .unknown, outOfStep := true, detachPending := false, txSeq := 0, rxExpect := 0, lastAck := none
              missCount := 0, holdoff := none, pending := [] })
          ∧ (∀ k ∈ listed, s.slotIs n k .waiting = true ∨ s.slotIs n k .answering = true →
                ∃ q, t.request? n k = some q ∧ q.state = .done ∧ q.outcome = some .aborted)
          ∧ (∀ x k r, (s.line n).exchange? = some x → x.slot = some k → s.request? n k = some r →
              r.state = .active ∨ r.state = .answering →
              ∃ q, t.request? n k = some q ∧ q.state = .done ∧ q.outcome = some .aborted
                ∧ q.deliveryUnknown = (r.deliveryUnknown
                    || (x.sent && (decide (x.frame = .select) || decide (x.frame = .broadcast)))))
          ∧ ((s.line n).exchange? = none → t.events = s.events)
          ∧ (∀ x b e, (s.line n).exchange? = some x → x.station = some b → s.station? n b = some e →
              (x.sent = true ∧ (x.frame = .select ∨ x.frame = .reset) ∧ e.liveness ≠ .offline ∧ e.outOfStep = false →
                t.events = (s.offer ⟨.stationOutOfStep, BitVec.ofNat 8 n.val, b, 512, 0, false⟩).events)
              ∧ (¬ (x.sent = true ∧ (x.frame = .select ∨ x.frame = .reset) ∧ e.liveness ≠ .offline ∧ e.outOfStep = false) →
                t.events = s.events))
          ∧ t.control = s.control ∧ t.sq = s.sq ∧ t.cq = s.cq ∧ t.bq = s.bq ∧ t.er = s.er ∧ State.OthersKept n s t)
  ∧ (∀ (s : State) (n : LineNo) (tag : Half) (made : List SlotNo), s.admin.work = .resetting tag n made →
      (∀ k : SlotNo, (s.line n).pool.slots[k] = .free ∨ ∃ r, (s.line n).pool.slots[k] = .held r ∧ r.state = .done) →
      (∀ k ∈ made, k ∉ (s.line n).pool.doneOrder) →
      (s.control.device = .running →
        exec .lineResetComplete s = .next (((s.onLine n fun l => { l with
          sched := { l.sched with pollTimer := some (s.now + l.config.pollInterval) } }).completeAdmin tag .ok 0 0).settleHeld
            n))
      ∧ (s.control.device = .stopping →
        exec .lineResetComplete s = .next ((s.completeAdmin tag .ok 0 0).settleHeld n)))
  ∧ (∀ (s : State) (n : LineNo) (tag : Half) (made : List SlotNo), s.admin.work = .resetting tag n made →
      (∃ k ∈ made, k ∈ (s.line n).pool.doneOrder)
        ∨ (∃ k : SlotNo, (s.line n).pool.slots[k] = .setAside
            ∨ ∃ r, (s.line n).pool.slots[k] = .held r ∧ r.state ≠ .done) →
      exec .lineResetComplete s = .next s)
  ∧ ∀ (p : HostPort) (a : Access) (n : LineNo), p.inFlight = some a →
      (a.kind = .payloadRead n ∨ a.kind = .bufferWrite n ∨ a.kind = .answerWrite n →
        (p.abandon (turnAccess n)).inFlight = some { a with abandoned := true })
      ∧ (a.kind ≠ .payloadRead n → a.kind ≠ .bufferWrite n → a.kind ≠ .answerWrite n →
        (p.abandon (turnAccess n)).inFlight = some a)

/-- ATTACH: DUPLICATE when the line has an entry with the address, else TABLE_FULL when 64 entries exist, else a new entry
with the values R74 lists at the end of the table, which keeps the order of every line's station ring, and OK. -/
def Obligations.AttachAddsEntry : Prop :=
  ∀ (s : State) (n : LineNo) (a : Access) (rec : List Byte), s.AwaitsAdmin a 4 rec → ¬ StationParamsBad rec →
    (byteAt rec 1).toNat = n.val →
    ((s.station? n (byteAt rec 4)).isSome = true →
      exec (.attach rec) s = .next ((s.finishAccess a).completeAdmin (halfAt rec 2) .duplicate (byteAt rec 4) 0))
    ∧ (s.station? n (byteAt rec 4) = none → 64 ≤ s.stations.length →
      exec (.attach rec) s = .next ((s.finishAccess a).completeAdmin (halfAt rec 2) .tableFull (byteAt rec 4) 0))
    ∧ (∀ e : Station, s.station? n (byteAt rec 4) = none → s.stations.length < 64 →
      e = ⟨n, byteAt rec 4, .unknown, true, false, 0, 0, none, 0,
        if (byteAt rec 5).getLsbD 0 then 200 else (halfAt rec 18).toNat,
        if (byteAt rec 5).getLsbD 0 then 3 else (byteAt rec 20).toNat,
        if (byteAt rec 5).getLsbD 0 then 3 else (byteAt rec 21).toNat,
        if (byteAt rec 5).getLsbD 0 then 100 else (halfAt rec 22).toNat,
        if (byteAt rec 5).getLsbD 0 then 8 else (byteAt rec 24).toNat, none, [], 0, 0, 0⟩ →
      exec (.attach rec) s = .next (({ s.finishAccess a with stations := s.stations ++ [e] }.completeAdmin
        (halfAt rec 2) .ok (byteAt rec 4) 0).settleHeld n))

/-- DETACH: NOT_FOUND without the entry; with a turn to the station in flight detach_pending is set and the DETACH waits.
Otherwise the entry leaves the table, the other entries keep their order, and the completion OK is composed. A retry to the
station that is pending is given up, its slot DONE with DETACHED, delivery_unknown set after a SELECT, and its buffer
released; an ANSWERING head whose answer deadline has passed while the retry of a SYNC was pending is DONE with
ANSWER_TIMEOUT; every other listed slot becomes DONE with DETACHED. They join the DONE order so, the retry's slot first, then
the list in its order. A cursor that names the entry moves to the entry before it, or to start. No event is raised. A retry to
another station stays pending. (That giving up a SYNC's retry decides a passed answer deadline is deduced: log entry 10; when
LINE_HELD may follow is the model's choice: log entry 2.) -/
def Obligations.DetachFreesEntry : Prop :=
  ∀ (s : State) (n : LineNo) (a : Access) (rec : List Byte), s.AwaitsAdmin a 5 rec → ¬ LineStationBad rec →
    (byteAt rec 1).toNat = n.val →
    (s.station? n (byteAt rec 4) = none →
      exec (.detach rec) s = .next ((s.finishAccess a).completeAdmin (halfAt rec 2) .notFound (byteAt rec 4) 0))
    ∧ (∀ e x, s.station? n (byteAt rec 4) = some e → (s.line n).state = .turn x →
      x.exch.station = some (byteAt rec 4) →
      exec (.detach rec) s = .next { s.finishAccess a with
        stations := s.stations.map fun y => if y.line = n ∧ y.address = byteAt rec 4 then { y with detachPending := true } else y
        admin := { s.admin with work := .detaching (halfAt rec 2) n (byteAt rec 4) } })
    ∧ (∀ e, s.station? n (byteAt rec 4) = some e →
      (∀ x, (s.line n).state = .turn x → x.exch.station ≠ some (byteAt rec 4)) →
      ∃ t, exec (.detach rec) s = .next t
        ∧ t.station? n (byteAt rec 4) = none
        ∧ t.admin.work = .completing ⟨1, 0, halfAt rec 2, 0, byteAt rec 4, false, false, false, 0, 0⟩
        ∧ ((∀ x, (s.line n).sched.retry = some x → x.station ≠ some (byteAt rec 4)) →
          (t.line n).sched.retry = (s.line n).sched.retry)
        ∧ (∀ k ∈ e.pending, ∀ r, s.request? n k = some r → r.state ≠ .done →
          (∀ x, (s.line n).sched.retry = some x → x.station = some (byteAt rec 4) → x.slot ≠ some k
            ∧ (s.control.device = .running → r.state = .answering → ∀ d, r.answerDeadline = some d → s.now < d)) →
          t.request? n k = some { r with
            state := .done, outcome := some .detached, cancelMark := false, answerDeadline := none, queryPollDue := none })
        ∧ (∀ x k rest r d, s.control.device = .running → (s.line n).sched.retry = some x → x.slot = none →
          x.station = some (byteAt rec 4) → e.pending = k :: rest → s.request? n k = some r → r.state = .answering →
          r.answerDeadline = some d → d ≤ s.now → t.request? n k = some { r with
            state := .done, outcome := some .answerTimeout, cancelMark := false, answerDeadline := none
            queryPollDue := none })
        ∧ (∀ x, (s.line n).sched.retry = some x → x.station = some (byteAt rec 4) →
          (t.line n).sched.retry = none ∧ (t.line n).buf.reserved = false
          ∧ ∀ k r, x.slot = some k → s.request? n k = some r → r.state ≠ .done → t.request? n k = some { r with
              state := .done, outcome := some .detached, cancelMark := false, answerDeadline := none, queryPollDue := none
              deliveryUnknown := r.deliveryUnknown || decide (x.frame = .select) })
        ∧ (∀ first : List SlotNo, e.pending.Nodup →
          (first = match (s.line n).sched.retry with
            | some x => if x.station = some (byteAt rec 4) then
                x.slot.toList.filter fun k => match s.request? n k with
                  | some r => decide (r.state ≠ .done)
                  | none => false
                else []
            | none => []) →
          (t.line n).pool.doneOrder = (s.line n).pool.doneOrder ++ first ++ e.pending.filter fun k =>
            !first.contains k && match s.request? n k with
              | some r => decide (r.state ≠ .done)
              | none => false)
        ∧ (∀ (pre post : List Station) (y : Station) (prev : Option Byte) (moved : Option Byte → Option Byte),
          s.ring n = pre ++ y :: post → y.address = byteAt rec 4 → (∀ z ∈ pre, z.address ≠ byteAt rec 4) →
          prev = pre.getLast?.map Station.address →
          (moved = fun cur => if cur = some (byteAt rec 4) then prev else cur) →
          (t.line n).sched = { (s.line n).sched with
            retry := (t.line n).sched.retry
            syncCursor := moved (s.line n).sched.syncCursor, pollCursor := moved (s.line n).sched.pollCursor
            slowCursor := moved (s.line n).sched.slowCursor
            requestCursor := if (s.line n).sched.requestCursor = .station (byteAt rec 4) then
                match prev with
                | some b => .station b
                | none => .start
              else (s.line n).sched.requestCursor })
        ∧ State.Offered n [] s t
        ∧ (t.ring n).map Station.address
            = ((s.ring n).map Station.address).filter (fun b => decide (b ≠ byteAt rec 4))
        ∧ t.control = s.control ∧ t.sq = s.sq ∧ t.cq = s.cq ∧ t.bq = s.bq ∧ t.er = s.er ∧ State.OthersKept n s t)

/-- STATION_SET and STATION_READ: NOT_FOUND without the entry. STATION_SET gives the entry's five parameters the values R27
chooses, keeps every other field, and completes OK. STATION_READ asks for the write of the entry's snapshot at the host area
address, the three counters being returned to 0 at the same moment when the clear flag is set; when that write completes the
request is completed OK with length 32. -/
def Obligations.StationSetAndRead : Prop :=
  (∀ (s : State) (n : LineNo) (a : Access) (rec : List Byte), s.AwaitsAdmin a 6 rec → ¬ StationParamsBad rec →
      (byteAt rec 1).toNat = n.val →
      (s.station? n (byteAt rec 4) = none →
        exec (.stationSet rec) s = .next ((s.finishAccess a).completeAdmin (halfAt rec 2) .notFound (byteAt rec 4) 0))
      ∧ ((s.station? n (byteAt rec 4)).isSome = true →
        exec (.stationSet rec) s = .next (((s.finishAccess a).onStation n (byteAt rec 4) fun e => { e with
          replyTimeout := if (byteAt rec 5).getLsbD 0 then 200 else (halfAt rec 18).toNat
          retryLimit := if (byteAt rec 5).getLsbD 0 then 3 else (byteAt rec 20).toNat
          missLimit := if (byteAt rec 5).getLsbD 0 then 3 else (byteAt rec 21).toNat
          busyHoldoff := if (byteAt rec 5).getLsbD 0 then 100 else (halfAt rec 22).toNat
          busyLimit := if (byteAt rec 5).getLsbD 0 then 8 else (byteAt rec 24).toNat }).completeAdmin
            (halfAt rec 2) .ok (byteAt rec 4) 0)))
  ∧ (∀ (s : State) (n : LineNo) (a : Access) (rec : List Byte),
      (s.AwaitsAdmin a 7 rec → ¬ LineStationBad rec → (byteAt rec 1).toNat = n.val →
        (s.station? n (byteAt rec 4) = none →
          exec (.stationRead rec) s = .next ((s.finishAccess a).completeAdmin (halfAt rec 2) .notFound (byteAt rec 4) 0))
        ∧ ∀ e, s.station? n (byteAt rec 4) = some e →
          exec (.stationRead rec) s = .next { s.finishAccess a with
            stations := if (byteAt rec 5).getLsbD 1 then s.stations.map fun y =>
                if y.line = n ∧ y.address = byteAt rec 4 then { y with exchanges := 0, failedTurns := 0, protocolErrors := 0 }
                else y
              else s.stations
            admin := { s.admin with work := .snapshot (halfAt rec 2) (byteAt rec 4) }
            port := { (s.finishAccess a).port with waiting := s.port.waiting
              ++ [⟨.snapshotWrite, addrAt rec 8, (e.snapshot s.now).length, e.snapshot s.now, false⟩] } })
      ∧ ∀ tag station, s.Awaits .snapshotWrite a → s.admin.work = .snapshot tag station →
        exec .snapshotWriteDone s = .next ((s.finishAccess a).completeAdmin tag .ok station 32))

/-- CANCEL searches the target ring's line for a request of that ring and tag. None: NOT_FOUND. Only DONE ones: TOO_LATE. The
one not DONE that was taken earliest: a WAITING one, or an ANSWERING one whose answer is not being written, becomes DONE with
CANCELLED and the CANCEL completes OK; so does one whose exchange has a retry pending, which is given up, delivery_unknown
being set after a SELECT and its entry left out of step, STATION_OUT_OF_STEP with 512 offered, if the exchange had sent a
SELECT or a RESET and the entry is not OFFLINE; an ACTIVE one whose turn is in flight, or one whose answer is being written,
is marked and the CANCEL waits. When a request of an OFFLINE entry is cancelled so, the SENDs and QUERYs at the head of what
is left become DONE with OFFLINE, in list order, up to the first RESYNC. Other requests stay, but that the ANSWERING head of
the station of a retry given up is settled as at an exchange's end (deduced: log entry 10; when LINE_HELD may follow is the
model's choice, log entry 2). -/
def Obligations.CancelEndsOneRequest : Prop :=
  ∀ (s : State) (n : LineNo) (a : Access) (rec : List Byte) (matches? : Request → Bool), s.AwaitsAdmin a 8 rec →
    1 ≤ (byteAt rec 6).toNat → (byteAt rec 6).toNat ≤ 8 → ((byteAt rec 6).toNat - 1) / 2 = n.val →
    (matches? = fun r => decide (r.urgent = decide ((byteAt rec 6).toNat % 2 = 1)) && decide (r.tag = halfAt rec 16)) →
    ((∀ k r, s.request? n k = some r → matches? r = false) →
      exec (.cancel rec) s = .next ((s.finishAccess a).completeAdmin (halfAt rec 2) .notFound 0 0))
    ∧ ((∃ k r, s.request? n k = some r ∧ matches? r = true) →
      (∀ k r, s.request? n k = some r → matches? r = true → r.state = .done) →
      exec (.cancel rec) s = .next ((s.finishAccess a).completeAdmin (halfAt rec 2) .tooLate 0 0))
    ∧ ∀ k r, s.request? n k = some r → matches? r = true → r.state ≠ .done →
      (∀ j q, s.request? n j = some q → matches? q = true → q.state ≠ .done → j ≠ k → r.takeNo < q.takeNo) →
      ((r.state = .active ∧ (s.line n).retryServes k = false) ∨ (r.state = .answering ∧ (s.line n).storesAnswerOf k = true) →
        exec (.cancel rec) s = .next { (s.finishAccess a).onRequest n k fun q => { q with cancelMark := true } with
          admin := { s.admin with work := .cancelling (halfAt rec 2) n k } })
      ∧ (r.state = .waiting ∨ (r.state = .answering ∧ (s.line n).storesAnswerOf k = false) →
        (s.line n).retryServes k = false →
        ∃ t, exec (.cancel rec) s = .next t
          ∧ t.request? n k = some { r with
              state := .done, outcome := some .cancelled, cancelMark := false, answerDeadline := none, queryPollDue := none }
          ∧ k ∈ (t.line n).pool.doneOrder ∧ k ∉ (t.line n).pool.broadcast ∧ (∀ e ∈ t.ring n, k ∉ e.pending)
          ∧ State.Offered n [] s t
          ∧ ((∀ e, s.station? n r.station = some e → e.liveness ≠ .offline) → State.SlotsKept n k s t
            ∧ (t.line n).pool.doneOrder = (s.line n).pool.doneOrder ++ [k])
          ∧ State.FlushedBehind n r.station k s t
          ∧ t.admin.work = .completing ⟨1, 0, halfAt rec 2, 0, 0, false, false, false, 0, 0⟩
          ∧ t.control = s.control ∧ t.sq = s.sq ∧ t.cq = s.cq ∧ t.bq = s.bq ∧ t.er = s.er
          ∧ (t.line n).state = (s.line n).state ∧ State.OthersKept n s t)
      ∧ (∀ x, (s.line n).sched.retry = some x → x.slot = some k →
        r.state = .active ∨ (r.state = .answering ∧ (s.line n).storesAnswerOf k = false) →
        ∃ t, exec (.cancel rec) s = .next t
          ∧ t.request? n k = some { r with
              state := .done, outcome := some .cancelled, cancelMark := false, answerDeadline := none, queryPollDue := none
              deliveryUnknown := r.deliveryUnknown || decide (x.frame = .select) }
          ∧ (t.line n).sched.retry = none ∧ (t.line n).buf.reserved = false
          ∧ (∀ e, x.station = some e.address → r.station = e.address → s.station? n e.address = some e →
            (x.sent = true ∧ (x.frame = .select ∨ x.frame = .reset) ∧ e.liveness ≠ .offline ∧ e.outOfStep = false →
              (∃ p, t.station? n e.address = some { e with outOfStep := true, pending := p })
              ∧ State.Offered n [⟨.stationOutOfStep, BitVec.ofNat 8 n.val, e.address, 512, 0, false⟩] s t)
            ∧ (¬ (x.sent = true ∧ (x.frame = .select ∨ x.frame = .reset) ∧ e.liveness ≠ .offline ∧ e.outOfStep = false) →
              (∃ p, t.station? n e.address = some { e with pending := p }) ∧ State.Offered n [] s t)
            ∧ (e.liveness ≠ .offline → State.RequestsKept n (some k) s t
              ∧ (s.control.device = .running → State.HeadSettled n e (some k) true s t))
            ∧ State.FlushedBehind n e.address k s t)
          ∧ t.admin.work = .completing ⟨1, 0, halfAt rec 2, 0, 0, false, false, false, 0, 0⟩
          ∧ t.control = s.control ∧ t.sq = s.sq ∧ t.cq = s.cq ∧ t.bq = s.bq ∧ t.er = s.er
          ∧ (t.line n).state = (s.line n).state ∧ State.OthersKept n s t)

/-- QUEUE_RESUME of ring 1..8: a HALTED ring becomes ACTIVE, with its indices kept, and the status is OK; an ACTIVE or ABSENT
ring is left and the status is WRONG_STATE. Target 0 and targets above 8 are completed BAD_PARAM and change nothing. -/
def Obligations.QueueResumeReactivates : Prop :=
  ∀ (s : State) (k : Fin 9) (a : Access) (rec : List Byte), s.AwaitsAdmin a 9 rec →
    (1 ≤ k.val → (byteAt rec 6).toNat = k.val → (s.sqRing k).state = .halted →
      exec (.queueResume rec) s = .next (((s.finishAccess a).setSq k { s.sqRing k with state := .active }).completeAdmin
        (halfAt rec 2) .ok 0 0))
    ∧ (1 ≤ k.val → (byteAt rec 6).toNat = k.val → (s.sqRing k).state = .active ∨ (s.sqRing k).state = .absent →
      exec (.queueResume rec) s = .next ((s.finishAccess a).completeAdmin (halfAt rec 2) .wrongState 0 0))
    ∧ ((byteAt rec 6).toNat = 0 ∨ 8 < (byteAt rec 6).toNat →
      exec (.queueResume rec) s = .next ((s.finishAccess a).completeAdmin (halfAt rec 2) .badParam 0 0))

/-! ### Buffers and the choice of a turn -/

/-- The Buffer Unit claims a descriptor when the rule's conditions hold: c advances and the 16-byte read is asked for. The
descriptor read joins the end of the cache unless STOP or LINE_DISABLE overtook it, when it is discarded; in STOPPING the
cache is then emptied if no turn is in flight, and otherwise kept to the turn's end. -/
def Obligations.DescriptorsFillTheCache : Prop :=
  (∀ (s : State) (n : LineNo), s.control.device = .running → (s.line n).state ≠ .disabled → s.disabling n = false →
    1 ≤ (s.bqRing n).available → (s.line n).buf.cache.length < 4 → (s.line n).buf.reading = none →
    exec (.descriptorClaim n) s = .next
      { (s.setBq n { s.bqRing n with c := ((s.bqRing n).c + 1) % (s.bqRing n).count }).onLine n
          (fun l => { l with buf := { l.buf with reading := some false } }) with
        port := { s.port with waiting := s.port.waiting
          ++ [⟨.descriptorRead n, (s.bqRing n).base + BitVec.ofNat 64 (16 * (s.bqRing n).c), 16, [], false⟩] } })
  ∧ ∀ (s : State) (n : LineNo) (a : Access) (rec : List Byte) (overtaken : Bool), s.Awaits (.descriptorRead n) a →
    rec.length = 16 → (s.line n).buf.reading = some overtaken →
    (s.control.device = .running →
      exec (.descriptorReadDone rec) s = .next ((s.finishAccess a).onLine n fun l => { l with buf := { l.buf with
        reading := none
        cache := if overtaken then l.buf.cache else l.buf.cache ++ [⟨addrAt rec 0, halfAt rec 8⟩] } }))
    ∧ (s.control.device = .stopping → (s.line n).turn? = none →
      exec (.descriptorReadDone rec) s = .next ((s.finishAccess a).onLine n fun l => { l with buf := { l.buf with
        reading := none, cache := [], reserved := false } }))
    ∧ (s.control.device = .stopping → (s.line n).turn?.isSome = true → overtaken = true →
      exec (.descriptorReadDone rec) s = .next ((s.finishAccess a).onLine n fun l => { l with buf := { l.buf with
        reading := none } }))

/-- The walk to the next member of a view after a cursor, and the conditions of the three views, of an eligible head and of a
QUERY-POLL. The walk from an entry goes round past the ring's last entry, that entry itself coming last. -/
def Obligations.WalksAndViews : Prop :=
  (∀ (view : Station → Bool) (ring : List Station), nextMember none view ring = (ring.find? view).map fun e => (e, false))
  ∧ (∀ (view : Station → Bool) (pre post : List Station) (c : Station), (∀ e ∈ pre, e.address ≠ c.address) →
      nextMember (some c.address) view (pre ++ c :: post)
        = ((post.find? view).map fun e => (e, false)).or (((pre ++ [c]).find? view).map fun e => (e, true)))
  ∧ ∀ e : Station,
    (e.inPollView = true ↔ (e.liveness = .online ∨ e.liveness = .suspect) ∧ e.outOfStep = false ∧ e.detachPending = false)
    ∧ (e.inSyncView = true ↔ e.liveness ≠ .offline ∧ e.outOfStep = true ∧ e.detachPending = false)
    ∧ (e.inSlowView = true ↔ e.liveness = .offline ∧ e.detachPending = false)
    ∧ ∀ (s : State) (n : LineNo) (k : SlotNo) (r : Request), s.head? n e = some (k, r) →
      (s.eligible? n e = some k ↔ r.state = .waiting ∧ e.detachPending = false ∧ e.holdoff = none
        ∧ ((e.liveness ≠ .offline ∧ e.outOfStep = false) ∨ (e.liveness = .offline ∧ r.kind = .resync)))
      ∧ (s.queryPollReady n e = true ↔ r.state = .answering ∧ (∃ d, r.queryPollDue = some d ∧ d ≤ s.now)
        ∧ e.outOfStep = false ∧ e.detachPending = false)

/-- A selection takes the first of six steps that finds a turn: SYNC, QUERY-POLL, a due POLL, REQUEST, SLOW with a credit,
POLL. The request rotation is the station ring followed by the broadcast position. When none finds a turn, nothing changes. -/
def Obligations.SelectionTakesFirstStep : Prop :=
  ∀ (s : State) (n : LineNo) (sync query poll slow : Option (Station × Bool)) (pick : List Station → Option Choice),
    nextMember (s.line n).sched.syncCursor Station.inSyncView (s.ring n) = sync →
    nextMember (s.line n).sched.requestCursor.place (s.queryPollReady n) (s.ring n) = query →
    nextMember (s.line n).sched.pollCursor Station.inPollView (s.ring n) = poll →
    nextMember (s.line n).sched.slowCursor Station.inSlowView (s.ring n) = slow →
    (pick = fun es => es.findSome? fun e => (s.eligible? n e).map fun k => Choice.request e k) →
    s.choose n = (sync.map fun p => Choice.sync p.1).or ((query.map fun p => Choice.queryPoll p.1).or
      (((if (s.line n).sched.pollDue then poll else none).map fun p => Choice.poll p.1 true p.2).or
        ((s.chooseRequest n).or (((if (s.line n).sched.credit then slow else none).map fun p => Choice.slow p.1).or
          (poll.map fun p => Choice.poll p.1 false p.2)))))
    ∧ ((s.line n).sched.requestCursor = .start ∨ (s.line n).sched.requestCursor = .broadcast →
      s.chooseRequest n = (pick (s.ring n)).or ((s.broadcastHead? n).map Choice.broadcast))
    ∧ (∀ pre c post, s.ring n = pre ++ c :: post → (∀ e ∈ pre, e.address ≠ c.address) →
      (s.line n).sched.requestCursor = .station c.address →
      s.chooseRequest n = (pick post).or (((s.broadcastHead? n).map Choice.broadcast).or (pick (pre ++ [c]))))
    ∧ (s.choose n = none → exec (.turnSelection n) s = .next s)

/-! ### Turns -/

/-- SYNC, SLOW and POLL turns start in GUARD with a posting place reserved, the frame's header fixed and the scheduler's
cursor, poll_due, wrap and credit changed as Figure 5-4 gives. A POLL to an ANSWERING head carries READY for that slot; else
it reserves the oldest cached descriptor and carries READY, or goes without READY and sets the exhausted flag, whose onset
offers BUFFERS_EXHAUSTED. (Durations in whole time units: the model's choice, log entry 3.) -/
def Obligations.ResetAndPollTurnsStart : Prop :=
  ∀ (s : State) (n : LineNo) (e : Station) (guard : Exchange → Turn), s.CanStartTurn n →
    (s.line n).sched.retry = none →
    (guard = fun x => ⟨x, .guard,
      some (s.now + charUnits (s.line n).config.rate (s.line n).config.guardChars),
      some (s.now + (s.line n).config.jamLimit), none, none, none, [], none, none⟩) →
    (s.choose n = some (.sync e) →
      exec (.turnSelection n) s = .next (s.onLine n fun l => { l with
        state := .turn (guard ⟨.sync, some e.address, none, .reset, e.address, 0x30, 1, false⟩), txBuf := []
        sched := { l.sched with syncCursor := some e.address }, post := { l.post with reservation := true } }))
    ∧ (s.choose n = some (.slow e) →
      exec (.turnSelection n) s = .next (s.onLine n fun l => { l with
        state := .turn (guard ⟨.slow, some e.address, none, .reset, e.address, 0x30, 1, false⟩), txBuf := []
        sched := { l.sched with slowCursor := some e.address, credit := false }
        post := { l.post with reservation := true } }))
    ∧ ∀ (kind : TurnKind) (sc : Scheduler) (ack : Byte) (started : Option SlotNo → Byte → BufferUnit → State),
      (s.choose n = some (.queryPoll e) ∧ kind = .queryPoll ∧ sc = (s.line n).sched)
        ∨ (∃ due wrapped, s.choose n = some (.poll e due wrapped) ∧ kind = .poll ∧ sc = { (s.line n).sched with
            pollCursor := some e.address
            pollDue := (s.line n).sched.pollDue && !due
            wraps := if wrapped then
                (if (s.line n).config.slowDivisor ≤ (s.line n).sched.wraps + 1 then 0 else (s.line n).sched.wraps + 1)
              else (s.line n).sched.wraps
            credit := (s.line n).sched.credit
              || (wrapped && decide ((s.line n).config.slowDivisor ≤ (s.line n).sched.wraps + 1)) }) →
      (∀ q, e.lastAck = some q → ack = q.setWidth 8) → (e.lastAck = none → ack = 8) →
      (started = fun slot control buf => s.onLine n fun l => { l with
        state := .turn (guard ⟨kind, some e.address, slot, .poll, e.address, control, 1, false⟩), txBuf := [ack]
        sched := sc, buf := buf, post := { l.post with reservation := true } }) →
      (∀ k, s.answeringHead? n e = some k →
        exec (.turnSelection n) s = .next (started (some k) 0x18 (s.line n).buf))
      ∧ (s.answeringHead? n e = none → (s.line n).buf.cache ≠ [] →
        exec (.turnSelection n) s
          = .next (started none 0x18 { (s.line n).buf with reserved := true, exhausted := false }))
      ∧ (s.answeringHead? n e = none → (s.line n).buf.cache = [] → (s.line n).buf.exhausted = true →
        exec (.turnSelection n) s = .next (started none 0x10 { (s.line n).buf with reserved := false }))
      ∧ (s.answeringHead? n e = none → (s.line n).buf.cache = [] → (s.line n).buf.exhausted = false →
        exec (.turnSelection n) s
          = .next ((started none 0x10 { (s.line n).buf with reserved := false, exhausted := true }).offer
              ⟨.buffersExhausted, BitVec.ofNat 8 n.val, e.address, BitVec.ofNat 16 (s.bqRing n).available, 0, false⟩))

/-- A REQUEST turn makes the head slot ACTIVE, moves the request cursor and reserves a posting place. A SEND or QUERY begins
in LOAD with a SELECT that carries the entry's tx_seq, a BROADCAST in LOAD to address 127, both asking for the payload; a
RESYNC begins in GUARD with a RESET. (Durations in whole time units: the model's choice, log entry 3.) -/
def Obligations.RequestTurnsStart : Prop :=
  ∀ (s : State) (n : LineNo) (k : SlotNo) (r : Request) (load : Exchange → Turn), s.CanStartTurn n →
    (s.line n).sched.retry = none → s.request? n k = some r →
    (load = fun x => ⟨x, .load, none, none, none, none, none, [], none, none⟩) →
    (∀ e, s.choose n = some (.request e k) → r.kind ≠ .resync →
      exec (.turnSelection n) s = .next { s.onLine n (fun l => { l with
          state := .turn (load ⟨.request, some e.address, some k, .select, e.address, 0x2#4 ++ 0#1 ++ e.txSeq, 1, false⟩)
          pool := { l.pool with slots := l.pool.slots.set k (.held { r with state := .active }) }
          sched := { l.sched with requestCursor := .station e.address }
          post := { l.post with reservation := true } }) with
        port := { s.port with waiting := s.port.waiting
          ++ [⟨.payloadRead n, r.payloadAddr, r.payloadLen.toNat, [], false⟩] } })
    ∧ (∀ e, s.choose n = some (.request e k) → r.kind = .resync →
      exec (.turnSelection n) s = .next (s.onLine n fun l => { l with
        state := .turn ⟨⟨.request, some e.address, some k, .reset, e.address, 0x30, 1, false⟩, .guard,
          some (s.now + charUnits l.config.rate l.config.guardChars), some (s.now + l.config.jamLimit),
          none, none, none, [], none, none⟩
        txBuf := []
        pool := { l.pool with slots := l.pool.slots.set k (.held { r with state := .active }) }
        sched := { l.sched with requestCursor := .station e.address }
        post := { l.post with reservation := true } }))
    ∧ (s.choose n = some (.broadcast k) →
      exec (.turnSelection n) s = .next { s.onLine n (fun l => { l with
          state := .turn (load ⟨.request, none, some k, .broadcast, 127, 0x40, 1, false⟩)
          pool := { l.pool with slots := l.pool.slots.set k (.held { r with state := .active }) }
          sched := { l.sched with requestCursor := .broadcast }
          post := { l.post with reservation := true } }) with
        port := { s.port with waiting := s.port.waiting
          ++ [⟨.payloadRead n, r.payloadAddr, r.payloadLen.toNat, [], false⟩] } })

/-- A retry turn starts in GUARD with the frame still in the transmit buffer, counted in the exchange and in its slot's
retries. A completed payload read fills the transmit buffer and the turn goes from LOAD to GUARD with the quiet count and
the jam timer started. When the quiet count reaches the guard DE is asserted and the frame goes on the wire for as many
character times as it has characters. (Durations in whole time units: the model's choice, log entry 3.) -/
def Obligations.TurnReachesTheWire : Prop :=
  (∀ (s : State) (n : LineNo) (x : Exchange) (pool : Pool), s.CanStartTurn n → (s.line n).sched.retry = some x →
    (x.slot = none → pool = (s.line n).pool) →
    (∀ k, x.slot = some k → ∃ r, s.request? n k = some r ∧ pool = { (s.line n).pool with
      slots := (s.line n).pool.slots.set k (.held { r with retriesUsed := min (r.retriesUsed + 1) 255 }) }) →
    exec (.retryTurnStart n) s = .next (s.onLine n fun l => { l with
      state := .turn ⟨{ x with turns := x.turns + 1 }, .guard,
        some (s.now + charUnits l.config.rate l.config.guardChars), some (s.now + l.config.jamLimit),
        none, none, none, [], none, none⟩
      pool := pool, sched := { l.sched with retry := none }, post := { l.post with reservation := true } }))
  ∧ (∀ (s : State) (n : LineNo) (a : Access) (t : Turn) (payload : List Byte), s.Awaits (.payloadRead n) a →
    payload.length = a.length → (s.line n).state = .turn t → t.phase = .load →
    exec (.payloadReadDone payload) s = .next ((s.finishAccess a).onLine n fun l => { l with
      txBuf := payload
      state := .turn ⟨t.exch, .guard, some (s.now + charUnits l.config.rate l.config.guardChars),
        some (s.now + l.config.jamLimit), none, none, none, [], none, none⟩ }))
  ∧ ∀ (s : State) (n : LineNo) (t : Turn) (d : Nat), s.active = true → (s.line n).state = .turn t → t.phase = .guard →
    t.quietEnd = some d →
    exec (.guardEnd n) s = .next ({ s with now := max s.now d }.onLine n fun l => { l with
      de := true
      state := .turn { t with
        phase := .send, quietEnd := none, jamEnd := none, exch := { t.exch with sent := true }
        wire := frameChars t.exch.address t.exch.control l.txBuf
        sendEnd := some (max s.now d
          + charUnits l.config.rate (frameChars t.exch.address t.exch.control l.txBuf).length) } })

/-- TXD rests at level 1 while DE is released; in SEND it shows the frame's characters back to back, each as a start bit 0, the
eight data bits from the least significant, and a stop bit 1. At the end of END's stop bit DE is released. A turn to a station
enters LISTEN with the station's reply_timeout and a collector waiting for MARK; a BROADCAST turn ends with its slot DONE and
OK. (That the clock moves to the end of SEND, and the reply timer counts whole time units from it, is the model's choice: log
entry 3.) -/
def Obligations.SendEndsInListen : Prop :=
  (∀ (l : Line) (bit : Nat), l.de = false → l.txd bit = true)
  ∧ (∀ (l : Line) (t : Turn) (i : Nat) (h : i < t.wire.length), l.de = true → l.state = .turn t →
      l.txd (10 * i) = false ∧ (∀ j < 8, l.txd (10 * i + 1 + j) = t.wire[i].getLsbD j) ∧ l.txd (10 * i + 9) = true)
  ∧ ∀ (s : State) (n : LineNo) (t : Turn) (d : Nat), s.active = true → (s.line n).state = .turn t → t.phase = .send →
    t.sendEnd = some d →
    (∀ a e, t.exch.frame ≠ .broadcast → t.exch.station = some a → s.station? n a = some e →
      exec (.sendDone n) s = .next ({ s with now := max s.now d }.onLine n fun l => { l with
        de := false
        state := .turn { t with
          phase := .listen, sendEnd := none, wire := [], replyEnd := some (max s.now d + e.replyTimeout)
          collector := some ⟨false, false, .address, 0, 0, 0, 0, [], 0xFFFF, 0⟩ } }))
    ∧ (∀ k r, t.exch.frame = .broadcast → t.exch.station = none → t.exch.slot = some k → s.request? n k = some r →
      r.state = .active → s.control.device = .running → s.admin.work = .none →
      ∃ u, exec (.sendDone n) s = .next u ∧ State.TurnOver n none s u ∧ (u.line n).de = false ∧ u.now = max s.now d
        ∧ u.request? n k = some { r with
            state := .done, outcome := some .ok, cancelMark := false, answerDeadline := none, queryPollDue := none }
        ∧ State.SlotsKept n k s u ∧ (u.line n).pool.doneOrder = (s.line n).pool.doneOrder ++ [k]
        ∧ (u.line n).pool.broadcast = (s.line n).pool.broadcast.filter (fun j => decide (j ≠ k)))

/-- A character counts by the phase of the turn: it restarts the quiet count in GUARD; in LISTEN only a MARK without a
framing error counts, which enters RECEIVE, stops the reply timer and starts the gap timer. In RECEIVE the escape character
and every byte that stands in its place are collected, an escaped one with its top bit inverted, the check taking the bytes
from address to payload, and each restarts the gap timer; a framing error, a MARK, an END out of place or after an escape, a
character where END is due, a wrong address, a length above 240 and a failed check end the turn as a failed turn. A frame that
passed its check ends it so too when it is an ACCEPT with another sequence than the SELECT's, or a protocol error (a kind the
turn's frame does not allow, or a length outside the kind's range): a protocol error is counted in the entry and
PROTOCOL_ERROR offered first, but not for a SLOW turn nor under detach_pending. Everywhere else, and when its start bit was
seen under DE, a character is discarded. (Durations in whole time units: the model's choice, log entry 3; nothing counted under
detach_pending: log entry 11; that an escape at the place of END garbles at once: log entry 27.) -/
def Obligations.CharacterCountsByPhase : Prop :=
  ∀ (s : State) (n : LineNo) (ch : Byte) (framing : Bool),
    exec (.characterReceived n ch framing true) s = .next s
    ∧ ((s.line n).turn? = none → exec (.characterReceived n ch framing false) s = .next s)
    ∧ ∀ t, s.active = true → (s.line n).state = .turn t →
      (t.phase = .load ∨ t.phase = .send ∨ t.phase = .store →
        exec (.characterReceived n ch framing false) s = .next s)
      ∧ (t.phase = .guard →
        exec (.characterReceived n ch framing false) s = .next (s.onLine n fun l => { l with state := .turn { t with
          quietEnd := some (s.now + charUnits l.config.rate l.config.guardChars) } }))
      ∧ (∀ c, t.phase = .listen → t.collector = some c → c.collecting = false →
        (ch ≠ 0xC5 ∨ framing = true → exec (.characterReceived n ch framing false) s = .next s)
        ∧ (ch = 0xC5 → framing = false →
          exec (.characterReceived n ch framing false) s = .next (s.onLine n fun l => { l with state := .turn { t with
            phase := .receive, replyEnd := none
            collector := some ⟨true, false, .address, 0, 0, 0, 0, [], 0xFFFF, 0⟩
            gapEnd := some (s.now + charUnits l.config.rate l.config.gapLimit) } })))
      ∧ ∀ c, t.phase = .receive → t.collector = some c → c.collecting = true →
        (framing = true ∨ ch = 0xC5 ∨ (ch = 0xCA ∧ (c.escape = true ∨ c.position ≠ .endMark ∨ c.check ≠ c.received))
          ∨ (ch ≠ 0xCA ∧ c.position = .endMark)
          ∨ (ch ≠ 0xCA ∧ ch ≠ 0xD7 ∧ c.escape = false ∧ c.position = .address ∧ ch ≠ t.exch.address)
          ∨ (ch ≠ 0xCA ∧ ch ≠ 0xD7 ∧ c.escape = false ∧ c.position = .length ∧ 240 < ch.toNat)
          ∨ (ch ≠ 0xCA ∧ c.escape = true ∧ c.position = .address ∧ ch ^^^ 0x80 ≠ t.exch.address)
          ∨ (ch ≠ 0xCA ∧ c.escape = true ∧ c.position = .length ∧ 240 < (ch ^^^ 0x80).toNat) →
        exec (.characterReceived n ch framing false) s = .next (s.failTurn n t.exch))
        ∧ (∀ (d : Collector) (b : Byte), framing = false → ch ≠ 0xC5 → ch ≠ 0xCA →
          (ch = 0xD7 ∧ c.escape = false ∧ c.position ≠ .endMark ∧ d = { c with escape := true })
            ∨ (((c.escape = true ∧ b = ch ^^^ 0x80) ∨ (c.escape = false ∧ ch ≠ 0xD7 ∧ b = ch))
              ∧ ((c.position = .address ∧ b = t.exch.address
                  ∧ d = { c with escape := false, position := .control, address := b, check := checkByte c.check b })
                ∨ (c.position = .control
                  ∧ d = { c with escape := false, position := .length, control := b, check := checkByte c.check b })
                ∨ (c.position = .length ∧ b.toNat ≤ 240 ∧ d = { c with
                    escape := false, position := if b = 0 then .checkHigh else .payload, length := b
                    remaining := b.toNat, check := checkByte c.check b })
                ∨ (c.position = .payload ∧ d = { c with
                    escape := false, position := if c.remaining ≤ 1 then .checkHigh else .payload
                    remaining := c.remaining - 1, store := c.store ++ [b], check := checkByte c.check b })
                ∨ (c.position = .checkHigh ∧ d = { c with
                    escape := false, position := .checkLow, received := b ++ c.received.extractLsb' 0 8 })
                ∨ (c.position = .checkLow ∧ d = { c with
                    escape := false, position := .endMark, received := c.received.extractLsb' 8 8 ++ b }))) →
          exec (.characterReceived n ch framing false) s = .next (s.onLine n fun l => { l with state := .turn { t with
            replyEnd := none, collector := some d
            gapEnd := some (s.now + charUnits l.config.rate l.config.gapLimit) } }))
        ∧ ∀ (control : Byte) (payload : List Byte) (wellFormed : Prop), t.BeforeEnd control payload → ch = 0xCA →
          framing = false →
          (wellFormed ↔
            (t.exch.frame = .poll ∧ ((control.extractLsb' 4 4 = 0x8 ∧ 1 ≤ payload.length ∧ payload.length ≤ 240)
              ∨ (control.extractLsb' 4 4 = 0x9 ∧ payload = []) ∨ (control.extractLsb' 4 4 = 0xC ∧ payload.length ≤ 1)))
            ∨ (t.exch.frame = .select ∧ ((control.extractLsb' 4 4 = 0xA ∧ payload = [])
              ∨ (control.extractLsb' 4 4 = 0xB ∧ payload = []) ∨ (control.extractLsb' 4 4 = 0xC ∧ payload.length ≤ 1)))
            ∨ (t.exch.frame = .reset ∧ control.extractLsb' 4 4 = 0xD ∧ payload = [])) →
          (t.exch.frame = .select → control.extractLsb' 4 4 = 0xA → payload = [] →
            control.extractLsb' 0 3 ≠ t.exch.control.extractLsb' 0 3 →
            exec (.characterReceived n ch framing false) s = .next (s.failTurn n t.exch))
          ∧ ∀ e, ¬ wellFormed → t.exch.station = some e.address → s.station? n e.address = some e →
            (t.exch.kind = .slow ∨ e.detachPending = true →
              exec (.characterReceived n ch framing false) s = .next (s.failTurn n t.exch))
            ∧ (t.exch.kind ≠ .slow → e.detachPending = false →
              exec (.characterReceived n ch framing false) s = .next
                (((s.onStation n e.address fun x => { x with
                    protocolErrors := min (x.protocolErrors + 1) 65535 }).offer
                  ⟨.protocolError, BitVec.ofNat 8 n.val, e.address, BitVec.ofNat 16 control.toNat, 0, false⟩).failTurn n
                    t.exch))

/-- A collector fed the characters of a frame with at most 240 payload bytes, for the frame's own address, gives back its
control byte and payload: escaping, length and check lose nothing, whatever the bytes. A receiver whose line was at level 1,
fed sixteen samples of each of the ten levels a character is sent as, completes that character without a framing error; with a
stop bit at level 0 the same character with a framing error; held at level 0 for any longer one framing-error character of
value 0, and no other until sixteen samples at level 1; and none when level 1 is back at the middle of the start bit. A
completed character of an enabled line joins the commands waiting; a DISABLED line's receiver does nothing. (The numbering of
the samples, and that a receiver starts from level 1, are the model's choice: log entry 24; the queue: log entry 17.) -/
def Obligations.CollectorReadsFramesSent : Prop :=
  (∀ (address control : Byte) (payload : List Byte), payload.length ≤ 240 →
    Collector.feed address ⟨false, false, .address, 0, 0, 0, 0, [], 0xFFFF, 0⟩ (frameChars address control payload)
      = .complete control payload)
  ∧ (∀ (ch : Byte) (de : Bool), Receiver.feed ⟨true, .idle⟩ de ((charLevels ch).flatMap (List.replicate 16))
      = (⟨true, .idle⟩, [⟨ch, false, de⟩]))
  ∧ (∀ (ch : Byte) (de : Bool), Receiver.feed ⟨true, .idle⟩ de (((charLevels ch).dropLast ++ [false]).flatMap (List.replicate 16))
      = (⟨false, .hold 0⟩, [⟨ch, true, de⟩]))
  ∧ (∀ (k : Nat) (de : Bool), Receiver.feed ⟨true, .idle⟩ de (List.replicate (154 + k) false)
        = (⟨false, .hold 0⟩, [⟨0, true, de⟩])
      ∧ Receiver.feed ⟨false, .hold 0⟩ de (List.replicate 16 true) = (⟨true, .idle⟩, []))
  ∧ (∀ (i : Nat) (de : Bool), 1 ≤ i → i ≤ 8 →
      Receiver.feed ⟨true, .idle⟩ de (List.replicate i false ++ List.replicate (9 - i) true) = (⟨true, .idle⟩, []))
  ∧ ∀ (s : State) (n : LineNo) (level : Bool),
    ((s.line n).state = .disabled → s.rxdSampled n level = s)
    ∧ ∀ rx out, (s.line n).state ≠ .disabled → (s.line n).rx.sample (s.line n).de level = (rx, out) →
      s.rxdSampled n level = { s.onLine n (fun l => { l with rx := rx }) with
        pending := match out with
          | some c => s.pending ++ [.characterReceived n c.character c.framing c.underDe]
          | none => s.pending }

/-! ### The end of a turn -/

/-- ACCEPT and REJECT in answer to a SELECT. ACCEPT with the SELECT's sequence makes a SEND DONE with OK and brings a QUERY
into ANSWERING with its deadlines, and tx_seq advances; REJECT returns the request to WAITING with resent set and leaves the
entry out of step. Both are exchange successes: exchanges counted, miss_count 0, SUSPECT becomes ONLINE. Offered are
STATION_ONLINE with detail 2 for a SUSPECT entry and then, after a REJECT that finds the entry in step, STATION_OUT_OF_STEP
with the REJECT's payload byte, or 255 for none. The slot made DONE joins the DONE order, and then the station's ANSWERING
head is settled: next due one query spacing later, or ANSWER_TIMEOUT when its deadline has passed (State.HeadSettled). (Whole
time units and the moment of LINE_HELD are the model's choices: log entries 3 and 2.) -/
def Obligations.AcceptAndRejectSettleSelect : Prop :=
  ∀ (s : State) (n : LineNo) (t : Turn) (e : Station) (k : SlotNo) (r : Request) (control : Byte) (payload : List Byte)
    (online : List EventRecord),
    s.PlainTurn n t e → t.exch.frame = .select → t.exch.slot = some k → s.request? n k = some r → r.state = .active →
    r.cancelMark = false → e.liveness = .online ∨ e.liveness = .suspect → t.BeforeEnd control payload →
    (online = if e.liveness = .suspect then [⟨.stationOnline, BitVec.ofNat 8 n.val, e.address, 2, 0, false⟩] else []) →
    (∀ q, control.extractLsb' 4 4 = 0xA → payload = [] → control.extractLsb' 0 3 = t.exch.control.extractLsb' 0 3 →
      (q = if r.kind = .query then
          { r with
            state := .answering, deliveryUnknown := false, answerDeadline := some (s.now + r.answerWindow.toNat)
            queryPollDue := some (s.now + (s.line n).config.querySpacing), answerLength := 0 }
        else
          { r with
            state := .done, outcome := some .ok, deliveryUnknown := false, cancelMark := false, answerDeadline := none
            queryPollDue := none }) →
      (r.kind = .query → 0 < r.answerWindow.toNat) →
      ∃ u, exec (.characterReceived n 0xCA false false) s = .next u ∧ State.TurnOver n none s u
        ∧ State.RequestsKept n (some k) s u ∧ State.EntriesKept n e.address s u ∧ u.now = s.now
        ∧ State.Offered n online s u ∧ u.request? n k = some q
        ∧ State.HeadSettled n e (if r.kind = .query then none else some k) true s u
        ∧ ∃ f, u.station? n e.address = some f ∧ f.txSeq = t.exch.control.extractLsb' 0 3 + 1 ∧ f.liveness = .online
          ∧ f.missCount = 0 ∧ f.exchanges = e.exchanges + 1 ∧ f.outOfStep = e.outOfStep ∧ f.rxExpect = e.rxExpect
          ∧ f.lastAck = e.lastAck ∧ f.holdoff = e.holdoff ∧ f.failedTurns = e.failedTurns)
    ∧ (control.extractLsb' 4 4 = 0xC → payload.length ≤ 1 →
      ∃ u, exec (.characterReceived n 0xCA false false) s = .next u ∧ State.TurnOver n none s u
        ∧ State.RequestsKept n (some k) s u ∧ State.EntriesKept n e.address s u ∧ u.now = s.now
        ∧ (∀ detail : Half, detail = ((payload.head?.map fun b => b.setWidth 16).getD 255) →
            State.Offered n (online ++ if e.outOfStep then []
              else [⟨.stationOutOfStep, BitVec.ofNat 8 n.val, e.address, detail, 0, false⟩]) s u)
        ∧ u.request? n k = some { r with state := .waiting, resent := true } ∧ State.HeadSettled n e none true s u
        ∧ ∃ f, u.station? n e.address = some f ∧ f.outOfStep = true ∧ f.liveness = .online ∧ f.missCount = 0
          ∧ f.exchanges = e.exchanges + 1 ∧ f.txSeq = e.txSeq ∧ f.rxExpect = e.rxExpect ∧ f.lastAck = e.lastAck
          ∧ f.holdoff = e.holdoff)

/-- BUSY in answer to a SELECT: below busy_limit busy_count increases and the request returns to WAITING; at or above it the
request becomes DONE with REFUSED, busy_count staying. In both cases the exchange is a success, the holdoff deadline is set
from this moment, tx_seq stays, and delivery_unknown stays; STATION_ONLINE with detail 2 is offered for a SUSPECT entry. The
slot made DONE joins the DONE order, and then the station's ANSWERING head is settled: next due one query spacing later, or
ANSWER_TIMEOUT when its deadline has passed (State.HeadSettled). (Whole time units and the moment of LINE_HELD are the model's
choices: log entries 3 and 2.) -/
def Obligations.BusyHoldsOffOrRefuses : Prop :=
  ∀ (s : State) (n : LineNo) (t : Turn) (e : Station) (k : SlotNo) (r : Request) (control : Byte),
    s.PlainTurn n t e → t.exch.frame = .select → t.exch.slot = some k → s.request? n k = some r → r.state = .active →
    r.cancelMark = false → e.liveness = .online ∨ e.liveness = .suspect → t.BeforeEnd control [] →
    control.extractLsb' 4 4 = 0xB →
    ∃ u, exec (.characterReceived n 0xCA false false) s = .next u ∧ State.TurnOver n none s u
      ∧ State.RequestsKept n (some k) s u ∧ State.EntriesKept n e.address s u ∧ u.now = s.now
      ∧ State.Offered n
        (if e.liveness = .suspect then [⟨.stationOnline, BitVec.ofNat 8 n.val, e.address, 2, 0, false⟩] else []) s u
      ∧ (r.busyCount < e.busyLimit → u.request? n k = some { r with state := .waiting, busyCount := r.busyCount + 1 })
      ∧ (e.busyLimit ≤ r.busyCount → u.request? n k = some { r with
          state := .done, outcome := some .refused, cancelMark := false, answerDeadline := none, queryPollDue := none })
      ∧ State.HeadSettled n e (if r.busyCount < e.busyLimit then none else some k) true s u
      ∧ ∃ f, u.station? n e.address = some f ∧ f.holdoff = some (s.now + e.busyHoldoff) ∧ f.txSeq = e.txSeq
        ∧ f.liveness = .online ∧ f.missCount = 0 ∧ f.exchanges = e.exchanges + 1 ∧ f.outOfStep = e.outOfStep
        ∧ f.rxExpect = e.rxExpect ∧ f.lastAck = e.lastAck

/-- A POLL answered IDLE, DATA one behind rx_expect, DATA with rx_expect when nothing backs its READY any more (its ANSWERING
head gone, no buffer reserved), REJECT, DATA out of sequence, or DATA though it carried no READY, is a success that changes
neither the sequence state nor the cache and releases the reservation; REJECT and DATA out of sequence leave the entry out of
step, and DATA without READY counts a protocol error. Offered are PROTOCOL_ERROR with the control byte for the last,
STATION_ONLINE with detail 2 for a SUSPECT entry, and STATION_OUT_OF_STEP for an entry that loses its step, with REJECT's
payload byte, or 255 for none, or 256 plus the DATA's sequence; in this order (PROTOCOL_ERROR first: log entry 11). DATA with
rx_expect begins its write, cut to the buffer size, into the reserved buffer, or into the answer area of the ANSWERING head
the POLL serves. READY in answer to RESET makes the entry ONLINE and in step with cleared sequence fields, and a RESYNC it
served DONE with OK; STATION_ONLINE, with the liveness before as its detail, is offered when the entry was not ONLINE. The
slot made DONE joins the DONE order, and then the station's ANSWERING head is settled: next due one query spacing later, or
ANSWER_TIMEOUT when its deadline has passed (State.HeadSettled). (Whole time units and the moment of LINE_HELD are the model's
choices: log entries 3 and 2.) -/
def Obligations.PollAndResetRepliesSettle : Prop :=
  ∀ (s : State) (n : LineNo) (t : Turn) (e : Station) (control : Byte) (payload : List Byte), s.PlainTurn n t e →
    t.BeforeEnd control payload →
    (∀ settles loses errs : Prop, t.exch.frame = .poll → t.exch.kind ≠ .slow →
      e.liveness = .online ∨ e.liveness = .suspect →
      (∀ k r, t.exch.slot = some k → s.request? n k = some r → r.cancelMark = false) →
      (settles ↔ (control.extractLsb' 4 4 = 0x9 ∧ payload = [])
        ∨ (control.extractLsb' 4 4 = 0x8 ∧ 1 ≤ payload.length ∧ payload.length ≤ 240
          ∧ t.exch.control.getLsbD 3 = true ∧ (control.extractLsb' 0 3 = e.rxExpect - 1
            ∨ (control.extractLsb' 0 3 = e.rxExpect ∧ (s.line n).buf.reserved = false
              ∧ ∀ k r, t.exch.slot = some k → s.request? n k = some r → r.state ≠ .answering)))) →
      (loses ↔ (control.extractLsb' 4 4 = 0xC ∧ payload.length ≤ 1)
        ∨ (control.extractLsb' 4 4 = 0x8 ∧ 1 ≤ payload.length ∧ payload.length ≤ 240
          ∧ t.exch.control.getLsbD 3 = true ∧ control.extractLsb' 0 3 ≠ e.rxExpect
          ∧ control.extractLsb' 0 3 ≠ e.rxExpect - 1)) →
      (errs ↔ control.extractLsb' 4 4 = 0x8 ∧ 1 ≤ payload.length ∧ payload.length ≤ 240
          ∧ t.exch.control.getLsbD 3 = false) →
      settles ∨ loses ∨ errs →
      ∃ u, exec (.characterReceived n 0xCA false false) s = .next u ∧ State.TurnOver n none s u
        ∧ State.RequestsKept n none s u ∧ State.EntriesKept n e.address s u ∧ u.now = s.now
        ∧ (u.line n).buf = { (s.line n).buf with reserved := false }
        ∧ (∀ (errors online lost : List EventRecord) (detail : Half),
          (errs → errors = [⟨.protocolError, BitVec.ofNat 8 n.val, e.address, control.setWidth 16, 0, false⟩]) →
          (¬ errs → errors = []) →
          (online = if e.liveness = .suspect then [⟨.stationOnline, BitVec.ofNat 8 n.val, e.address, 2, 0, false⟩] else []) →
          (control.extractLsb' 4 4 = 0xC → detail = ((payload.head?.map fun b => b.setWidth 16).getD 255)) →
          (control.extractLsb' 4 4 = 0x8 → detail = 256 + (control.extractLsb' 0 3).setWidth 16) →
          (loses ∧ e.outOfStep = false →
            lost = [⟨.stationOutOfStep, BitVec.ofNat 8 n.val, e.address, detail, 0, false⟩]) →
          (¬ (loses ∧ e.outOfStep = false) → lost = []) →
          State.Offered n (errors ++ online ++ lost) s u)
        ∧ State.HeadSettled n e none true s u
        ∧ ∃ f, u.station? n e.address = some f ∧ f.liveness = .online ∧ f.missCount = 0
          ∧ f.exchanges = e.exchanges + 1 ∧ (f.outOfStep = true ↔ e.outOfStep = true ∨ loses) ∧ f.txSeq = e.txSeq
          ∧ f.rxExpect = e.rxExpect ∧ f.lastAck = e.lastAck ∧ f.holdoff = e.holdoff ∧ f.failedTurns = e.failedTurns
          ∧ (errs → f.protocolErrors = min (e.protocolErrors + 1) 65535)
          ∧ (¬ errs → f.protocolErrors = e.protocolErrors))
    ∧ (t.exch.frame = .poll → control.extractLsb' 4 4 = 0x8 → 1 ≤ payload.length → payload.length ≤ 240 →
      t.exch.control.getLsbD 3 = true → control.extractLsb' 0 3 = e.rxExpect →
      (∀ d rest size, t.exch.slot = none → (s.line n).buf.reserved = true → (s.line n).buf.cache = d :: rest →
        (s.line n).config.bufferSize = some size →
        exec (.characterReceived n 0xCA false false) s = .next { s.onLine n (fun l => { l with state := .turn { t with
            phase := .store, gapEnd := none, collector := none
            store := some ⟨false, e.rxExpect, min payload.length size, decide (size < payload.length)⟩ } }) with
          port := { s.port with waiting := s.port.waiting
            ++ [⟨.bufferWrite n, d.address, (payload.take size).length, payload.take size, false⟩] } })
      ∧ (∀ k r, t.exch.slot = some k → s.request? n k = some r → r.state = .answering →
        exec (.characterReceived n 0xCA false false) s = .next { s.onLine n (fun l => { l with state := .turn { t with
            phase := .store, gapEnd := none, collector := none
            store := some ⟨true, e.rxExpect, min payload.length r.answerCap.toNat,
              decide (r.answerCap.toNat < payload.length)⟩ } }) with
          port := { s.port with waiting := s.port.waiting
            ++ [⟨.answerWrite n, r.answerAddr, (payload.take r.answerCap.toNat).length,
              payload.take r.answerCap.toNat, false⟩] } }))
    ∧ (t.exch.frame = .reset → control.extractLsb' 4 4 = 0xD → payload = [] →
      ∃ u, exec (.characterReceived n 0xCA false false) s = .next u ∧ State.TurnOver n none s u
        ∧ State.RequestsKept n t.exch.slot s u ∧ State.EntriesKept n e.address s u ∧ u.now = s.now
        ∧ (∀ code : Half, (code = match e.liveness with
            | .unknown => 0
            | .online => 1
            | .suspect => 2
            | .offline => 3) → State.Offered n (if e.liveness = .online then []
              else [⟨.stationOnline, BitVec.ofNat 8 n.val, e.address, code, 0, false⟩]) s u)
        ∧ (∀ k r, t.exch.slot = some k → s.request? n k = some r → r.state = .active → u.request? n k = some { r with
            state := .done, outcome := some .ok, cancelMark := false, answerDeadline := none, queryPollDue := none })
        ∧ ((∀ k, t.exch.slot = some k → ∃ r, s.request? n k = some r ∧ r.state = .active) →
          State.HeadSettled n e t.exch.slot true s u)
        ∧ ∃ f, u.station? n e.address = some f ∧ f.liveness = .online ∧ f.outOfStep = false ∧ f.txSeq = 0
          ∧ f.rxExpect = 0 ∧ f.lastAck = none ∧ f.missCount = 0 ∧ f.exchanges = e.exchanges + 1
          ∧ f.holdoff = e.holdoff ∧ f.failedTurns = e.failedTurns ∧ f.protocolErrors = e.protocolErrors)

/-- When the write of accepted DATA completes the turn ends as a success with last_ack and rx_expect advanced. A reserved
buffer's descriptor leaves the cache and its arrival record enters the posting queue at the place the turn reserved; an answer
makes its QUERY DONE with OK, the bytes written as its length. STATION_ONLINE with detail 2 is offered for a SUSPECT entry.
The slot made DONE joins the DONE order, and then the station's ANSWERING head is settled: next due one query spacing later,
or ANSWER_TIMEOUT when its deadline has passed (State.HeadSettled). (Whole time units and the moment of LINE_HELD are the
model's choices: log entries 3 and 2.) -/
def Obligations.StoredDataIsReported : Prop :=
  ∀ (s : State) (n : LineNo) (a : Access) (t : Turn) (e : Station) (st : Store) (online : List EventRecord),
    s.PlainTurn n t e → t.store = some st → e.liveness = .online ∨ e.liveness = .suspect →
    (online = if e.liveness = .suspect then [⟨.stationOnline, BitVec.ofNat 8 n.val, e.address, 2, 0, false⟩] else []) →
    (∀ d rest, s.Awaits (.bufferWrite n) a → t.exch.slot = none → (s.line n).buf.cache = d :: rest →
      ∃ u, exec .bufferWriteDone s = .next u ∧ State.TurnOver n none (s.finishAccess a) u
        ∧ State.RequestsKept n none s u ∧ State.EntriesKept n e.address s u ∧ u.now = s.now
        ∧ State.Offered n online s u ∧ (u.line n).buf.cache = rest ∧ (u.line n).buf.reserved = false
        ∧ State.HeadSettled n e none true s u
        ∧ (u.line n).post.queue = (s.line n).post.queue
          ++ [⟨2, BitVec.ofNat 8 (14 + n.val), d.tag, 0, e.address, false, false, st.truncated,
            BitVec.ofNat 8 st.length, 0⟩]
        ∧ ∃ f, u.station? n e.address = some f ∧ f.lastAck = some st.seq ∧ f.rxExpect = st.seq + 1
          ∧ f.liveness = .online ∧ f.missCount = 0 ∧ f.exchanges = e.exchanges + 1 ∧ f.txSeq = e.txSeq
          ∧ f.outOfStep = e.outOfStep)
    ∧ (∀ k r, s.Awaits (.answerWrite n) a → t.exch.slot = some k → s.request? n k = some r → r.state = .answering →
      ∃ u, exec .answerWriteDone s = .next u ∧ State.TurnOver n none (s.finishAccess a) u
        ∧ State.RequestsKept n (some k) s u ∧ State.EntriesKept n e.address s u ∧ u.now = s.now
        ∧ u.request? n k = some { r with
            state := .done, outcome := some .ok, answerLength := st.length, truncated := st.truncated
            cancelMark := false, answerDeadline := none, queryPollDue := none }
        ∧ State.Offered n online s u ∧ State.HeadSettled n e (some k) true s u
        ∧ (u.line n).buf.cache = (s.line n).buf.cache ∧ (u.line n).post.queue = (s.line n).post.queue
        ∧ ∃ f, u.station? n e.address = some f ∧ f.lastAck = some st.seq ∧ f.rxExpect = st.seq + 1
          ∧ f.liveness = .online ∧ f.missCount = 0 ∧ f.exchanges = e.exchanges + 1 ∧ f.txSeq = e.txSeq
          ∧ f.outOfStep = e.outOfStep)

/-- A turn whose jam timer expires in GUARD is given up: an ACTIVE slot returns to WAITING, with delivery_unknown set when the
turn was a retry of a SELECT, the entry is unchanged but for its list, the reservations are released, the line is JAMMED and
LINE_JAMMED is offered with the frame's kind code. So it is for a turn to an OFFLINE entry, whose list is empty or has a
RESYNC at its head, and for a BROADCAST turn, whose record has station 0. The station's ANSWERING head is settled as at every
turn's end. (That the clock moves to the timer's moment, and whole time units, are the model's choice: log entry 3.) -/
def Obligations.JammedTurnIsGivenUp : Prop :=
  ∀ (s : State) (n : LineNo) (t : Turn) (d code : Nat), t.phase = .guard → t.jamEnd = some d →
    (code = match t.exch.frame with
      | .poll => 1
      | .select => 2
      | .reset => 3
      | .broadcast => 4) →
    (∀ e, s.PlainTurn n t e →
      (e.liveness = .offline → ∀ k, e.pending.head? = some k → ∃ r, s.request? n k = some r ∧ r.kind = .resync) →
      ∃ u, exec (.jamTimerExpiry n) s = .next u ∧ (u.line n).state = .jammed ∧ (u.line n).sched.retry = none
        ∧ (u.line n).post.reservation = false ∧ (u.line n).buf = { (s.line n).buf with reserved := false }
        ∧ (∃ f, u.station? n e.address = some f ∧ f = { e with pending := f.pending }) ∧ u.now = max s.now d
        ∧ u.events = (s.offer ⟨.lineJammed, BitVec.ofNat 8 n.val, e.address, BitVec.ofNat 16 code, 0, false⟩).events
        ∧ (∀ k r, t.exch.slot = some k → s.request? n k = some r → r.state = .active → r.cancelMark = false →
          u.request? n k = some { r with
            state := .waiting
            deliveryUnknown := r.deliveryUnknown || (decide (t.exch.frame = .select) && decide (1 < t.exch.turns)) })
        ∧ ((∀ k r, t.exch.slot = some k → s.request? n k = some r → r.cancelMark = false) →
          State.HeadSettled n e none true s u ∧ State.RequestsKept n t.exch.slot s u)
        ∧ (e.liveness ≠ .offline → State.RequestsKept n t.exch.slot s u) ∧ State.EntriesKept n e.address s u
        ∧ s.SameDevice u ∧ u.admin = s.admin ∧ u.port = s.port ∧ State.OthersKept n s u)
    ∧ (∀ k r, s.control.device = .running → s.admin.work = .none → (s.line n).state = .turn t → t.exch.frame = .broadcast →
      t.exch.station = none → t.exch.slot = some k → s.request? n k = some r → r.state = .active → r.cancelMark = false →
      ∃ u, exec (.jamTimerExpiry n) s = .next u ∧ (u.line n).state = .jammed ∧ (u.line n).sched.retry = none
        ∧ (u.line n).post.reservation = false ∧ (u.line n).buf = { (s.line n).buf with reserved := false } ∧ u.now = max s.now d
        ∧ u.events = (s.offer ⟨.lineJammed, BitVec.ofNat 8 n.val, 0, 4, 0, false⟩).events
        ∧ u.request? n k = some { r with state := .waiting } ∧ State.SlotsKept n k s u
        ∧ (u.line n).pool.doneOrder = (s.line n).pool.doneOrder ∧ (u.line n).pool.broadcast = (s.line n).pool.broadcast
        ∧ u.stations = s.stations ∧ s.SameDevice u ∧ u.admin = s.admin ∧ u.port = s.port ∧ State.OthersKept n s u)

/-- A reply timer expiring in LISTEN and a gap timer expiring in RECEIVE end the turn as a failed turn. A SLOW turn reports
nothing. Any other is counted in the entry. With retries left the exchange becomes the retry pending, its slot staying as it
is; a POLL whose READY nothing backs any more is abandoned. With the retries used up the exchange has failed: its request
becomes DONE with NO_REPLY, delivery_unknown being set after a SELECT, and exchanges, miss_count, liveness and out_of_step of
an entry that was not OFFLINE change as R63 and R69 give; STATION_SUSPECT or STATION_OFFLINE with the frame's kind code is
offered when the liveness became that, and then STATION_OUT_OF_STEP with 512 when the entry lost its step. An OFFLINE entry,
whose RESYNC fails, only has the exchange counted. When the entry is then OFFLINE, the SENDs and QUERYs at the head of what is
left of its list become DONE with OFFLINE, in list order, up to the first RESYNC. The slot made DONE joins the DONE order; the
station's ANSWERING head is settled, its deadline deciding it only when the exchange has ended (State.HeadSettled). (That the
clock moves to the timer's moment, whole time units, and the moment of LINE_HELD are the model's choices, log entries 3 and 2;
that the loss of step is judged on the liveness before the failure is deduced, log entry 15.) -/
def Obligations.FailedTurnRetriesOrFails : Prop :=
  ∀ (s : State) (n : LineNo) (t : Turn) (e : Station) (c : Instr) (d : Nat) (unbacked : Prop) (code : Half),
    s.PlainTurn n t e →
    (c = .replyTimerExpiry n ∧ t.phase = .listen ∧ t.replyEnd = some d)
      ∨ (c = .gapTimerExpiry n ∧ t.phase = .receive ∧ t.gapEnd = some d) →
    (∀ k r, t.exch.slot = some k → s.request? n k = some r → r.cancelMark = false) →
    (unbacked ↔ t.exch.frame = .poll ∧ t.exch.control.getLsbD 3 = true ∧ (s.line n).buf.reserved = false
      ∧ ∀ k r, t.exch.slot = some k → s.request? n k = some r → r.state ≠ .answering) →
    (code = match t.exch.frame with
      | .poll => 1
      | .select => 2
      | .reset => 3
      | .broadcast => 4) →
    (t.exch.kind = .slow → t.exch.slot = none →
      ∃ u, exec c s = .next u ∧ State.TurnOver n none s u ∧ State.RequestsKept n none s u
        ∧ State.EntriesKept n e.address s u ∧ u.now = max s.now d ∧ State.Offered n [] s u
        ∧ ∃ p, u.station? n e.address = some { e with pending := p })
    ∧ (t.exch.kind ≠ .slow →
      e.liveness ≠ .offline ∨ (∃ k rest r, e.pending = k :: rest ∧ s.request? n k = some r ∧ r.kind = .resync) →
      t.exch.turns ≤ e.retryLimit →
      ∃ u, exec c s = .next u
        ∧ (¬ unbacked → State.TurnOver n (some t.exch) s u ∧ (u.line n).buf = (s.line n).buf)
        ∧ (unbacked → State.TurnOver n none s u)
        ∧ State.RequestsKept n none s u ∧ State.EntriesKept n e.address s u ∧ u.now = max s.now d
        ∧ State.Offered n [] s u ∧ (¬ unbacked → State.HeadSettled n e none false s u)
        ∧ (unbacked → State.HeadSettled n e none true s u)
        ∧ ∃ p, u.station? n e.address = some { e with failedTurns := min (e.failedTurns + 1) 65535, pending := p })
    ∧ (t.exch.kind ≠ .slow → e.retryLimit < t.exch.turns →
      ∃ u, exec c s = .next u ∧ State.TurnOver n none s u ∧ (u.line n).buf = { (s.line n).buf with reserved := false }
        ∧ u.now = max s.now d ∧ State.EntriesKept n e.address s u
        ∧ (∀ k r, t.exch.slot = some k → s.request? n k = some r →
          (t.exch.frame = .poll ∧ r.state = .answering) ∨ (t.exch.frame ≠ .poll ∧ r.state = .active) →
          u.request? n k = some { r with
            state := .done, outcome := some .noReply, cancelMark := false, answerDeadline := none, queryPollDue := none
            deliveryUnknown := r.deliveryUnknown || decide (t.exch.frame = .select) }
          ∧ (s.line n).pool.doneOrder ++ [k] <+: (u.line n).pool.doneOrder)
        ∧ (e.liveness = .offline → State.Offered n [] s u
          ∧ ∃ f, u.station? n e.address = some f ∧ f = { e with
              failedTurns := min (e.failedTurns + 1) 65535, exchanges := e.exchanges + 1, pending := f.pending })
        ∧ (e.liveness ≠ .offline →
          ∃ f, u.station? n e.address = some f ∧ f.failedTurns = min (e.failedTurns + 1) 65535
            ∧ f.exchanges = e.exchanges + 1 ∧ f.missCount = min (e.missCount + 1) 15
            ∧ f.outOfStep = (e.outOfStep || decide (t.exch.frame = .select) || decide (t.exch.frame = .reset))
            ∧ f.liveness = (if e.liveness = .online then .suspect
                else if e.missLimit ≤ min (e.missCount + 1) 15 then .offline else e.liveness)
            ∧ f.txSeq = e.txSeq ∧ f.rxExpect = e.rxExpect ∧ f.lastAck = e.lastAck ∧ f.holdoff = e.holdoff
            ∧ f.protocolErrors = e.protocolErrors
            ∧ (f.liveness ≠ .offline → State.RequestsKept n t.exch.slot s u
              ∧ ((∀ k, t.exch.slot = some k → ∃ r, s.request? n k = some r
                  ∧ ((t.exch.frame = .poll ∧ r.state = .answering) ∨ (t.exch.frame ≠ .poll ∧ r.state = .active))) →
                State.HeadSettled n e t.exch.slot true s u))
            ∧ State.Offered n ((if e.liveness = .online then
                  [⟨.stationSuspect, BitVec.ofNat 8 n.val, e.address, code, 0, false⟩]
                else if f.liveness = .offline then [⟨.stationOffline, BitVec.ofNat 8 n.val, e.address, code, 0, false⟩]
                else [])
              ++ if (t.exch.frame = .select ∨ t.exch.frame = .reset) ∧ e.outOfStep = false then
                  [⟨.stationOutOfStep, BitVec.ofNat 8 n.val, e.address, 512, 0, false⟩] else []) s u)
        ∧ ∀ f pre post, u.station? n e.address = some f → f.liveness = .offline →
          (∀ k, t.exch.slot = some k → ∃ r, s.request? n k = some r
            ∧ ((t.exch.frame = .poll ∧ r.state = .answering) ∨ (t.exch.frame ≠ .poll ∧ r.state = .active))) →
          e.pending.filter (fun j => decide (t.exch.slot ≠ some j)) = pre ++ post → (pre ++ post).Nodup →
          (∀ j ∈ pre, ∃ r, s.request? n j = some r ∧ (r.kind = .send ∨ r.kind = .query)
            ∧ (r.state = .waiting ∨ r.state = .answering)) →
          (∀ j rest, post = j :: rest → ∃ r, s.request? n j = some r ∧ r.kind = .resync ∧ r.state = .waiting) →
          f.pending = post ∧ (u.line n).pool.doneOrder = (s.line n).pool.doneOrder ++ t.exch.slot.toList ++ pre
          ∧ (∀ j ∈ pre, ∀ r, s.request? n j = some r → u.request? n j = some { r with
              state := .done, outcome := some .offline, cancelMark := false, answerDeadline := none
              queryPollDue := none })
          ∧ ∀ j r, j ∉ pre → t.exch.slot ≠ some j → s.request? n j = some r → u.request? n j = some r)

/-- The rules that override a result that would continue (State.WouldContinue: BUSY within busy_limit, REJECT, ACCEPT to a
QUERY's SELECT, a reply to a POLL that leaves its ANSWERING head so, a failed turn with retries left, a jam in GUARD; turns that
serve no request, and a BROADCAST's jam, too). STOP makes the request DONE with ABORTED, and the waiting and answering slots
behind it too, in list order; a DETACH or LINE_DISABLE that waited then completes or goes on ABORTED, a CANCEL completes
TOO_LATE. On a RUNNING device a cancel mark makes the request CANCELLED and the CANCEL that waits complete OK; else
detach_pending makes it DETACHED, the entry is freed with what is left of its list DETACHED in list order, and the DETACH
completes OK; else a LINE_DISABLE that waits makes it ABORTED and goes on, the request being one of those it waits for. The
request keeps what the result itself left in it, and the entry what the result reports, but nothing is reported under
detach_pending. A final result (State.EndsFinally) stands in STOPPING and under a cancel mark, detach_pending or LINE_DISABLE:
the CANCEL that waited completes TOO_LATE, the DETACH OK with the entry freed, and the LINE_DISABLE goes on with its status. (The
order of the rules is deduced: log entry 9; that a DONE request's cancel mark and deadlines are cleared: log entry 15; that
resent is set after REJECT under every rule: log entry 21; that the request counts for the LINE_DISABLE under STOP too: log
entry 23; that a DETACH or LINE_DISABLE taken in STOPPING is ABORTED too: log entry 29; whole time units and the clock's move:
log entry 3; protocol errors under detach_pending: log entry 11.) -/
def Obligations.OverridingRulesPrevail : Prop :=
  (∀ (s : State) (n : LineNo) (t : Turn) (e g : Station) (c : Instr) (keeps : Request → Request) (after : LineState)
    (moment : Nat) (resynced : Station → Station), (s.line n).state = .turn t →
    t.exch.station = some e.address → t.exch.address = e.address → s.station? n e.address = some e →
    s.WouldContinue n t e c keeps after moment g →
    (resynced = fun y => { y with
      liveness := .unknown, outOfStep := true, detachPending := false, txSeq := 0, rxExpect := 0, lastAck := none
      missCount := 0, holdoff := none, pending := [] }) →
    (s.control.device = .stopping →
      ∃ u, exec c s = .next u ∧ (u.line n).state = after ∧ (u.line n).sched.retry = none ∧ u.now = moment
        ∧ s.SameDevice u ∧ State.OthersKept n s u
        ∧ (∀ k r, t.exch.slot = some k → s.request? n k = some r → u.request? n k = some ((keeps r).ended .aborted))
        ∧ (∀ j ∈ e.pending, t.exch.slot ≠ some j → ∀ q, s.request? n j = some q → q.state = .waiting ∨ q.state = .answering →
          u.request? n j = some (q.ended .aborted))
        ∧ (e.pending.Nodup → (s.line n).pool.doneOrder ++ t.exch.slot.toList ++ e.pending.filter (fun j =>
            decide (t.exch.slot ≠ some j) && (s.slotIs n j .waiting || s.slotIs n j .answering)) <+: (u.line n).pool.doneOrder)
        ∧ (s.admin.work = .none → u.admin = s.admin
          ∧ (e.detachPending = false → ∃ p, u.station? n e.address = some { g with pending := p })
          ∧ (e.detachPending = true → ∃ p, u.station? n e.address = some { e with pending := p }))
        ∧ (∀ tag k, t.exch.slot = some k → s.admin.work = .cancelling tag n k →
          u.admin = { s.admin with work := .completing ⟨1, 0, tag, 21, 0, false, false, false, 0, 0⟩ })
        ∧ (∀ tag, s.admin.work = .detaching tag n e.address → u.station? n e.address = none
          ∧ u.admin = { s.admin with work := .completing ⟨1, 0, tag, 7, e.address, false, false, false, 0, 0⟩ })
        ∧ (∀ tag st made, s.admin.work = .disabling tag n false st made →
          ∃ made', u.admin = { s.admin with work := .disabling tag n true .aborted made' }
            ∧ made ++ t.exch.slot.toList <+: made'))
    ∧ (∀ tag k r, s.control.device = .running → t.exch.slot = some k → s.request? n k = some r → r.cancelMark = true →
      s.admin.work = .cancelling tag n k →
      ∃ u, exec c s = .next u ∧ (u.line n).state = after ∧ (u.line n).sched.retry = none ∧ u.now = moment
        ∧ u.request? n k = some ((keeps r).ended .cancelled)
        ∧ (s.line n).pool.doneOrder ++ [k] <+: (u.line n).pool.doneOrder
        ∧ u.admin = { s.admin with work := .completing ⟨1, 0, tag, 0, 0, false, false, false, 0, 0⟩ }
        ∧ (e.detachPending = false → ∃ p, u.station? n e.address = some { g with pending := p })
        ∧ s.SameDevice u ∧ State.OthersKept n s u)
    ∧ (∀ tag, s.control.device = .running → (∀ k r, t.exch.slot = some k → s.request? n k = some r → r.cancelMark = false) →
      e.detachPending = true → s.admin.work = .detaching tag n e.address →
      ∃ u, exec c s = .next u ∧ (u.line n).state = after ∧ (u.line n).sched.retry = none ∧ u.now = moment
        ∧ (∀ k r, t.exch.slot = some k → s.request? n k = some r → u.request? n k = some ((keeps r).ended .detached))
        ∧ (∀ j ∈ e.pending, t.exch.slot ≠ some j → ∀ q, s.request? n j = some q → q.state = .waiting →
          u.request? n j = some (q.ended .detached))
        ∧ (e.pending.Nodup → (u.line n).pool.doneOrder = (s.line n).pool.doneOrder ++ t.exch.slot.toList
          ++ e.pending.filter fun j => decide (t.exch.slot ≠ some j) && match s.request? n j with
            | some q => decide (q.state ≠ .done)
            | none => false)
        ∧ u.station? n e.address = none
        ∧ u.admin = { s.admin with work := .completing ⟨1, 0, tag, 0, e.address, false, false, false, 0, 0⟩ }
        ∧ s.SameDevice u ∧ State.OthersKept n s u)
    ∧ (∀ tag st made, s.control.device = .running →
      (∀ k r, t.exch.slot = some k → s.request? n k = some r → r.cancelMark = false) → e.detachPending = false →
      s.admin.work = .disabling tag n false st made →
      ∃ u, exec c s = .next u ∧ (u.line n).state = after ∧ (u.line n).sched.retry = none ∧ u.now = moment
        ∧ (∀ k r, t.exch.slot = some k → s.request? n k = some r → u.request? n k = some ((keeps r).ended .aborted))
        ∧ (s.line n).pool.doneOrder ++ t.exch.slot.toList <+: (u.line n).pool.doneOrder
        ∧ (∃ made', u.admin = { s.admin with work := .disabling tag n true st made' } ∧ made ++ t.exch.slot.toList <+: made')
        ∧ u.station? n e.address = some (resynced g)
        ∧ s.SameDevice u ∧ State.OthersKept n s u))
  ∧ (∀ (s : State) (n : LineNo) (t : Turn) (k : SlotNo) (r : Request) (d : Nat), (s.line n).state = .turn t →
    t.exch.frame = .broadcast → t.exch.station = none → t.exch.slot = some k → s.request? n k = some r → r.state = .active →
    t.phase = .guard → t.jamEnd = some d → ∀ st : LineStatus,
    (s.control.device = .stopping ∧ st = .aborted)
      ∨ (s.control.device = .running ∧ r.cancelMark = true ∧ st = .cancelled)
      ∨ (s.control.device = .running ∧ r.cancelMark = false ∧ s.disabling n = true ∧ st = .aborted) →
    ∃ u, exec (.jamTimerExpiry n) s = .next u ∧ (u.line n).state = .jammed ∧ u.now = max s.now d
      ∧ u.request? n k = some (r.ended st) ∧ s.SameDevice u ∧ State.OthersKept n s u
      ∧ (s.line n).pool.doneOrder ++ [k] <+: (u.line n).pool.doneOrder ∧ k ∉ (u.line n).pool.broadcast
      ∧ (s.control.device = .stopping → ∀ j ∈ (s.line n).pool.broadcast, j ≠ k → ∀ q, s.request? n j = some q →
        q.state = .waiting → u.request? n j = some (q.ended .aborted))
      ∧ (s.admin.work = .none → u.admin = s.admin)
      ∧ (∀ tag, s.admin.work = .cancelling tag n k → u.admin = { s.admin with
          work := .completing ⟨1, 0, tag, if s.control.device = .stopping then 21 else 0, 0, false, false, false, 0, 0⟩ })
      ∧ ∀ tag stay made, s.admin.work = .disabling tag n false stay made → st = .aborted →
        ∃ made', u.admin = { s.admin with
            work := .disabling tag n true (if s.control.device = .stopping then .aborted else stay) made' }
          ∧ made ++ [k] <+: made')
  ∧ ∀ (s b : State) (n : LineNo) (t : Turn) (e g : Station) (c : Instr) (st : LineStatus) (keeps : Request → Request)
    (moment : Nat), (s.line n).state = .turn t → t.exch.station = some e.address → t.exch.address = e.address →
    s.station? n e.address = some e → s.active = true → s.EndsFinally n t e c b st keeps moment g →
    ∃ u, exec c s = .next u ∧ (u.line n).state = .idle ∧ (u.line n).sched.retry = none ∧ u.now = moment
      ∧ b.SameDevice u ∧ State.OthersKept n s u
      ∧ (∀ k r, t.exch.slot = some k → s.request? n k = some r → u.request? n k = some ((keeps r).ended st))
      ∧ (s.line n).pool.doneOrder ++ t.exch.slot.toList <+: (u.line n).pool.doneOrder
      ∧ (s.control.device = .stopping → ∀ j ∈ e.pending, t.exch.slot ≠ some j → ∀ q, s.request? n j = some q →
        q.state = .waiting ∨ q.state = .answering → u.request? n j = some (q.ended .aborted))
      ∧ (s.admin.work = .none ∨ (∃ tag k, s.admin.work = .cancelling tag n k ∧ t.exch.slot = some k) →
        (e.detachPending = false → ∃ p, u.station? n e.address = some { g with pending := p })
        ∧ (e.detachPending = true → ∃ p, u.station? n e.address = some { e with pending := p }))
      ∧ (s.admin.work = .none → u.admin = s.admin)
      ∧ (∀ tag k, t.exch.slot = some k → s.admin.work = .cancelling tag n k →
        u.admin = { s.admin with work := .completing ⟨1, 0, tag, 21, 0, false, false, false, 0, 0⟩ })
      ∧ (∀ tag, s.admin.work = .detaching tag n e.address → u.station? n e.address = none
        ∧ u.admin = { s.admin with work := .completing ⟨1, 0, tag, 0, e.address, false, false, false, 0, 0⟩ })
      ∧ ∀ tag stay made, s.admin.work = .disabling tag n false stay made →
        ∃ made', u.admin = { s.admin with work := .disabling tag n true stay made' } ∧ made <+: made'

/-! ### Timers, the Posting Path and the held line -/

/-- A poll timer's expiry starts the next period from the moment it was due, sets poll_due, and counts a wrap when the poll
view is empty; a holdoff deadline reached is removed; a query-poll due time reached only brings the selection; an answer
deadline reached makes its QUERY DONE with ANSWER_TIMEOUT unless an exchange to the station is in flight. The clock is then
at least at that moment, and the held line is judged again. (Durations in whole time units: the model's choice, log entry
3.) -/
def Obligations.DeadlinesReached : Prop :=
  ∀ (s : State) (n : LineNo) (d : Nat),
    (s.control.device = .running → (s.line n).state ≠ .disabled → (s.line n).sched.pollTimer = some d →
      ∀ sc : Scheduler, ((s.ring n).any Station.inPollView = true → sc = { (s.line n).sched with
          pollTimer := some (d + (s.line n).config.pollInterval), pollDue := true }) →
        ((s.ring n).any Station.inPollView = false → sc = { (s.line n).sched with
          pollTimer := some (d + (s.line n).config.pollInterval), pollDue := true
          wraps := if (s.line n).config.slowDivisor ≤ (s.line n).sched.wraps + 1 then 0 else (s.line n).sched.wraps + 1
          credit := (s.line n).sched.credit
            || decide ((s.line n).config.slowDivisor ≤ (s.line n).sched.wraps + 1) }) →
        exec (.pollTimerExpiry n) s
          = .next (({ s with now := max s.now d }.onLine n fun l => { l with sched := sc }).settleHeld n))
    ∧ (∀ e, s.active = true → s.station? n e.address = some e → e.holdoff = some d →
      exec (.holdoffDeadlineReached n e.address) s = .next
        (({ s with now := max s.now d }.onStation n e.address fun x => { x with holdoff := none }).settleHeld n))
    ∧ (∀ e k r, s.control.device = .running → s.station? n e.address = some e → s.head? n e = some (k, r) →
      r.state = .answering →
      (r.queryPollDue = some d →
        exec (.queryPollDue n e.address) s = .next (({ s with now := max s.now d } : State).settleHeld n))
      ∧ (r.answerDeadline = some d → (s.line n).exchangeTo e.address = true →
        exec (.answerDeadline n e.address) s = .next { s with now := max s.now d })
      ∧ (r.answerDeadline = some d → (s.line n).exchangeTo e.address = false →
        ∃ u, exec (.answerDeadline n e.address) s = .next u ∧ u.now = max s.now d
          ∧ u.request? n k = some { r with
              state := .done, outcome := some .answerTimeout, cancelMark := false, answerDeadline := none
              queryPollDue := none }
          ∧ (∃ f, u.station? n e.address = some f ∧ k ∉ f.pending ∧ f.liveness = e.liveness ∧ f.exchanges = e.exchanges)
          ∧ (u.line n).pool.doneOrder = (s.line n).pool.doneOrder ++ [k] ∧ State.SlotsKept n k s u
          ∧ (u.line n).state = (s.line n).state ∧ u.control = s.control ∧ u.sq = s.sq ∧ u.cq = s.cq ∧ u.bq = s.bq
          ∧ u.er = s.er ∧ State.OthersKept n s u))

/-- The front DONE slot enters an unreserved free place of the queue: its record is composed from the slot, and the slot
becomes free. In RUNNING or STOPPING the front record's write begins, with the ring's lap value at position P, when none is
in flight and the ring has room. When it completes the record leaves the queue, U and P advance, L inverts at the wrap and
class 2 becomes pending. (That a DONE slot enters by a command of its own follows the opcode table: log entry 2.) -/
def Obligations.PostingPathWritesRecords : Prop :=
  ∀ (s : State) (n : LineNo), s.active = true →
    (∀ k rest r st, (s.line n).pool.doneOrder = k :: rest → (s.line n).post.taken < 6 → s.request? n k = some r →
      r.outcome = some st →
      exec (.slotEntersQueue n) s = .next ((s.onLine n fun l => { l with
        pool := { l.pool with slots := l.pool.slots.set k .free, doneOrder := rest }
        post := { l.post with queue := l.post.queue ++ [⟨1,
          BitVec.ofNat 8 (if r.urgent then 2 * n.val + 1 else 2 * n.val + 2), r.tag, st.code, r.station, r.resent,
          r.deliveryUnknown, r.truncated, if r.kind = .query ∧ st = .ok then BitVec.ofNat 8 r.answerLength else 0,
          BitVec.ofNat 8 r.retriesUsed⟩] } }).settleHeld n))
    ∧ (∀ r rest, (s.line n).post.queue = r :: rest → (s.line n).post.writing = false →
      (s.cqOf n).unconsumed < (s.cqOf n).count →
      exec (.recordWriteStart n) s = .next { s.onLine n (fun l => { l with post := { l.post with writing := true } }) with
        port := { s.port with waiting := s.port.waiting
          ++ [⟨.recordWrite n, (s.cqOf n).base + BitVec.ofNat 64 (16 * (s.cqOf n).producer), 16, r.bytes (s.cqOf n).lap,
            false⟩] } })
    ∧ (∀ a r rest, s.Awaits (.recordWrite n) a → (s.line n).post.writing = true → (s.line n).post.queue = r :: rest →
      exec .recordWriteDone s = .next (({ ((s.finishAccess a).onLine n fun l => { l with
            post := { l.post with queue := rest, writing := false } }).setCq (cqIndex n) { s.cqOf n with
          unconsumed := (s.cqOf n).unconsumed + 1
          producer := if (s.cqOf n).producer + 1 = (s.cqOf n).count then 0 else (s.cqOf n).producer + 1
          lap := if (s.cqOf n).producer + 1 = (s.cqOf n).count then !(s.cqOf n).lap else (s.cqOf n).lap } with
        events := s.events.setPending 2 } : State).settleHeld n))

/-- The held line: the latch is cleared while the gate is open; at an onset the latch is set and LINE_HELD offered with U of
the completion ring; otherwise nothing changes. An onset: the device RUNNING, the line IDLE and not being torn down, the gate
shut for good, a retry pending or a turn to select, the latch clear. (When a shut gate counts as an onset is the model's
choice: log entry 2.) -/
def Obligations.HeldLineIsReportedOnce : Prop :=
  ∀ (s : State) (n : LineNo) (gateOpen onset : Prop),
    (gateOpen ↔ (s.line n).pool.doneOrder = [] ∧ (s.line n).post.taken < 6) →
    (onset ↔ s.control.device = .running ∧ (s.line n).state = .idle ∧ s.resetting n = false ∧ s.disabling n = false
      ∧ 6 ≤ (s.line n).post.taken + (s.line n).pool.doneOrder.length ∧ (s.line n).post.held = false
      ∧ ((s.line n).sched.retry.isSome = true ∨ (s.choose n).isSome = true)) →
    (gateOpen → s.settleHeld n = s.onLine n fun l => { l with post := { l.post with held := false } })
    ∧ (onset → s.settleHeld n = (s.onLine n fun l => { l with post := { l.post with held := true } }).offer
        ⟨.lineHeld, BitVec.ofNat 8 n.val, 0, BitVec.ofNat 16 (s.cqOf n).unconsumed, 0, false⟩)
    ∧ (¬ gateOpen → ¬ onset → s.settleHeld n = s)

/-- The bytes of the records the part writes: completion and arrival records, event records and station snapshots, each field
in its place, low byte first, the lap flag in bit 0 of byte 1 and every unused byte 0; and the words the register window
returns: BASE's halves, the STATE report field by field, and 0 at COMMAND, POST and the unused offsets. (That these reads are
functions of the state, and admin ring halted is SQ0's own state: log entry 18. That bits 3..7 of the flags byte of a completion
or arrival record are 0 is the model's choice: log entry 31.) -/
def Obligations.RecordsAsLaidOut : Prop :=
  (∀ (r : PostRecord) (lap : Bool), ∃ flags : Byte,
    flags = BitVec.ofNat 8 ((if r.resent then 1 else 0) + (if r.deliveryUnknown then 2 else 0) + (if r.truncated then 4 else 0))
    ∧ r.bytes lap = [r.rtype, if lap then 1 else 0, 0, 0, r.ring, r.station, r.tag.extractLsb' 0 8, r.tag.extractLsb' 8 8,
        r.status, flags, r.length, r.retries, 0, 0, 0, 0])
  ∧ (∀ r : EventRecord, r.bytes = [BitVec.ofNat 8 r.kind.eventClass, if r.lap then 1 else 0, 0, 0, r.kind.code, r.line,
        r.station, BitVec.ofNat 8 r.missed, r.detail.extractLsb' 0 8, r.detail.extractLsb' 8 8, 0, 0, 0, 0, 0, 0])
  ∧ (∀ (e : Station) (now : Nat) (live ack : Byte) (left timeout holdoff failed errors : Half),
    (e.snapshot now).length = 32 ∧
    ((live = match e.liveness with
        | .unknown => 0
        | .online => 1
        | .suspect => 2
        | .offline => 3) →
      (ack = match e.lastAck with
        | some q => q.setWidth 8
        | none => 8) →
      (left = match e.holdoff with
        | some d => BitVec.ofNat 16 (min (d - now) 65535)
        | none => 0) →
      timeout = BitVec.ofNat 16 e.replyTimeout → holdoff = BitVec.ofNat 16 e.busyHoldoff →
      failed = BitVec.ofNat 16 e.failedTurns → errors = BitVec.ofNat 16 e.protocolErrors →
      e.snapshot now = [BitVec.ofNat 8 e.line.val, e.address, live, if e.outOfStep then 1 else 0, e.txSeq.setWidth 8,
        e.rxExpect.setWidth 8, ack, BitVec.ofNat 8 e.missCount, BitVec.ofNat 8 e.pending.length, BitVec.ofNat 8 e.retryLimit,
        left.extractLsb' 0 8, left.extractLsb' 8 8, timeout.extractLsb' 0 8, timeout.extractLsb' 8 8,
        BitVec.ofNat 8 e.missLimit, BitVec.ofNat 8 e.busyLimit, holdoff.extractLsb' 0 8, holdoff.extractLsb' 8 8, 0, 0,
        e.exchanges.extractLsb' 0 8, e.exchanges.extractLsb' 8 8, e.exchanges.extractLsb' 16 8, e.exchanges.extractLsb' 24 8,
        failed.extractLsb' 0 8, failed.extractLsb' 8 8, errors.extractLsb' 0 8, errors.extractLsb' 8 8, 0, 0, 0, 0]))
  ∧ ∀ (s : State) (w : Word), w = s.readRegister 0x0C →
    s.readRegister 0x00 = s.control.base.extractLsb' 0 32 ∧ s.readRegister 0x04 = s.control.base.extractLsb' 32 32
    ∧ s.readRegister 0x08 = 0 ∧ s.readRegister 0x10 = 0 ∧ (∀ offset, 0x18 ≤ offset → s.readRegister offset = 0)
    ∧ (w.extractLsb' 0 3 = match s.control.device with
        | .idle => 0
        | .starting => 1
        | .running => 2
        | .stopping => 3
        | .faulted => 4)
    ∧ (w.extractLsb' 4 2 = match s.control.lastCommand with
        | .none => 0
        | .accepted => 1
        | .refused => 2
        | .startInvalid => 3)
    ∧ w.extractLsb' 8 5 = s.control.invalidRing
    ∧ (w.extractLsb' 16 4 = match s.control.faultCode with
        | .none => 0
        | .controlBlockRead => 1
        | .requestFetch => 2
        | .payloadRead => 3
        | .bufferFetch => 4
        | .recordWrite => 5
        | .dataWrite => 6
        | .eventWrite => 7
        | .snapshotWrite => 8)
    ∧ (w.extractLsb' 20 8 = match s.control.faultLine with
        | some n => BitVec.ofNat 8 n.val
        | none => 255)
    ∧ w.getLsbD 28 = s.control.furtherFault ∧ w.getLsbD 29 = decide ((s.sqRing 0).state = .halted)
    ∧ ∀ i ∈ [3, 6, 7, 13, 14, 15, 30, 31], w.getLsbD i = false

/-! ### Invariants -/

/-- The state after reset satisfies every invariant that the statements below say each step keeps. -/
def Obligations.InvariantsHoldAtReset : Prop :=
  State.reset.irqFollows ∧ State.reset.stagingBounded ∧ State.reset.ringsBounded ∧ State.reset.postingBounded
    ∧ State.reset.cacheBounded ∧ State.reset.stationsDistinct ∧ State.reset.memoryCanonical ∧ State.reset.heldAtReset

/-- The interrupt output is asserted exactly when an unmasked pending class is more urgent than every in-service class, and
every step keeps it so. -/
def Obligations.InterruptFollowsFlags : Prop :=
  ∀ s t : State, s.irqFollows → step s = .next t → t.irqFollows

/-- Every step keeps the staging FIFO within 8 records, the missed count within 255 and class 0 unmasked, and keeps every
part-fed ring's unconsumed count within its entry count, a place being left for each record being written or reserved. -/
def Obligations.EventUnitAndRingsBounded : Prop :=
  ∀ s t : State, step s = .next t → (s.stagingBounded → t.stagingBounded) ∧ (s.ringsBounded → t.ringsBounded)

/-- Every step keeps each line's posting queue with its reservation within six places, a turn in flight holding the
reservation, and each line's cache with its read in flight within four descriptors. -/
def Obligations.PostingAndCacheBounded : Prop :=
  ∀ s t : State, step s = .next t → (s.postingBounded → t.postingBounded) ∧ (s.cacheBounded → t.cacheBounded)

/-- Every step keeps at most 64 entries, no line with two of the same address; host memory in its canonical form; and, while
the reset input is asserted, every block at its reset value. (The form host memory is kept in is the model's choice: log entry
4.) -/
def Obligations.TableMemoryAndResetKept : Prop :=
  ∀ s t : State, step s = .next t → (s.stationsDistinct → t.stationsDistinct)
    ∧ (s.memoryCanonical → t.memoryCanonical) ∧ (s.heldAtReset → t.heldAtReset)
end

