-- ==== Sys2Proof/Laws/Memory.lean ====
section
/-! SUPPORT. Host memory: every operation keeps the canonical form, and what a read gives after a write. -/

namespace Sys2Proof.Machine

theorem wfFrom_mono {lo lo' : Nat} (h : lo' ≤ lo) : ∀ {m : Memory}, Memory.wfFrom lo m = true → Memory.wfFrom lo' m = true
  | [], _ => rfl
  | (k, v) :: m, hw => by
    simp only [Memory.wfFrom, Bool.and_eq_true, decide_eq_true_eq] at hw ⊢
    exact ⟨le_trans h hw.1, hw.2⟩

theorem wfFrom_write (a : Nat) (b : Byte) :
    ∀ (m : Memory) (lo : Nat), lo ≤ a → Memory.wfFrom lo m = true → Memory.wfFrom lo (Memory.write m a b) = true
  | [], lo, ha, _ => by simp [Memory.write, Memory.wfFrom, ha]
  | (k, v) :: m, lo, ha, hw => by
    simp only [Memory.wfFrom, Bool.and_eq_true, decide_eq_true_eq] at hw
    unfold Memory.write
    split
    · next h =>
      simp only [Memory.wfFrom, Bool.and_eq_true, decide_eq_true_eq]
      exact ⟨ha, by omega, hw.2⟩
    · split
      · next h1 h2 =>
        subst h2
        simp only [Memory.wfFrom, Bool.and_eq_true, decide_eq_true_eq]
        exact ⟨ha, hw.2⟩
      · next h1 h2 =>
        simp only [Memory.wfFrom, Bool.and_eq_true, decide_eq_true_eq]
        exact ⟨hw.1, wfFrom_write a b m (k + 1) (by omega) hw.2⟩

theorem wf_write {m : Memory} (a : Nat) (b : Byte) (h : m.wf = true) : (Memory.write m a b).wf = true :=
  wfFrom_write a b m 0 (Nat.zero_le a) h

theorem wf_writeFrom (address : Addr) (keep : Nat → Bool) :
    ∀ (bs : List Byte) (m : Memory) (i : Nat), m.wf = true → (Memory.writeFrom m address keep i bs).wf = true
  | [], _, _, h => h
  | b :: bs, m, i, h => by
    unfold Memory.writeFrom
    apply wf_writeFrom
    split
    · exact wf_write _ _ h
    · exact h

theorem wf_afterAccess {m : Memory} (a : Access) (h : m.wf = true) : (m.afterAccess a).wf = true :=
  wf_writeFrom _ _ _ _ _ h

theorem wf_afterCut {m : Memory} (a : Access) (w : Nat) (h : m.wf = true) : (m.afterCut a w).wf = true :=
  wf_writeFrom _ _ _ _ _ h

/-- Dropping a record keeps host memory in its canonical form, whatever the free number of words. -/
theorem wf_dropRecord {s : State} (a : Access) (h : s.hostMem.wf = true) : (s.dropRecord a).hostMem.wf = true :=
  wf_afterCut _ _ h

/-- Below every listed address a read finds nothing. -/
theorem read_below {a : Nat} : ∀ {m : Memory} {lo : Nat}, a < lo → Memory.wfFrom lo m = true → Memory.read m a = none
  | [], _, _, _ => rfl
  | (k, v) :: m, lo, h, hw => by
    simp only [Memory.wfFrom, Bool.and_eq_true, decide_eq_true_eq] at hw
    unfold Memory.read
    rw [if_neg (by omega)]
    exact read_below (by omega : a < k + 1) hw.2

/-- A byte written is the byte read there; every other address reads as before. -/
theorem read_write (m : Memory) (a x : Nat) (b : Byte) :
    Memory.read (Memory.write m a b) x = if x = a then some b else Memory.read m x := by
  induction m with
  | nil => by_cases h : x = a <;> simp [Memory.write, Memory.read, h]
  | cons c m ih =>
    obtain ⟨k, v⟩ := c
    unfold Memory.write
    split
    · next h => by_cases hx : x = a <;> simp [Memory.read, hx]
    · split
      · next h1 h2 => subst h2; by_cases hx : x = a <;> simp [Memory.read, hx]
      · next h1 h2 =>
        simp only [Memory.read, ih]
        by_cases hk : x = k
        · have : x ≠ a := fun h => h2 (h.symm.trans hk)
          simp [hk]; intro h; exact absurd h.symm h2
        · simp [hk]

/-- An access that carries no bytes, a read, leaves memory alone. -/
@[simp] theorem afterAccess_read (m : Memory) (kind : AccessKind) (address : Addr) (length : Nat) :
    m.afterAccess (readAccess kind address length) = m := rfl

end Sys2Proof.Machine
end

