-- ==== Sys2Proof/WellFormed.lean ====
section
/-! DEFINITION. Which commands are well formed: operands of the lengths and values their rows have. A command that is not
well formed spells no event of the part. -/

namespace Sys2Proof

/-- The kind byte of an admin record, byte 0 (Figure 13-5). -/
def adminKindOf (rec : List Byte) : Nat := (rec.getD 0 0).toNat

/-- An admin record of 32 bytes whose kind is `k` (Figure 2-3). -/
def isAdminRecord (k : Nat) (rec : List Byte) : Bool := rec.length == 32 && adminKindOf rec == k

/-- A write of the slave window that changes nothing (R162, R184, R159): fewer than four bytes, STATE, an unused offset,
or EVENT with an operation other than 1 and 2. -/
def isIgnoredWrite (offset : BitVec 5) (size : Nat) (w : Word) : Bool :=
  decide (size < 4) || offset == 0x0C || decide (0x18 ≤ offset.toNat)
    || (offset == 0x14 && !(w.extractLsb' 0 3 == 1 || w.extractLsb' 0 3 == 2))

/-- The commands whose operands the spec's rows allow. -/
def Instr.wellFormed : Instr → Bool
  | .post _ => true
  | .baseWrite _ _ => true
  | .start => true
  | .stop => true
  | .resumeAdmin => true
  | .deviceReset => true
  | .commandInvalid w => !(decide (1 ≤ (w.extractLsb' 0 4).toNat) && decide ((w.extractLsb' 0 4).toNat ≤ 4))
  | .resetInput => true
  | .resetInputRelease => true
  | .take => true
  | .release => true
  | .setMask _ => true
  | .registerWriteIgnored offset size w => isIgnoredWrite offset size w
  | .hostPortAccessStart => true
  | .busError _ _ => true
  | .controlBlockReadDone block => block.length == 512
  | .fetchClaim _ => true
  | .takeLineRequest rec => rec.length == 32
  | .adminClaim => true
  | .adminMalformed rec => rec.length == 32 && !(decide (1 ≤ adminKindOf rec) && decide (adminKindOf rec ≤ 9))
  | .lineSetup rec => isAdminRecord 1 rec
  | .lineDisable rec => isAdminRecord 2 rec
  | .lineDisableComplete => true
  | .lineReset rec => isAdminRecord 3 rec
  | .lineResetComplete => true
  | .attach rec => isAdminRecord 4 rec
  | .detach rec => isAdminRecord 5 rec
  | .stationSet rec => isAdminRecord 6 rec
  | .stationRead rec => isAdminRecord 7 rec
  | .snapshotWriteDone => true
  | .cancel rec => isAdminRecord 8 rec
  | .queueResume rec => isAdminRecord 9 rec
  | .adminCompletionWriteDone => true
  | .descriptorClaim _ => true
  | .descriptorReadDone rec => rec.length == 16
  | .turnSelection _ => true
  | .retryTurnStart _ => true
  | .payloadReadDone payload => decide (1 ≤ payload.length) && decide (payload.length ≤ 240)
  | .guardEnd _ => true
  | .jamTimerExpiry _ => true
  | .sendDone _ => true
  | .characterReceived _ _ _ _ => true
  | .replyTimerExpiry _ => true
  | .gapTimerExpiry _ => true
  | .bufferWriteDone => true
  | .answerWriteDone => true
  | .pollTimerExpiry _ => true
  | .holdoffDeadlineReached _ _ => true
  | .queryPollDue _ _ => true
  | .answerDeadline _ _ => true
  | .slotEntersQueue _ => true
  | .recordWriteStart _ => true
  | .recordWriteDone => true
  | .eventWriteStart => true
  | .eventWriteDone => true
  | .drainComplete => true

end Sys2Proof
end

