-- ==== Sys2Proof/Laws/PerInstr.lean ====
section
/-! SUPPORT. Families of statements made for every command, one lemma a constructor: RecordSize. -/

namespace Sys2Proof.Laws.RecordSize

/-- The bytes a command brings from host memory. -/
def carried : Instr → List Byte
  | .post _ => []
  | .baseWrite _ _ => []
  | .start => []
  | .stop => []
  | .resumeAdmin => []
  | .deviceReset => []
  | .commandInvalid _ => []
  | .resetInput => []
  | .resetInputRelease => []
  | .take => []
  | .release => []
  | .setMask _ => []
  | .registerWriteIgnored _ _ _ => []
  | .hostPortAccessStart => []
  | .busError _ _ => []
  | .controlBlockReadDone bytes => bytes
  | .fetchClaim _ => []
  | .takeLineRequest bytes => bytes
  | .adminClaim => []
  | .adminMalformed bytes => bytes
  | .lineSetup bytes => bytes
  | .lineDisable bytes => bytes
  | .lineDisableComplete => []
  | .lineReset bytes => bytes
  | .lineResetComplete => []
  | .attach bytes => bytes
  | .detach bytes => bytes
  | .stationSet bytes => bytes
  | .stationRead bytes => bytes
  | .snapshotWriteDone => []
  | .cancel bytes => bytes
  | .queueResume bytes => bytes
  | .adminCompletionWriteDone => []
  | .descriptorClaim _ => []
  | .descriptorReadDone bytes => bytes
  | .turnSelection _ => []
  | .retryTurnStart _ => []
  | .payloadReadDone bytes => bytes
  | .guardEnd _ => []
  | .jamTimerExpiry _ => []
  | .sendDone _ => []
  | .characterReceived _ _ _ _ => []
  | .replyTimerExpiry _ => []
  | .gapTimerExpiry _ => []
  | .bufferWriteDone => []
  | .answerWriteDone => []
  | .pollTimerExpiry _ => []
  | .holdoffDeadlineReached _ _ => []
  | .queryPollDue _ _ => []
  | .answerDeadline _ _ => []
  | .slotEntersQueue _ => []
  | .recordWriteStart _ => []
  | .recordWriteDone => []
  | .eventWriteStart => []
  | .eventWriteDone => []
  | .drainComplete => []

/-- A well-formed command brings at most 512 bytes, the longest read the part makes (Figure 10-5). -/
def Statement (i : Instr) : Prop := i.wellFormed = true → (carried i).length ≤ 512

theorem post (w : Word) : Statement (.post w) := fun _ => Nat.zero_le _
theorem baseWrite (high : Bool) (w : Word) : Statement (.baseWrite high w) := fun _ => Nat.zero_le _
theorem start : Statement .start := fun _ => Nat.zero_le _
theorem stop : Statement .stop := fun _ => Nat.zero_le _
theorem resumeAdmin : Statement .resumeAdmin := fun _ => Nat.zero_le _
theorem deviceReset : Statement .deviceReset := fun _ => Nat.zero_le _
theorem commandInvalid (w : Word) : Statement (.commandInvalid w) := fun _ => Nat.zero_le _
theorem resetInput : Statement .resetInput := fun _ => Nat.zero_le _
theorem resetInputRelease : Statement .resetInputRelease := fun _ => Nat.zero_le _
theorem take : Statement .take := fun _ => Nat.zero_le _
theorem release : Statement .release := fun _ => Nat.zero_le _
theorem setMask (w : Word) : Statement (.setMask w) := fun _ => Nat.zero_le _
theorem registerWriteIgnored (offset : BitVec 5) (size : Nat) (w : Word) : Statement (.registerWriteIgnored offset size w) := fun _ => Nat.zero_le _
theorem hostPortAccessStart : Statement .hostPortAccessStart := fun _ => Nat.zero_le _
theorem busError (words : Nat) (startFirst : Bool) : Statement (.busError words startFirst) := fun _ => Nat.zero_le _
theorem controlBlockReadDone (block : List Byte) : Statement (.controlBlockReadDone block) := by
  intro h
  simp [Instr.wellFormed] at h
  simp only [carried]
  omega
theorem fetchClaim (n : LineNo) : Statement (.fetchClaim n) := fun _ => Nat.zero_le _
theorem takeLineRequest (rec : List Byte) : Statement (.takeLineRequest rec) := by
  intro h
  simp [Instr.wellFormed] at h
  simp only [carried]
  omega
theorem adminClaim : Statement .adminClaim := fun _ => Nat.zero_le _
theorem adminMalformed (rec : List Byte) : Statement (.adminMalformed rec) := by
  intro h
  simp [Instr.wellFormed] at h
  simp only [carried]
  omega
theorem lineSetup (rec : List Byte) : Statement (.lineSetup rec) := by
  intro h
  simp [Instr.wellFormed, isAdminRecord] at h
  simp only [carried]
  omega
theorem lineDisable (rec : List Byte) : Statement (.lineDisable rec) := by
  intro h
  simp [Instr.wellFormed, isAdminRecord] at h
  simp only [carried]
  omega
theorem lineDisableComplete : Statement .lineDisableComplete := fun _ => Nat.zero_le _
theorem lineReset (rec : List Byte) : Statement (.lineReset rec) := by
  intro h
  simp [Instr.wellFormed, isAdminRecord] at h
  simp only [carried]
  omega
theorem lineResetComplete : Statement .lineResetComplete := fun _ => Nat.zero_le _
theorem attach (rec : List Byte) : Statement (.attach rec) := by
  intro h
  simp [Instr.wellFormed, isAdminRecord] at h
  simp only [carried]
  omega
theorem detach (rec : List Byte) : Statement (.detach rec) := by
  intro h
  simp [Instr.wellFormed, isAdminRecord] at h
  simp only [carried]
  omega
theorem stationSet (rec : List Byte) : Statement (.stationSet rec) := by
  intro h
  simp [Instr.wellFormed, isAdminRecord] at h
  simp only [carried]
  omega
theorem stationRead (rec : List Byte) : Statement (.stationRead rec) := by
  intro h
  simp [Instr.wellFormed, isAdminRecord] at h
  simp only [carried]
  omega
theorem snapshotWriteDone : Statement .snapshotWriteDone := fun _ => Nat.zero_le _
theorem cancel (rec : List Byte) : Statement (.cancel rec) := by
  intro h
  simp [Instr.wellFormed, isAdminRecord] at h
  simp only [carried]
  omega
theorem queueResume (rec : List Byte) : Statement (.queueResume rec) := by
  intro h
  simp [Instr.wellFormed, isAdminRecord] at h
  simp only [carried]
  omega
theorem adminCompletionWriteDone : Statement .adminCompletionWriteDone := fun _ => Nat.zero_le _
theorem descriptorClaim (n : LineNo) : Statement (.descriptorClaim n) := fun _ => Nat.zero_le _
theorem descriptorReadDone (rec : List Byte) : Statement (.descriptorReadDone rec) := by
  intro h
  simp [Instr.wellFormed] at h
  simp only [carried]
  omega
theorem turnSelection (n : LineNo) : Statement (.turnSelection n) := fun _ => Nat.zero_le _
theorem retryTurnStart (n : LineNo) : Statement (.retryTurnStart n) := fun _ => Nat.zero_le _
theorem payloadReadDone (payload : List Byte) : Statement (.payloadReadDone payload) := by
  intro h
  simp [Instr.wellFormed] at h
  simp only [carried]
  omega
theorem guardEnd (n : LineNo) : Statement (.guardEnd n) := fun _ => Nat.zero_le _
theorem jamTimerExpiry (n : LineNo) : Statement (.jamTimerExpiry n) := fun _ => Nat.zero_le _
theorem sendDone (n : LineNo) : Statement (.sendDone n) := fun _ => Nat.zero_le _
theorem characterReceived (n : LineNo) (ch : Byte) (framing : Bool) (underDe : Bool) : Statement (.characterReceived n ch framing underDe) := fun _ => Nat.zero_le _
theorem replyTimerExpiry (n : LineNo) : Statement (.replyTimerExpiry n) := fun _ => Nat.zero_le _
theorem gapTimerExpiry (n : LineNo) : Statement (.gapTimerExpiry n) := fun _ => Nat.zero_le _
theorem bufferWriteDone : Statement .bufferWriteDone := fun _ => Nat.zero_le _
theorem answerWriteDone : Statement .answerWriteDone := fun _ => Nat.zero_le _
theorem pollTimerExpiry (n : LineNo) : Statement (.pollTimerExpiry n) := fun _ => Nat.zero_le _
theorem holdoffDeadlineReached (n : LineNo) (address : Byte) : Statement (.holdoffDeadlineReached n address) := fun _ => Nat.zero_le _
theorem queryPollDue (n : LineNo) (address : Byte) : Statement (.queryPollDue n address) := fun _ => Nat.zero_le _
theorem answerDeadline (n : LineNo) (address : Byte) : Statement (.answerDeadline n address) := fun _ => Nat.zero_le _
theorem slotEntersQueue (n : LineNo) : Statement (.slotEntersQueue n) := fun _ => Nat.zero_le _
theorem recordWriteStart (n : LineNo) : Statement (.recordWriteStart n) := fun _ => Nat.zero_le _
theorem recordWriteDone : Statement .recordWriteDone := fun _ => Nat.zero_le _
theorem eventWriteStart : Statement .eventWriteStart := fun _ => Nat.zero_le _
theorem eventWriteDone : Statement .eventWriteDone := fun _ => Nat.zero_le _
theorem drainComplete : Statement .drainComplete := fun _ => Nat.zero_le _

end Sys2Proof.Laws.RecordSize
end

