-- ==== Sys2Proof/Laws/State.lean ====
section
/-! SUPPORT. What each update of the state leaves alone: one lemma per field per update, so that no proof unfolds one. -/

namespace Sys2Proof.Machine

variable (s : State)

/-! ### Reading what was written -/

@[simp] theorem line_setLine (n m : LineNo) (l : Line) : (s.setLine n l).line m = if m = n then l else s.line m := by
  simp only [State.line, State.setLine]
  by_cases h : m = n
  · subst h; simp
  · have : n.val ≠ m.val := fun h' => h (Fin.ext h'.symm)
    simp [h, this]

@[simp] theorem line_onLine (n m : LineNo) (f : Line → Line) :
    (s.onLine n f).line m = if m = n then f (s.line n) else s.line m := by
  unfold State.onLine; simp

@[simp] theorem sqRing_setSq (k j : Fin 9) (r : HostRing) : (s.setSq k r).sqRing j = if j = k then r else s.sqRing j := by
  simp only [State.sqRing, State.setSq]
  by_cases h : j = k
  · subst h; simp
  · have : k.val ≠ j.val := fun h' => h (Fin.ext h'.symm)
    simp [h, this]

@[simp] theorem cqRing_setCq (k j : Fin 5) (r : PartRing) : (s.setCq k r).cqRing j = if j = k then r else s.cqRing j := by
  simp only [State.cqRing, State.setCq]
  by_cases h : j = k
  · subst h; simp
  · have : k.val ≠ j.val := fun h' => h (Fin.ext h'.symm)
    simp [h, this]

@[simp] theorem bqRing_setBq (n m : LineNo) (r : HostRing) : (s.setBq n r).bqRing m = if m = n then r else s.bqRing m := by
  simp only [State.bqRing, State.setBq]
  by_cases h : m = n
  · subst h; simp
  · have : n.val ≠ m.val := fun h' => h (Fin.ext h'.symm)
    simp [h, this]

/-- Two states whose lines agree one by one have the same lines. -/
theorem lines_ext {s t : State} (h : ∀ n, s.line n = t.line n) : s.lines = t.lines := by
  apply Vector.ext
  intro i hi
  exact h ⟨i, hi⟩

/-! ### Fields an update leaves alone -/

/-! `setLine` -/

@[simp] theorem pending_setLine (n : LineNo) (l : Line) : (s.setLine n l).pending = s.pending := rfl
@[simp] theorem control_setLine (n : LineNo) (l : Line) : (s.setLine n l).control = s.control := rfl
@[simp] theorem sq_setLine (n : LineNo) (l : Line) : (s.setLine n l).sq = s.sq := rfl
@[simp] theorem sqRing_setLine (n : LineNo) (l : Line) (j : Fin 9) : (s.setLine n l).sqRing j = s.sqRing j := rfl
@[simp] theorem cq_setLine (n : LineNo) (l : Line) : (s.setLine n l).cq = s.cq := rfl
@[simp] theorem cqRing_setLine (n : LineNo) (l : Line) (j : Fin 5) : (s.setLine n l).cqRing j = s.cqRing j := rfl
@[simp] theorem bq_setLine (n : LineNo) (l : Line) : (s.setLine n l).bq = s.bq := rfl
@[simp] theorem bqRing_setLine (n : LineNo) (l : Line) (m : LineNo) : (s.setLine n l).bqRing m = s.bqRing m := rfl
@[simp] theorem er_setLine (n : LineNo) (l : Line) : (s.setLine n l).er = s.er := rfl
@[simp] theorem admin_setLine (n : LineNo) (l : Line) : (s.setLine n l).admin = s.admin := rfl
@[simp] theorem port_setLine (n : LineNo) (l : Line) : (s.setLine n l).port = s.port := rfl
@[simp] theorem stations_setLine (n : LineNo) (l : Line) : (s.setLine n l).stations = s.stations := rfl
@[simp] theorem ring_setLine (n : LineNo) (l : Line) (m : LineNo) : (s.setLine n l).ring m = s.ring m := rfl
@[simp] theorem events_setLine (n : LineNo) (l : Line) : (s.setLine n l).events = s.events := rfl
@[simp] theorem resetHeld_setLine (n : LineNo) (l : Line) : (s.setLine n l).resetHeld = s.resetHeld := rfl
@[simp] theorem eventRead_setLine (n : LineNo) (l : Line) : (s.setLine n l).eventRead = s.eventRead := rfl
@[simp] theorem now_setLine (n : LineNo) (l : Line) : (s.setLine n l).now = s.now := rfl
@[simp] theorem freeDraws_setLine (n : LineNo) (l : Line) : (s.setLine n l).freeDraws = s.freeDraws := rfl
@[simp] theorem hostMem_setLine (n : LineNo) (l : Line) : (s.setLine n l).hostMem = s.hostMem := rfl

/-! `onLine` -/

@[simp] theorem pending_onLine (n : LineNo) (f : Line → Line) : (s.onLine n f).pending = s.pending := rfl
@[simp] theorem control_onLine (n : LineNo) (f : Line → Line) : (s.onLine n f).control = s.control := rfl
@[simp] theorem sq_onLine (n : LineNo) (f : Line → Line) : (s.onLine n f).sq = s.sq := rfl
@[simp] theorem sqRing_onLine (n : LineNo) (f : Line → Line) (j : Fin 9) : (s.onLine n f).sqRing j = s.sqRing j := rfl
@[simp] theorem cq_onLine (n : LineNo) (f : Line → Line) : (s.onLine n f).cq = s.cq := rfl
@[simp] theorem cqRing_onLine (n : LineNo) (f : Line → Line) (j : Fin 5) : (s.onLine n f).cqRing j = s.cqRing j := rfl
@[simp] theorem bq_onLine (n : LineNo) (f : Line → Line) : (s.onLine n f).bq = s.bq := rfl
@[simp] theorem bqRing_onLine (n : LineNo) (f : Line → Line) (m : LineNo) : (s.onLine n f).bqRing m = s.bqRing m := rfl
@[simp] theorem er_onLine (n : LineNo) (f : Line → Line) : (s.onLine n f).er = s.er := rfl
@[simp] theorem admin_onLine (n : LineNo) (f : Line → Line) : (s.onLine n f).admin = s.admin := rfl
@[simp] theorem port_onLine (n : LineNo) (f : Line → Line) : (s.onLine n f).port = s.port := rfl
@[simp] theorem stations_onLine (n : LineNo) (f : Line → Line) : (s.onLine n f).stations = s.stations := rfl
@[simp] theorem ring_onLine (n : LineNo) (f : Line → Line) (m : LineNo) : (s.onLine n f).ring m = s.ring m := rfl
@[simp] theorem events_onLine (n : LineNo) (f : Line → Line) : (s.onLine n f).events = s.events := rfl
@[simp] theorem resetHeld_onLine (n : LineNo) (f : Line → Line) : (s.onLine n f).resetHeld = s.resetHeld := rfl
@[simp] theorem eventRead_onLine (n : LineNo) (f : Line → Line) : (s.onLine n f).eventRead = s.eventRead := rfl
@[simp] theorem now_onLine (n : LineNo) (f : Line → Line) : (s.onLine n f).now = s.now := rfl
@[simp] theorem freeDraws_onLine (n : LineNo) (f : Line → Line) : (s.onLine n f).freeDraws = s.freeDraws := rfl
@[simp] theorem hostMem_onLine (n : LineNo) (f : Line → Line) : (s.onLine n f).hostMem = s.hostMem := rfl

/-! `setSq` -/

@[simp] theorem pending_setSq (k : Fin 9) (r : HostRing) : (s.setSq k r).pending = s.pending := rfl
@[simp] theorem control_setSq (k : Fin 9) (r : HostRing) : (s.setSq k r).control = s.control := rfl
@[simp] theorem cq_setSq (k : Fin 9) (r : HostRing) : (s.setSq k r).cq = s.cq := rfl
@[simp] theorem cqRing_setSq (k : Fin 9) (r : HostRing) (j : Fin 5) : (s.setSq k r).cqRing j = s.cqRing j := rfl
@[simp] theorem bq_setSq (k : Fin 9) (r : HostRing) : (s.setSq k r).bq = s.bq := rfl
@[simp] theorem bqRing_setSq (k : Fin 9) (r : HostRing) (m : LineNo) : (s.setSq k r).bqRing m = s.bqRing m := rfl
@[simp] theorem er_setSq (k : Fin 9) (r : HostRing) : (s.setSq k r).er = s.er := rfl
@[simp] theorem admin_setSq (k : Fin 9) (r : HostRing) : (s.setSq k r).admin = s.admin := rfl
@[simp] theorem port_setSq (k : Fin 9) (r : HostRing) : (s.setSq k r).port = s.port := rfl
@[simp] theorem stations_setSq (k : Fin 9) (r : HostRing) : (s.setSq k r).stations = s.stations := rfl
@[simp] theorem ring_setSq (k : Fin 9) (r : HostRing) (m : LineNo) : (s.setSq k r).ring m = s.ring m := rfl
@[simp] theorem lines_setSq (k : Fin 9) (r : HostRing) : (s.setSq k r).lines = s.lines := rfl
@[simp] theorem line_setSq (k : Fin 9) (r : HostRing) (m : LineNo) : (s.setSq k r).line m = s.line m := rfl
@[simp] theorem events_setSq (k : Fin 9) (r : HostRing) : (s.setSq k r).events = s.events := rfl
@[simp] theorem resetHeld_setSq (k : Fin 9) (r : HostRing) : (s.setSq k r).resetHeld = s.resetHeld := rfl
@[simp] theorem eventRead_setSq (k : Fin 9) (r : HostRing) : (s.setSq k r).eventRead = s.eventRead := rfl
@[simp] theorem now_setSq (k : Fin 9) (r : HostRing) : (s.setSq k r).now = s.now := rfl
@[simp] theorem freeDraws_setSq (k : Fin 9) (r : HostRing) : (s.setSq k r).freeDraws = s.freeDraws := rfl
@[simp] theorem hostMem_setSq (k : Fin 9) (r : HostRing) : (s.setSq k r).hostMem = s.hostMem := rfl

/-! `setCq` -/

@[simp] theorem pending_setCq (k : Fin 5) (r : PartRing) : (s.setCq k r).pending = s.pending := rfl
@[simp] theorem control_setCq (k : Fin 5) (r : PartRing) : (s.setCq k r).control = s.control := rfl
@[simp] theorem sq_setCq (k : Fin 5) (r : PartRing) : (s.setCq k r).sq = s.sq := rfl
@[simp] theorem sqRing_setCq (k : Fin 5) (r : PartRing) (j : Fin 9) : (s.setCq k r).sqRing j = s.sqRing j := rfl
@[simp] theorem bq_setCq (k : Fin 5) (r : PartRing) : (s.setCq k r).bq = s.bq := rfl
@[simp] theorem bqRing_setCq (k : Fin 5) (r : PartRing) (m : LineNo) : (s.setCq k r).bqRing m = s.bqRing m := rfl
@[simp] theorem er_setCq (k : Fin 5) (r : PartRing) : (s.setCq k r).er = s.er := rfl
@[simp] theorem admin_setCq (k : Fin 5) (r : PartRing) : (s.setCq k r).admin = s.admin := rfl
@[simp] theorem port_setCq (k : Fin 5) (r : PartRing) : (s.setCq k r).port = s.port := rfl
@[simp] theorem stations_setCq (k : Fin 5) (r : PartRing) : (s.setCq k r).stations = s.stations := rfl
@[simp] theorem ring_setCq (k : Fin 5) (r : PartRing) (m : LineNo) : (s.setCq k r).ring m = s.ring m := rfl
@[simp] theorem lines_setCq (k : Fin 5) (r : PartRing) : (s.setCq k r).lines = s.lines := rfl
@[simp] theorem line_setCq (k : Fin 5) (r : PartRing) (m : LineNo) : (s.setCq k r).line m = s.line m := rfl
@[simp] theorem events_setCq (k : Fin 5) (r : PartRing) : (s.setCq k r).events = s.events := rfl
@[simp] theorem resetHeld_setCq (k : Fin 5) (r : PartRing) : (s.setCq k r).resetHeld = s.resetHeld := rfl
@[simp] theorem eventRead_setCq (k : Fin 5) (r : PartRing) : (s.setCq k r).eventRead = s.eventRead := rfl
@[simp] theorem now_setCq (k : Fin 5) (r : PartRing) : (s.setCq k r).now = s.now := rfl
@[simp] theorem freeDraws_setCq (k : Fin 5) (r : PartRing) : (s.setCq k r).freeDraws = s.freeDraws := rfl
@[simp] theorem hostMem_setCq (k : Fin 5) (r : PartRing) : (s.setCq k r).hostMem = s.hostMem := rfl

/-! `setBq` -/

@[simp] theorem pending_setBq (n : LineNo) (r : HostRing) : (s.setBq n r).pending = s.pending := rfl
@[simp] theorem control_setBq (n : LineNo) (r : HostRing) : (s.setBq n r).control = s.control := rfl
@[simp] theorem sq_setBq (n : LineNo) (r : HostRing) : (s.setBq n r).sq = s.sq := rfl
@[simp] theorem sqRing_setBq (n : LineNo) (r : HostRing) (j : Fin 9) : (s.setBq n r).sqRing j = s.sqRing j := rfl
@[simp] theorem cq_setBq (n : LineNo) (r : HostRing) : (s.setBq n r).cq = s.cq := rfl
@[simp] theorem cqRing_setBq (n : LineNo) (r : HostRing) (j : Fin 5) : (s.setBq n r).cqRing j = s.cqRing j := rfl
@[simp] theorem er_setBq (n : LineNo) (r : HostRing) : (s.setBq n r).er = s.er := rfl
@[simp] theorem admin_setBq (n : LineNo) (r : HostRing) : (s.setBq n r).admin = s.admin := rfl
@[simp] theorem port_setBq (n : LineNo) (r : HostRing) : (s.setBq n r).port = s.port := rfl
@[simp] theorem stations_setBq (n : LineNo) (r : HostRing) : (s.setBq n r).stations = s.stations := rfl
@[simp] theorem ring_setBq (n : LineNo) (r : HostRing) (m : LineNo) : (s.setBq n r).ring m = s.ring m := rfl
@[simp] theorem lines_setBq (n : LineNo) (r : HostRing) : (s.setBq n r).lines = s.lines := rfl
@[simp] theorem line_setBq (n : LineNo) (r : HostRing) (m : LineNo) : (s.setBq n r).line m = s.line m := rfl
@[simp] theorem events_setBq (n : LineNo) (r : HostRing) : (s.setBq n r).events = s.events := rfl
@[simp] theorem resetHeld_setBq (n : LineNo) (r : HostRing) : (s.setBq n r).resetHeld = s.resetHeld := rfl
@[simp] theorem eventRead_setBq (n : LineNo) (r : HostRing) : (s.setBq n r).eventRead = s.eventRead := rfl
@[simp] theorem now_setBq (n : LineNo) (r : HostRing) : (s.setBq n r).now = s.now := rfl
@[simp] theorem freeDraws_setBq (n : LineNo) (r : HostRing) : (s.setBq n r).freeDraws = s.freeDraws := rfl
@[simp] theorem hostMem_setBq (n : LineNo) (r : HostRing) : (s.setBq n r).hostMem = s.hostMem := rfl

/-! `onStation` -/

@[simp] theorem pending_onStation (n : LineNo) (a : Byte) (f : Station → Station) : (s.onStation n a f).pending = s.pending := rfl
@[simp] theorem control_onStation (n : LineNo) (a : Byte) (f : Station → Station) : (s.onStation n a f).control = s.control := rfl
@[simp] theorem sq_onStation (n : LineNo) (a : Byte) (f : Station → Station) : (s.onStation n a f).sq = s.sq := rfl
@[simp] theorem sqRing_onStation (n : LineNo) (a : Byte) (f : Station → Station) (j : Fin 9) : (s.onStation n a f).sqRing j = s.sqRing j := rfl
@[simp] theorem cq_onStation (n : LineNo) (a : Byte) (f : Station → Station) : (s.onStation n a f).cq = s.cq := rfl
@[simp] theorem cqRing_onStation (n : LineNo) (a : Byte) (f : Station → Station) (j : Fin 5) : (s.onStation n a f).cqRing j = s.cqRing j := rfl
@[simp] theorem bq_onStation (n : LineNo) (a : Byte) (f : Station → Station) : (s.onStation n a f).bq = s.bq := rfl
@[simp] theorem bqRing_onStation (n : LineNo) (a : Byte) (f : Station → Station) (m : LineNo) : (s.onStation n a f).bqRing m = s.bqRing m := rfl
@[simp] theorem er_onStation (n : LineNo) (a : Byte) (f : Station → Station) : (s.onStation n a f).er = s.er := rfl
@[simp] theorem admin_onStation (n : LineNo) (a : Byte) (f : Station → Station) : (s.onStation n a f).admin = s.admin := rfl
@[simp] theorem port_onStation (n : LineNo) (a : Byte) (f : Station → Station) : (s.onStation n a f).port = s.port := rfl
@[simp] theorem lines_onStation (n : LineNo) (a : Byte) (f : Station → Station) : (s.onStation n a f).lines = s.lines := rfl
@[simp] theorem line_onStation (n : LineNo) (a : Byte) (f : Station → Station) (m : LineNo) : (s.onStation n a f).line m = s.line m := rfl
@[simp] theorem events_onStation (n : LineNo) (a : Byte) (f : Station → Station) : (s.onStation n a f).events = s.events := rfl
@[simp] theorem resetHeld_onStation (n : LineNo) (a : Byte) (f : Station → Station) : (s.onStation n a f).resetHeld = s.resetHeld := rfl
@[simp] theorem eventRead_onStation (n : LineNo) (a : Byte) (f : Station → Station) : (s.onStation n a f).eventRead = s.eventRead := rfl
@[simp] theorem now_onStation (n : LineNo) (a : Byte) (f : Station → Station) : (s.onStation n a f).now = s.now := rfl
@[simp] theorem freeDraws_onStation (n : LineNo) (a : Byte) (f : Station → Station) : (s.onStation n a f).freeDraws = s.freeDraws := rfl
@[simp] theorem hostMem_onStation (n : LineNo) (a : Byte) (f : Station → Station) : (s.onStation n a f).hostMem = s.hostMem := rfl

/-! `unlist` -/

@[simp] theorem pending_unlist (n : LineNo) (k : SlotNo) : (s.unlist n k).pending = s.pending := rfl
@[simp] theorem control_unlist (n : LineNo) (k : SlotNo) : (s.unlist n k).control = s.control := rfl
@[simp] theorem sq_unlist (n : LineNo) (k : SlotNo) : (s.unlist n k).sq = s.sq := rfl
@[simp] theorem sqRing_unlist (n : LineNo) (k : SlotNo) (j : Fin 9) : (s.unlist n k).sqRing j = s.sqRing j := rfl
@[simp] theorem cq_unlist (n : LineNo) (k : SlotNo) : (s.unlist n k).cq = s.cq := rfl
@[simp] theorem cqRing_unlist (n : LineNo) (k : SlotNo) (j : Fin 5) : (s.unlist n k).cqRing j = s.cqRing j := rfl
@[simp] theorem bq_unlist (n : LineNo) (k : SlotNo) : (s.unlist n k).bq = s.bq := rfl
@[simp] theorem bqRing_unlist (n : LineNo) (k : SlotNo) (m : LineNo) : (s.unlist n k).bqRing m = s.bqRing m := rfl
@[simp] theorem er_unlist (n : LineNo) (k : SlotNo) : (s.unlist n k).er = s.er := rfl
@[simp] theorem admin_unlist (n : LineNo) (k : SlotNo) : (s.unlist n k).admin = s.admin := rfl
@[simp] theorem port_unlist (n : LineNo) (k : SlotNo) : (s.unlist n k).port = s.port := rfl
@[simp] theorem lines_unlist (n : LineNo) (k : SlotNo) : (s.unlist n k).lines = s.lines := rfl
@[simp] theorem line_unlist (n : LineNo) (k : SlotNo) (m : LineNo) : (s.unlist n k).line m = s.line m := rfl
@[simp] theorem events_unlist (n : LineNo) (k : SlotNo) : (s.unlist n k).events = s.events := rfl
@[simp] theorem resetHeld_unlist (n : LineNo) (k : SlotNo) : (s.unlist n k).resetHeld = s.resetHeld := rfl
@[simp] theorem eventRead_unlist (n : LineNo) (k : SlotNo) : (s.unlist n k).eventRead = s.eventRead := rfl
@[simp] theorem now_unlist (n : LineNo) (k : SlotNo) : (s.unlist n k).now = s.now := rfl
@[simp] theorem freeDraws_unlist (n : LineNo) (k : SlotNo) : (s.unlist n k).freeDraws = s.freeDraws := rfl
@[simp] theorem hostMem_unlist (n : LineNo) (k : SlotNo) : (s.unlist n k).hostMem = s.hostMem := rfl

/-! `resyncLine` -/

@[simp] theorem pending_resyncLine (n : LineNo) : (s.resyncLine n).pending = s.pending := rfl
@[simp] theorem control_resyncLine (n : LineNo) : (s.resyncLine n).control = s.control := rfl
@[simp] theorem sq_resyncLine (n : LineNo) : (s.resyncLine n).sq = s.sq := rfl
@[simp] theorem sqRing_resyncLine (n : LineNo) (j : Fin 9) : (s.resyncLine n).sqRing j = s.sqRing j := rfl
@[simp] theorem cq_resyncLine (n : LineNo) : (s.resyncLine n).cq = s.cq := rfl
@[simp] theorem cqRing_resyncLine (n : LineNo) (j : Fin 5) : (s.resyncLine n).cqRing j = s.cqRing j := rfl
@[simp] theorem bq_resyncLine (n : LineNo) : (s.resyncLine n).bq = s.bq := rfl
@[simp] theorem bqRing_resyncLine (n : LineNo) (m : LineNo) : (s.resyncLine n).bqRing m = s.bqRing m := rfl
@[simp] theorem er_resyncLine (n : LineNo) : (s.resyncLine n).er = s.er := rfl
@[simp] theorem admin_resyncLine (n : LineNo) : (s.resyncLine n).admin = s.admin := rfl
@[simp] theorem port_resyncLine (n : LineNo) : (s.resyncLine n).port = s.port := rfl
@[simp] theorem lines_resyncLine (n : LineNo) : (s.resyncLine n).lines = s.lines := rfl
@[simp] theorem line_resyncLine (n : LineNo) (m : LineNo) : (s.resyncLine n).line m = s.line m := rfl
@[simp] theorem events_resyncLine (n : LineNo) : (s.resyncLine n).events = s.events := rfl
@[simp] theorem resetHeld_resyncLine (n : LineNo) : (s.resyncLine n).resetHeld = s.resetHeld := rfl
@[simp] theorem eventRead_resyncLine (n : LineNo) : (s.resyncLine n).eventRead = s.eventRead := rfl
@[simp] theorem now_resyncLine (n : LineNo) : (s.resyncLine n).now = s.now := rfl
@[simp] theorem freeDraws_resyncLine (n : LineNo) : (s.resyncLine n).freeDraws = s.freeDraws := rfl
@[simp] theorem hostMem_resyncLine (n : LineNo) : (s.resyncLine n).hostMem = s.hostMem := rfl

/-! `request` -/

@[simp] theorem pending_request (a : Access) : (s.request a).pending = s.pending := rfl
@[simp] theorem control_request (a : Access) : (s.request a).control = s.control := rfl
@[simp] theorem sq_request (a : Access) : (s.request a).sq = s.sq := rfl
@[simp] theorem sqRing_request (a : Access) (j : Fin 9) : (s.request a).sqRing j = s.sqRing j := rfl
@[simp] theorem cq_request (a : Access) : (s.request a).cq = s.cq := rfl
@[simp] theorem cqRing_request (a : Access) (j : Fin 5) : (s.request a).cqRing j = s.cqRing j := rfl
@[simp] theorem bq_request (a : Access) : (s.request a).bq = s.bq := rfl
@[simp] theorem bqRing_request (a : Access) (m : LineNo) : (s.request a).bqRing m = s.bqRing m := rfl
@[simp] theorem er_request (a : Access) : (s.request a).er = s.er := rfl
@[simp] theorem admin_request (a : Access) : (s.request a).admin = s.admin := rfl
@[simp] theorem stations_request (a : Access) : (s.request a).stations = s.stations := rfl
@[simp] theorem ring_request (a : Access) (m : LineNo) : (s.request a).ring m = s.ring m := rfl
@[simp] theorem lines_request (a : Access) : (s.request a).lines = s.lines := rfl
@[simp] theorem line_request (a : Access) (m : LineNo) : (s.request a).line m = s.line m := rfl
@[simp] theorem events_request (a : Access) : (s.request a).events = s.events := rfl
@[simp] theorem resetHeld_request (a : Access) : (s.request a).resetHeld = s.resetHeld := rfl
@[simp] theorem eventRead_request (a : Access) : (s.request a).eventRead = s.eventRead := rfl
@[simp] theorem now_request (a : Access) : (s.request a).now = s.now := rfl
@[simp] theorem freeDraws_request (a : Access) : (s.request a).freeDraws = s.freeDraws := rfl
@[simp] theorem hostMem_request (a : Access) : (s.request a).hostMem = s.hostMem := rfl

/-! `reach` -/

@[simp] theorem pending_reach (t : Nat) : (s.reach t).pending = s.pending := rfl
@[simp] theorem control_reach (t : Nat) : (s.reach t).control = s.control := rfl
@[simp] theorem sq_reach (t : Nat) : (s.reach t).sq = s.sq := rfl
@[simp] theorem sqRing_reach (t : Nat) (j : Fin 9) : (s.reach t).sqRing j = s.sqRing j := rfl
@[simp] theorem cq_reach (t : Nat) : (s.reach t).cq = s.cq := rfl
@[simp] theorem cqRing_reach (t : Nat) (j : Fin 5) : (s.reach t).cqRing j = s.cqRing j := rfl
@[simp] theorem bq_reach (t : Nat) : (s.reach t).bq = s.bq := rfl
@[simp] theorem bqRing_reach (t : Nat) (m : LineNo) : (s.reach t).bqRing m = s.bqRing m := rfl
@[simp] theorem er_reach (t : Nat) : (s.reach t).er = s.er := rfl
@[simp] theorem admin_reach (t : Nat) : (s.reach t).admin = s.admin := rfl
@[simp] theorem port_reach (t : Nat) : (s.reach t).port = s.port := rfl
@[simp] theorem stations_reach (t : Nat) : (s.reach t).stations = s.stations := rfl
@[simp] theorem ring_reach (t : Nat) (m : LineNo) : (s.reach t).ring m = s.ring m := rfl
@[simp] theorem lines_reach (t : Nat) : (s.reach t).lines = s.lines := rfl
@[simp] theorem line_reach (t : Nat) (m : LineNo) : (s.reach t).line m = s.line m := rfl
@[simp] theorem events_reach (t : Nat) : (s.reach t).events = s.events := rfl
@[simp] theorem resetHeld_reach (t : Nat) : (s.reach t).resetHeld = s.resetHeld := rfl
@[simp] theorem eventRead_reach (t : Nat) : (s.reach t).eventRead = s.eventRead := rfl
@[simp] theorem freeDraws_reach (t : Nat) : (s.reach t).freeDraws = s.freeDraws := rfl
@[simp] theorem hostMem_reach (t : Nat) : (s.reach t).hostMem = s.hostMem := rfl

/-! `finishAccess` -/

@[simp] theorem pending_finishAccess (a : Access) : (s.finishAccess a).pending = s.pending := rfl
@[simp] theorem control_finishAccess (a : Access) : (s.finishAccess a).control = s.control := rfl
@[simp] theorem sq_finishAccess (a : Access) : (s.finishAccess a).sq = s.sq := rfl
@[simp] theorem sqRing_finishAccess (a : Access) (j : Fin 9) : (s.finishAccess a).sqRing j = s.sqRing j := rfl
@[simp] theorem cq_finishAccess (a : Access) : (s.finishAccess a).cq = s.cq := rfl
@[simp] theorem cqRing_finishAccess (a : Access) (j : Fin 5) : (s.finishAccess a).cqRing j = s.cqRing j := rfl
@[simp] theorem bq_finishAccess (a : Access) : (s.finishAccess a).bq = s.bq := rfl
@[simp] theorem bqRing_finishAccess (a : Access) (m : LineNo) : (s.finishAccess a).bqRing m = s.bqRing m := rfl
@[simp] theorem er_finishAccess (a : Access) : (s.finishAccess a).er = s.er := rfl
@[simp] theorem admin_finishAccess (a : Access) : (s.finishAccess a).admin = s.admin := rfl
@[simp] theorem stations_finishAccess (a : Access) : (s.finishAccess a).stations = s.stations := rfl
@[simp] theorem ring_finishAccess (a : Access) (m : LineNo) : (s.finishAccess a).ring m = s.ring m := rfl
@[simp] theorem lines_finishAccess (a : Access) : (s.finishAccess a).lines = s.lines := rfl
@[simp] theorem line_finishAccess (a : Access) (m : LineNo) : (s.finishAccess a).line m = s.line m := rfl
@[simp] theorem events_finishAccess (a : Access) : (s.finishAccess a).events = s.events := rfl
@[simp] theorem resetHeld_finishAccess (a : Access) : (s.finishAccess a).resetHeld = s.resetHeld := rfl
@[simp] theorem eventRead_finishAccess (a : Access) : (s.finishAccess a).eventRead = s.eventRead := rfl
@[simp] theorem now_finishAccess (a : Access) : (s.finishAccess a).now = s.now := rfl
@[simp] theorem freeDraws_finishAccess (a : Access) : (s.finishAccess a).freeDraws = s.freeDraws := rfl

/-! `dropRecord` -/

@[simp] theorem pending_dropRecord (a : Access) : (s.dropRecord a).pending = s.pending := rfl
@[simp] theorem control_dropRecord (a : Access) : (s.dropRecord a).control = s.control := rfl
@[simp] theorem sq_dropRecord (a : Access) : (s.dropRecord a).sq = s.sq := rfl
@[simp] theorem sqRing_dropRecord (a : Access) (j : Fin 9) : (s.dropRecord a).sqRing j = s.sqRing j := rfl
@[simp] theorem cq_dropRecord (a : Access) : (s.dropRecord a).cq = s.cq := rfl
@[simp] theorem cqRing_dropRecord (a : Access) (j : Fin 5) : (s.dropRecord a).cqRing j = s.cqRing j := rfl
@[simp] theorem bq_dropRecord (a : Access) : (s.dropRecord a).bq = s.bq := rfl
@[simp] theorem bqRing_dropRecord (a : Access) (m : LineNo) : (s.dropRecord a).bqRing m = s.bqRing m := rfl
@[simp] theorem er_dropRecord (a : Access) : (s.dropRecord a).er = s.er := rfl
@[simp] theorem admin_dropRecord (a : Access) : (s.dropRecord a).admin = s.admin := rfl
@[simp] theorem stations_dropRecord (a : Access) : (s.dropRecord a).stations = s.stations := rfl
@[simp] theorem ring_dropRecord (a : Access) (m : LineNo) : (s.dropRecord a).ring m = s.ring m := rfl
@[simp] theorem lines_dropRecord (a : Access) : (s.dropRecord a).lines = s.lines := rfl
@[simp] theorem line_dropRecord (a : Access) (m : LineNo) : (s.dropRecord a).line m = s.line m := rfl
@[simp] theorem events_dropRecord (a : Access) : (s.dropRecord a).events = s.events := rfl
@[simp] theorem resetHeld_dropRecord (a : Access) : (s.dropRecord a).resetHeld = s.resetHeld := rfl
@[simp] theorem eventRead_dropRecord (a : Access) : (s.dropRecord a).eventRead = s.eventRead := rfl
@[simp] theorem now_dropRecord (a : Access) : (s.dropRecord a).now = s.now := rfl
@[simp] theorem freeDraws_dropRecord (a : Access) : (s.dropRecord a).freeDraws = s.freeDraws + 1 := rfl

/-! `classPending` -/

@[simp] theorem pending_classPending (k : Nat) : (s.classPending k).pending = s.pending := rfl
@[simp] theorem control_classPending (k : Nat) : (s.classPending k).control = s.control := rfl
@[simp] theorem sq_classPending (k : Nat) : (s.classPending k).sq = s.sq := rfl
@[simp] theorem sqRing_classPending (k : Nat) (j : Fin 9) : (s.classPending k).sqRing j = s.sqRing j := rfl
@[simp] theorem cq_classPending (k : Nat) : (s.classPending k).cq = s.cq := rfl
@[simp] theorem cqRing_classPending (k : Nat) (j : Fin 5) : (s.classPending k).cqRing j = s.cqRing j := rfl
@[simp] theorem bq_classPending (k : Nat) : (s.classPending k).bq = s.bq := rfl
@[simp] theorem bqRing_classPending (k : Nat) (m : LineNo) : (s.classPending k).bqRing m = s.bqRing m := rfl
@[simp] theorem er_classPending (k : Nat) : (s.classPending k).er = s.er := rfl
@[simp] theorem admin_classPending (k : Nat) : (s.classPending k).admin = s.admin := rfl
@[simp] theorem port_classPending (k : Nat) : (s.classPending k).port = s.port := rfl
@[simp] theorem stations_classPending (k : Nat) : (s.classPending k).stations = s.stations := rfl
@[simp] theorem ring_classPending (k : Nat) (m : LineNo) : (s.classPending k).ring m = s.ring m := rfl
@[simp] theorem lines_classPending (k : Nat) : (s.classPending k).lines = s.lines := rfl
@[simp] theorem line_classPending (k : Nat) (m : LineNo) : (s.classPending k).line m = s.line m := rfl
@[simp] theorem resetHeld_classPending (k : Nat) : (s.classPending k).resetHeld = s.resetHeld := rfl
@[simp] theorem eventRead_classPending (k : Nat) : (s.classPending k).eventRead = s.eventRead := rfl
@[simp] theorem now_classPending (k : Nat) : (s.classPending k).now = s.now := rfl
@[simp] theorem freeDraws_classPending (k : Nat) : (s.classPending k).freeDraws = s.freeDraws := rfl
@[simp] theorem hostMem_classPending (k : Nat) : (s.classPending k).hostMem = s.hostMem := rfl

/-! `offer` -/

@[simp] theorem pending_offer (r : EventRecord) : (s.offer r).pending = s.pending := by unfold State.offer; split <;> rfl
@[simp] theorem control_offer (r : EventRecord) : (s.offer r).control = s.control := by unfold State.offer; split <;> rfl
@[simp] theorem sq_offer (r : EventRecord) : (s.offer r).sq = s.sq := by unfold State.offer; split <;> rfl
@[simp] theorem sqRing_offer (r : EventRecord) (j : Fin 9) : (s.offer r).sqRing j = s.sqRing j := by unfold State.offer; split <;> rfl
@[simp] theorem cq_offer (r : EventRecord) : (s.offer r).cq = s.cq := by unfold State.offer; split <;> rfl
@[simp] theorem cqRing_offer (r : EventRecord) (j : Fin 5) : (s.offer r).cqRing j = s.cqRing j := by unfold State.offer; split <;> rfl
@[simp] theorem bq_offer (r : EventRecord) : (s.offer r).bq = s.bq := by unfold State.offer; split <;> rfl
@[simp] theorem bqRing_offer (r : EventRecord) (m : LineNo) : (s.offer r).bqRing m = s.bqRing m := by unfold State.offer; split <;> rfl
@[simp] theorem er_offer (r : EventRecord) : (s.offer r).er = s.er := by unfold State.offer; split <;> rfl
@[simp] theorem admin_offer (r : EventRecord) : (s.offer r).admin = s.admin := by unfold State.offer; split <;> rfl
@[simp] theorem port_offer (r : EventRecord) : (s.offer r).port = s.port := by unfold State.offer; split <;> rfl
@[simp] theorem stations_offer (r : EventRecord) : (s.offer r).stations = s.stations := by unfold State.offer; split <;> rfl
@[simp] theorem ring_offer (r : EventRecord) (m : LineNo) : (s.offer r).ring m = s.ring m := by unfold State.offer; split <;> rfl
@[simp] theorem lines_offer (r : EventRecord) : (s.offer r).lines = s.lines := by unfold State.offer; split <;> rfl
@[simp] theorem line_offer (r : EventRecord) (m : LineNo) : (s.offer r).line m = s.line m := by unfold State.offer; split <;> rfl
@[simp] theorem resetHeld_offer (r : EventRecord) : (s.offer r).resetHeld = s.resetHeld := by unfold State.offer; split <;> rfl
@[simp] theorem eventRead_offer (r : EventRecord) : (s.offer r).eventRead = s.eventRead := by unfold State.offer; split <;> rfl
@[simp] theorem now_offer (r : EventRecord) : (s.offer r).now = s.now := by unfold State.offer; split <;> rfl
@[simp] theorem freeDraws_offer (r : EventRecord) : (s.offer r).freeDraws = s.freeDraws := by unfold State.offer; split <;> rfl
@[simp] theorem hostMem_offer (r : EventRecord) : (s.offer r).hostMem = s.hostMem := by unfold State.offer; split <;> rfl

/-! `completeAdmin` -/

@[simp] theorem pending_completeAdmin (tag : Half) (st : AdminStatus) (station length : Byte) : (s.completeAdmin tag st station length).pending = s.pending := rfl
@[simp] theorem control_completeAdmin (tag : Half) (st : AdminStatus) (station length : Byte) : (s.completeAdmin tag st station length).control = s.control := rfl
@[simp] theorem sq_completeAdmin (tag : Half) (st : AdminStatus) (station length : Byte) : (s.completeAdmin tag st station length).sq = s.sq := rfl
@[simp] theorem sqRing_completeAdmin (tag : Half) (st : AdminStatus) (station length : Byte) (j : Fin 9) : (s.completeAdmin tag st station length).sqRing j = s.sqRing j := rfl
@[simp] theorem cq_completeAdmin (tag : Half) (st : AdminStatus) (station length : Byte) : (s.completeAdmin tag st station length).cq = s.cq := rfl
@[simp] theorem cqRing_completeAdmin (tag : Half) (st : AdminStatus) (station length : Byte) (j : Fin 5) : (s.completeAdmin tag st station length).cqRing j = s.cqRing j := rfl
@[simp] theorem bq_completeAdmin (tag : Half) (st : AdminStatus) (station length : Byte) : (s.completeAdmin tag st station length).bq = s.bq := rfl
@[simp] theorem bqRing_completeAdmin (tag : Half) (st : AdminStatus) (station length : Byte) (m : LineNo) : (s.completeAdmin tag st station length).bqRing m = s.bqRing m := rfl
@[simp] theorem er_completeAdmin (tag : Half) (st : AdminStatus) (station length : Byte) : (s.completeAdmin tag st station length).er = s.er := rfl
@[simp] theorem stations_completeAdmin (tag : Half) (st : AdminStatus) (station length : Byte) : (s.completeAdmin tag st station length).stations = s.stations := rfl
@[simp] theorem ring_completeAdmin (tag : Half) (st : AdminStatus) (station length : Byte) (m : LineNo) : (s.completeAdmin tag st station length).ring m = s.ring m := rfl
@[simp] theorem lines_completeAdmin (tag : Half) (st : AdminStatus) (station length : Byte) : (s.completeAdmin tag st station length).lines = s.lines := rfl
@[simp] theorem line_completeAdmin (tag : Half) (st : AdminStatus) (station length : Byte) (m : LineNo) : (s.completeAdmin tag st station length).line m = s.line m := rfl
@[simp] theorem events_completeAdmin (tag : Half) (st : AdminStatus) (station length : Byte) : (s.completeAdmin tag st station length).events = s.events := rfl
@[simp] theorem resetHeld_completeAdmin (tag : Half) (st : AdminStatus) (station length : Byte) : (s.completeAdmin tag st station length).resetHeld = s.resetHeld := rfl
@[simp] theorem eventRead_completeAdmin (tag : Half) (st : AdminStatus) (station length : Byte) : (s.completeAdmin tag st station length).eventRead = s.eventRead := rfl
@[simp] theorem now_completeAdmin (tag : Half) (st : AdminStatus) (station length : Byte) : (s.completeAdmin tag st station length).now = s.now := rfl
@[simp] theorem freeDraws_completeAdmin (tag : Half) (st : AdminStatus) (station length : Byte) : (s.completeAdmin tag st station length).freeDraws = s.freeDraws := rfl
@[simp] theorem hostMem_completeAdmin (tag : Half) (st : AdminStatus) (station length : Byte) : (s.completeAdmin tag st station length).hostMem = s.hostMem := rfl

end Sys2Proof.Machine
end

