-- ==== Sys2Proof/Laws/Receiver.lean ====
section
/-! SUPPORT. What a sample of RXD can do, and runs of samples. -/

namespace Sys2Proof.Machine

/-- Two runs of samples one after the other. -/
theorem feed_append (de : Bool) : ∀ (a b : List Bool) (r : Receiver),
    r.feed de (a ++ b) = (((r.feed de a).1.feed de b).1, (r.feed de a).2 ++ ((r.feed de a).1.feed de b).2)
  | [], _, _ => rfl
  | level :: a, b, r => by simp [Receiver.feed, feed_append de a b]

/-- Samples within a character, none of them its last, are only kept: the middle of its start bit being at level 0. -/
theorem feed_within (de underDe : Bool) : ∀ (levels samples : List Bool) (level : Bool),
    samples.length + levels.length < 154 → (samples ++ levels).getD 8 false = false →
    Receiver.feed ⟨level, .character underDe samples⟩ de levels
      = (⟨levels.getLastD level, .character underDe (samples ++ levels)⟩, [])
  | [], samples, level, _, _ => by simp [Receiver.feed]
  | x :: xs, samples, level, h, h8 => by
    have hx : (samples ++ [x] ++ xs).getD 8 false = false := by simpa using h8
    have keep : characterSampled underDe (samples ++ [x]) x = (⟨x, .character underDe (samples ++ [x])⟩, none) := by
      unfold characterSampled
      rw [if_neg, if_pos]
      · simp only [List.length_append, List.length_cons, List.length_nil] at h ⊢; omega
      · rintro ⟨hl, hv⟩
        simp only [List.length_append, List.length_cons, List.length_nil] at hl
        rw [List.getD_eq_getElem?_getD, List.append_assoc, List.getElem?_append_right (by omega)] at hx
        simp [show 8 - samples.length = 0 by omega, hv] at hx
    have rest := feed_within de underDe xs (samples ++ [x]) x (by simp at h ⊢; omega) hx
    simp only [Receiver.feed, Receiver.sample, keep, rest]
    cases xs <;> simp [List.getLast?_cons]

/-- The last sample of a character: the stop bit is taken. -/
theorem sample_stop (de underDe level x : Bool) (samples : List Bool) (h : samples.length = 153) :
    Receiver.sample ⟨level, .character underDe samples⟩ de x
      = (⟨x, if bitTaken (samples ++ [x]) 9 then .idle else .hold 0⟩,
        some ⟨dataTaken (samples ++ [x]), !bitTaken (samples ++ [x]) 9, underDe⟩) := by
  simp [Receiver.sample, characterSampled, h]

/-- A sample changes one line's receiver and adds to the queue, and nothing else. -/
theorem rxdSampled_eq (s : State) (n : LineNo) (level : Bool) :
    ∃ rx more, s.rxdSampled n level
      = { s.onLine n (fun l => { l with rx := rx }) with pending := s.pending ++ more } := by
  unfold State.rxdSampled
  split
  · exact ⟨_, _, rfl⟩
  · refine ⟨(s.line n).rx, [], ?_⟩
    have h : (s.onLine n fun l => { l with rx := (s.line n).rx }).lines = s.lines := by
      apply lines_ext
      intro m
      rw [line_onLine]
      split
      · next h => subst h; rfl
      · rfl
    have e : s.onLine n (fun l => { l with rx := (s.line n).rx }) = { s with
        lines := (s.onLine n fun l => { l with rx := (s.line n).rx }).lines } := rfl
    rw [e, h]; simp

/-- A DISABLED line's receiver forms no characters (R38). -/
theorem rxdSampled_disabled (s : State) (n : LineNo) (level : Bool) (h : (s.line n).state = .disabled) :
    s.rxdSampled n level = s := by
  unfold State.rxdSampled; simp [Line.enabled, h]

end Sys2Proof.Machine
end

