-- ==== Sys2Proof/Laws/Settling.lean ====
section
/-! SUPPORT. What the operations behind a turn's end may change: one relation, and one lemma per operation. -/

namespace Sys2Proof.Machine

/-- What settling leaves of its own line: everything but the pool, the scheduler, the transmit buffer, the held latch, the
reservation mark and an emptied cache. -/
structure Line.Settled (l l' : Line) : Prop where
  config : l'.config = l.config
  state : l'.state = l.state
  de : l'.de = l.de
  rx : l'.rx = l.rx
  fetch : l'.fetch = l.fetch
  streak : l'.streak = l.streak
  queue : l'.post.queue = l.post.queue
  reservation : l'.post.reservation = l.post.reservation
  writing : l'.post.writing = l.post.writing
  reading : l'.buf.reading = l.buf.reading
  exhausted : l'.buf.exhausted = l.buf.exhausted
  cache : l'.buf.cache = l.buf.cache ∨ l'.buf.cache = []

theorem Line.Settled.refl (l : Line) : Line.Settled l l := ⟨rfl, rfl, rfl, rfl, rfl, rfl, rfl, rfl, rfl, rfl, rfl, .inl rfl⟩

theorem Line.Settled.trans {a b c : Line} (h : Line.Settled a b) (k : Line.Settled b c) : Line.Settled a c where
  config := k.config.trans h.config
  state := k.state.trans h.state
  de := k.de.trans h.de
  rx := k.rx.trans h.rx
  fetch := k.fetch.trans h.fetch
  streak := k.streak.trans h.streak
  queue := k.queue.trans h.queue
  reservation := k.reservation.trans h.reservation
  writing := k.writing.trans h.writing
  reading := k.reading.trans h.reading
  exhausted := k.exhausted.trans h.exhausted
  cache := by
    rcases k.cache with h1 | h1
    · rcases h.cache with h2 | h2
      · exact .inl (h1.trans h2)
      · exact .inr (h1.trans h2)
    · exact .inr h1

/-- A property of the Event Unit that every offered record keeps. -/
def OfferKeeps (P : EventUnit → Prop) : Prop := ∀ e r room, P e → P ((e.stage r).settle room)

/-- A station's key. -/
def Station.key (e : Station) : LineNo × Byte := (e.line, e.address)

/-- What an operation on line `n` may change. -/
structure State.Settling (n : LineNo) (s t : State) : Prop where
  device : s.SameDevice t
  now : t.now = s.now
  inFlight : t.port.inFlight = s.port.inFlight
  cursor : t.port.cursor = s.port.cursor
  reservation : t.admin.reservation = s.admin.reservation
  others : State.OthersKept n s t
  keys : (t.stations.map Station.key).Sublist (s.stations.map Station.key)
  events : ∀ P, OfferKeeps P → P s.events → P t.events
  line : Line.Settled (s.line n) (t.line n)

theorem State.SameDevice.refl (s : State) : s.SameDevice s := ⟨rfl, rfl, rfl, rfl, rfl, rfl, rfl, rfl, rfl, rfl⟩

theorem State.SameDevice.trans {a b c : State} (h : a.SameDevice b) (k : b.SameDevice c) : a.SameDevice c := by
  obtain ⟨h1, h2, h3, h4, h5, h6, h7, h8, h9, h10⟩ := h
  obtain ⟨k1, k2, k3, k4, k5, k6, k7, k8, k9, k10⟩ := k
  exact ⟨k1.trans h1, k2.trans h2, k3.trans h3, k4.trans h4, k5.trans h5, k6.trans h6, k7.trans h7, k8.trans h8,
    k9.trans h9, k10.trans h10⟩

theorem State.Settling.refl (n : LineNo) (s : State) : State.Settling n s s where
  device := .refl s
  now := rfl
  inFlight := rfl
  cursor := rfl
  reservation := rfl
  others := fun _ _ => ⟨rfl, rfl⟩
  keys := .refl _
  events := fun _ _ h => h
  line := .refl _

theorem State.Settling.trans {n : LineNo} {a b c : State} (h : State.Settling n a b) (k : State.Settling n b c) :
    State.Settling n a c where
  device := h.device.trans k.device
  now := k.now.trans h.now
  inFlight := k.inFlight.trans h.inFlight
  cursor := k.cursor.trans h.cursor
  reservation := k.reservation.trans h.reservation
  others := fun m hm => ⟨(k.others m hm).1.trans (h.others m hm).1, (k.others m hm).2.trans (h.others m hm).2⟩
  keys := k.keys.trans h.keys
  events := fun P hP hp => k.events P hP (h.events P hP hp)
  line := h.line.trans k.line

/-! ### The updates -/

/-- A change of the line's own parts that settling allows. -/
theorem settling_onLine {n : LineNo} {s : State} {f : Line → Line} (h : Line.Settled (s.line n) (f (s.line n))) :
    State.Settling n s (s.onLine n f) where
  device := .refl s
  now := rfl
  inFlight := rfl
  cursor := rfl
  reservation := rfl
  others := fun m hm => ⟨by simp [hm], rfl⟩
  keys := .refl _
  events := fun _ _ h => h
  line := by simpa using h

theorem settling_offer (n : LineNo) (s : State) (r : EventRecord) : State.Settling n s (s.offer r) where
  device := ⟨by simp, by simp, by simp, by simp, by simp, by simp, by simp, by simp, by simp, by simp⟩
  now := by simp
  inFlight := by simp
  cursor := by simp
  reservation := by simp
  others := fun m _ => ⟨by simp, by simp⟩
  keys := by simp
  events := fun P hP h => by
    unfold State.offer
    split
    · exact hP _ _ _ h
    · exact h
  line := by simpa using Line.Settled.refl _

/-- A map over the entries of line `n` leaves the other lines' rings alone. -/
theorem ring_map {n m : LineNo} (hm : m ≠ n) (f : Station → Station) (hl : ∀ e, (f e).line = e.line)
    (hf : ∀ e, e.line ≠ n → f e = e) (es : List Station) :
    (es.map f).filter (fun e => decide (e.line = m)) = es.filter fun e => decide (e.line = m) := by
  induction es with
  | nil => rfl
  | cons e es ih =>
    simp only [List.map_cons, List.filter_cons, hl e, ih]
    by_cases he : e.line = m
    · rw [hf e (by rw [he]; exact hm)]
    · simp [he]

/-- Entries of line `n` changed, keys kept. -/
theorem settling_map (n : LineNo) (s : State) (f : Station → Station) (hk : ∀ e, (f e).key = e.key)
    (hf : ∀ e, e.line ≠ n → f e = e) : State.Settling n s { s with stations := s.stations.map f } where
  device := .refl s
  now := rfl
  inFlight := rfl
  cursor := rfl
  reservation := rfl
  others := fun m hm => ⟨rfl, ring_map hm f (fun e => congrArg Prod.fst (hk e)) hf s.stations⟩
  keys := by
    simp only [List.map_map]
    have : (Station.key ∘ f) = Station.key := funext hk
    rw [this]
  events := fun _ _ h => h
  line := .refl _

theorem settling_onStation (n : LineNo) (s : State) (a : Byte) (f : Station → Station) (hk : ∀ e, (f e).key = e.key) :
    State.Settling n s (s.onStation n a f) := by
  apply settling_map
  · intro e; split
    · exact hk e
    · rfl
  · intro e he; rw [if_neg]; exact fun h => he h.1

theorem settling_unlist (n : LineNo) (s : State) (k : SlotNo) : State.Settling n s (s.unlist n k) := by
  apply settling_map
  · intro e; split <;> rfl
  · intro e he; rw [if_neg he]

theorem settling_resyncLine (n : LineNo) (s : State) : State.Settling n s (s.resyncLine n) := by
  apply settling_map
  · intro e; split <;> rfl
  · intro e he; rw [if_neg he]

theorem settling_work (n : LineNo) (s : State) (w : AdminWork) :
    State.Settling n s { s with admin := { s.admin with work := w } } := { State.Settling.refl n s with }

theorem settling_request (n : LineNo) (s : State) (a : Access) : State.Settling n s (s.request a) :=
  { State.Settling.refl n s with }

theorem settling_completeAdmin (n : LineNo) (s : State) (tag : Half) (st : AdminStatus) (station length : Byte) :
    State.Settling n s (s.completeAdmin tag st station length) := { State.Settling.refl n s with }

theorem settled_onRequest (l : Line) (k : SlotNo) (f : Request → Request) : Line.Settled l (l.onRequest k f) := by
  unfold Line.onRequest
  split
  · exact ⟨rfl, rfl, rfl, rfl, rfl, rfl, rfl, rfl, rfl, rfl, rfl, .inl rfl⟩
  · exact .refl l

theorem settling_onRequest (n : LineNo) (s : State) (k : SlotNo) (f : Request → Request) :
    State.Settling n s (s.onRequest n k f) := settling_onLine (settled_onRequest _ k f)

theorem settling_makeDone (n : LineNo) (s : State) (k : SlotNo) (st : LineStatus) (f : Request → Request) :
    State.Settling n s (s.makeDone n k st f) := by
  unfold State.makeDone
  split
  · split
    · exact .refl n s
    · refine .trans (settling_onLine ?_) (settling_unlist n _ k)
      exact ⟨rfl, rfl, rfl, rfl, rfl, rfl, rfl, rfl, rfl, rfl, rfl, .inl rfl⟩
  · exact .refl n s

theorem settling_foldl {α : Type} (n : LineNo) (f : State → α → State) (hf : ∀ s x, State.Settling n s (f s x)) :
    ∀ (xs : List α) (s : State), State.Settling n s (xs.foldl f s)
  | [], s => .refl n s
  | x :: xs, s => .trans (hf s x) (settling_foldl n f hf xs (f s x))

theorem settling_endAll (n : LineNo) (s : State) (st : LineStatus) (ks : List SlotNo) :
    State.Settling n s (s.endAll n st ks) := by
  apply settling_foldl
  intro t k
  split
  · exact settling_makeDone n t k st id
  · exact .refl n t

/-! ### The Station Table's part -/

/-- An event offered after settling. -/
theorem State.Settling.stationEvent {n m : LineNo} {s t : State} {kind : EventKind} {a : Byte} {d : Nat}
    (h : State.Settling n s t) : State.Settling n s (t.stationEvent kind m a d) := h.trans (settling_offer n t _)

theorem settling_setOutOfStep (n : LineNo) (s : State) (a : Byte) (d : Nat) : State.Settling n s (s.setOutOfStep n a d) := by
  unfold State.setOutOfStep
  split
  · split
    · exact .refl n s
    · exact .stationEvent (settling_onStation n s a _ fun _ => rfl)
  · exact .refl n s

theorem settling_flushSlots (n : LineNo) : ∀ (ks : List SlotNo) (s : State), State.Settling n s (s.flushSlots n ks)
  | [], s => .refl n s
  | k :: ks, s => by
    unfold State.flushSlots
    split
    · split
      · exact .trans (settling_makeDone n s k .offline id) (settling_flushSlots n ks _)
      · exact .refl n s
    · exact .refl n s

theorem settling_flushOffline (n : LineNo) (s : State) (a : Byte) : State.Settling n s (s.flushOffline n a) := by
  unfold State.flushOffline
  split
  · split
    · exact settling_flushSlots n _ s
    · exact .refl n s
  · exact .refl n s

theorem settling_countFailedTurn (n : LineNo) (s : State) (a : Byte) : State.Settling n s (s.countFailedTurn n a) :=
  settling_onStation n s a _ fun _ => rfl

theorem settling_reportProtocolError (n : LineNo) (s : State) (a c : Byte) :
    State.Settling n s (s.reportProtocolError n a c) :=
  .stationEvent (settling_onStation n s a _ fun _ => rfl)

theorem settling_noteSuccess (n : LineNo) (s : State) (a : Byte) (e : Station) :
    State.Settling n s (s.noteSuccess n a e) := by
  unfold State.noteSuccess
  dsimp only
  split
  · exact .stationEvent (settling_onStation n s a _ fun _ => rfl)
  · exact settling_onStation n s a _ fun _ => rfl

theorem settling_noteSync (n : LineNo) (s : State) (a : Byte) (e : Station) : State.Settling n s (s.noteSync n a e) := by
  unfold State.noteSync
  dsimp only
  split
  · exact settling_onStation n s a _ fun _ => rfl
  · exact .stationEvent (settling_onStation n s a _ fun _ => rfl)

theorem settling_applyEffect (n : LineNo) (s : State) (a : Byte) (eff : ReplyEffect) :
    State.Settling n s (s.applyEffect n a eff) := by
  cases eff
  case accepted => exact settling_onStation n s a _ fun _ => rfl
  case stored => exact settling_onStation n s a _ fun _ => rfl
  case plain => exact .refl n s
  case busy => exact settling_onStation n s a _ fun _ => rfl
  case outOfStep d => exact settling_setOutOfStep n s a d
  case synced => exact .refl n s

theorem settling_failureEvent (n : LineNo) (s : State) (a : Byte) (b c : Liveness) (f : FrameKind) :
    State.Settling n s (s.failureEvent n a b c f) := by
  unfold State.failureEvent
  split
  · exact settling_offer n s _
  · split
    · exact settling_offer n s _
    · exact .refl n s

theorem settling_noteFailure (n : LineNo) (s : State) (a : Byte) (e : Station) (f : FrameKind) :
    State.Settling n s (s.noteFailure n a e f) := by
  unfold State.noteFailure
  split
  · exact settling_onStation n s a _ fun _ => rfl
  · dsimp only
    split
    · refine .stationEvent (State.Settling.trans ?_ (settling_failureEvent n _ a _ _ f))
      exact settling_onStation n s a _ fun _ => rfl
    · refine State.Settling.trans ?_ (settling_failureEvent n _ a _ _ f)
      exact settling_onStation n s a _ fun _ => rfl

theorem settling_noteAbandoned (n : LineNo) (s : State) (a : Byte) (x : Exchange) :
    State.Settling n s (s.noteAbandoned n a x) := by
  unfold State.noteAbandoned
  split
  · exact settling_setOutOfStep n s a 512
  · exact .refl n s

theorem settling_applyReport (n : LineNo) (s : State) (x : Exchange) (rep : Report) :
    State.Settling n s (s.applyReport n x rep) := by
  unfold State.applyReport
  split
  · exact .refl n s
  · split
    · exact .refl n s
    · split
      · exact .refl n s
      · split
        · exact settling_flushOffline n s _
        · exact .trans (settling_noteSync n s _ _) (settling_flushOffline n _ _)
        · exact .trans (settling_noteSuccess n s _ _)
            (.trans (settling_applyEffect n _ _ _) (settling_flushOffline n _ _))
        · split
          · exact .refl n s
          · exact .trans (settling_noteFailure n s _ _ _) (settling_flushOffline n _ _)
        · exact .trans (settling_noteAbandoned n s _ x) (settling_flushOffline n _ _)

/-- Entries of line `n` dropped. -/
theorem settling_filter (n : LineNo) (s : State) (a : Byte) :
    State.Settling n s
      { s with stations := s.stations.filter fun x => !(decide (x.line = n) && decide (x.address = a)) } :=
  { State.Settling.refl n s with
    others := fun m hm => ⟨rfl, by
      simp only [State.ring, List.filter_filter]
      apply List.filter_congr
      intro e _
      by_cases he : e.line = m
      · simp [he, hm]
      · simp [he]⟩
    keys := (List.filter_sublist).map _ }

theorem settling_freeStation (n : LineNo) (s : State) (a : Byte) : State.Settling n s (s.freeStation n a) := by
  unfold State.freeStation
  split
  · exact .refl n s
  · dsimp only
    refine State.Settling.trans (State.Settling.trans ?_ (settling_onLine ?_)) (settling_filter n _ a)
    · exact settling_foldl n _ (fun t k => settling_makeDone n t k .detached id) _ s
    · exact ⟨rfl, rfl, rfl, rfl, rfl, rfl, rfl, rfl, rfl, rfl, rfl, .inl rfl⟩

/-! ### The turn's end -/

theorem settling_disableEnded (n : LineNo) (s : State) (tag : Half) (st : AdminStatus) (made : List SlotNo) :
    State.Settling n s (s.disableEnded n tag st made) := by
  unfold State.disableEnded
  dsimp only
  refine State.Settling.trans (State.Settling.trans
    (.trans (settling_endAll n s .aborted _) (settling_resyncLine n _)) (settling_onLine ?_)) (settling_work n _ _)
  exact ⟨rfl, rfl, rfl, rfl, rfl, rfl, rfl, rfl, rfl, rfl, rfl, .inl rfl⟩

theorem settling_settleContinuing (n : LineNo) (s : State) (x : Exchange) (f g : Request → Request) :
    State.Settling n s (s.settleContinuing n x f g) := by
  unfold State.settleContinuing
  split
  · exact .refl n s
  · split
    · exact settling_makeDone n s _ _ g
    · exact settling_onRequest n s _ f

theorem settling_abortBehind (n : LineNo) (s : State) (x : Exchange) : State.Settling n s (s.abortBehind n x) := by
  unfold State.abortBehind
  split
  · split
    · split
      · exact settling_endAll n s _ _
      · exact .refl n s
    · exact settling_endAll n s _ _
  · exact .refl n s

theorem settling_settleAnswering (n : LineNo) (s : State) (x : Exchange) (b : Bool) :
    State.Settling n s (s.settleAnswering n x b) := by
  unfold State.settleAnswering
  split
  · exact .refl n s
  · split
    · exact .refl n s
    · split
      · split_ifs
        · exact settling_makeDone n s _ _ id
        · exact settling_onRequest n s _ _
      · exact .refl n s

theorem settling_resolveAdmin (n : LineNo) (s : State) (x : Exchange) (b : Bool) :
    State.Settling n s (s.resolveAdmin n x b) := by
  unfold State.resolveAdmin
  split
  · split
    · next h => obtain ⟨h, _⟩ := h; exact .trans (settling_freeStation n s _) (settling_completeAdmin n _ _ _ _ _)
    · exact .refl n s
  · split
    · exact settling_completeAdmin n s _ _ _ _
    · exact .refl n s
  · split
    · exact settling_disableEnded n s _ _ _
    · exact .refl n s
  · exact .refl n s

theorem settling_drainCache (n : LineNo) (s : State) : State.Settling n s (s.drainCache n) := by
  unfold State.drainCache
  split
  · exact settling_onLine ⟨rfl, rfl, rfl, rfl, rfl, rfl, rfl, rfl, rfl, rfl, rfl, .inr rfl⟩
  · exact .refl n s

theorem settling_settleHeld (n : LineNo) (s : State) : State.Settling n s (s.settleHeld n) := by
  unfold State.settleHeld
  split
  · exact settling_onLine ⟨rfl, rfl, rfl, rfl, rfl, rfl, rfl, rfl, rfl, rfl, rfl, .inl rfl⟩
  · split
    · refine .trans (settling_onLine ?_) (settling_offer n _ _)
      exact ⟨rfl, rfl, rfl, rfl, rfl, rfl, rfl, rfl, rfl, rfl, rfl, .inl rfl⟩
    · exact .refl n s

theorem settling_giveUpRetry (n : LineNo) (s : State) (st : LineStatus) (b : Bool) :
    State.Settling n s (s.giveUpRetry n st b) := by
  unfold State.giveUpRetry
  split
  · exact .refl n s
  · next x _ =>
    dsimp only
    refine State.Settling.trans ?_ (settling_onLine ⟨rfl, rfl, rfl, rfl, rfl, rfl, rfl, rfl, rfl, rfl, rfl, .inl rfl⟩)
    have h1 : ∀ t, State.Settling n s t → State.Settling n s (if t.running then t.settleAnswering n x true else t) := by
      intro t h
      split
      · exact h.trans (settling_settleAnswering n t x true)
      · exact h
    apply h1
    rcases hk : x.slot with _ | k <;> rcases hb : b with _ | _ <;> rcases ha : x.station with _ | a <;> dsimp only
    · exact .refl n s
    · exact .refl n s
    · exact .refl n s
    · exact settling_noteAbandoned n s a x
    · exact settling_makeDone n s k st _
    · exact settling_makeDone n s k st _
    · exact settling_makeDone n s k st _
    · exact (settling_makeDone n s k st _).trans (settling_noteAbandoned n _ a x)

/-- What a turn's end leaves: the line in the state `after` with no reservation, and everything settling keeps. -/
structure State.TurnEnded (n : LineNo) (after : LineState) (s t : State) : Prop where
  device : s.SameDevice t
  now : t.now = s.now
  inFlight : t.port.inFlight = s.port.inFlight
  cursor : t.port.cursor = s.port.cursor
  adminReservation : t.admin.reservation = s.admin.reservation
  others : State.OthersKept n s t
  keys : (t.stations.map Station.key).Sublist (s.stations.map Station.key)
  events : ∀ P, OfferKeeps P → P s.events → P t.events
  state : (t.line n).state = after
  reservation : (t.line n).post.reservation = false
  queue : (t.line n).post.queue = (s.line n).post.queue
  writing : (t.line n).post.writing = (s.line n).post.writing
  reading : (t.line n).buf.reading = (s.line n).buf.reading
  cache : (t.line n).buf.cache = (s.line n).buf.cache ∨ (t.line n).buf.cache = []
  fetch : (t.line n).fetch = (s.line n).fetch
  config : (t.line n).config = (s.line n).config
  de : (t.line n).de = (s.line n).de
  rx : (t.line n).rx = (s.line n).rx

theorem TurnEnded.of_settling {n : LineNo} {after : LineState} {a b c d : State} (h : State.Settling n a b)
    (hl : c = b.onLine n fun l => { l with
      state := after, sched := (c.line n).sched, buf := (c.line n).buf
      post := { l.post with reservation := false } })
    (hr : (c.line n).buf.reading = (b.line n).buf.reading) (hc : (c.line n).buf.cache = (b.line n).buf.cache)
    (k : State.Settling n c d) : State.TurnEnded n after a d := by
  have hcl : c.line n = { b.line n with
      state := after, sched := (c.line n).sched, buf := (c.line n).buf
      post := { (b.line n).post with reservation := false } } := by
    conv_lhs => rw [hl]
    simp
  have e : ∀ {α : Type} (g : State → α), (∀ f, g (b.onLine n f) = g b) → g c = g b := by
    intro α g hg; rw [hl]; exact hg _
  have hbc : b.SameDevice c := by
    refine ⟨e _ ?_, e _ ?_, e _ ?_, e _ ?_, e _ ?_, e _ ?_, e _ ?_, e _ ?_, e _ ?_, e _ ?_⟩ <;> intro f <;> rfl
  exact {
    device := (h.device.trans hbc).trans k.device
    now := (k.now.trans (e State.now fun _ => rfl)).trans h.now
    inFlight := (k.inFlight.trans (e (fun s => s.port.inFlight) fun _ => rfl)).trans h.inFlight
    cursor := (k.cursor.trans (e (fun s => s.port.cursor) fun _ => rfl)).trans h.cursor
    adminReservation := (k.reservation.trans (e (fun s => s.admin.reservation) fun _ => rfl)).trans h.reservation
    others := fun m hm => by
      have h1 : c.line m = b.line m := by rw [hl]; simp [hm]
      have h2 : c.ring m = b.ring m := e (fun s => s.ring m) fun _ => rfl
      exact ⟨((k.others m hm).1.trans h1).trans (h.others m hm).1, ((k.others m hm).2.trans h2).trans (h.others m hm).2⟩
    keys := by
      refine k.keys.trans ?_
      rw [e State.stations fun _ => rfl]
      exact h.keys
    events := fun P hP hp => k.events P hP (by rw [e State.events fun _ => rfl]; exact h.events P hP hp)
    state := k.line.state.trans (by rw [hcl])
    reservation := k.line.reservation.trans (by rw [hcl])
    queue := (k.line.queue.trans (by rw [hcl])).trans h.line.queue
    writing := (k.line.writing.trans (by rw [hcl])).trans h.line.writing
    reading := (k.line.reading.trans hr).trans h.line.reading
    cache := by
      rcases k.line.cache with h1 | h1
      · rw [h1, hc]; exact h.line.cache
      · exact .inr h1
    fetch := (k.line.fetch.trans (by rw [hcl])).trans h.line.fetch
    config := (k.line.config.trans (by rw [hcl])).trans h.line.config
    de := (k.line.de.trans (by rw [hcl])).trans h.line.de
    rx := (k.line.rx.trans (by rw [hcl])).trans h.line.rx }

/-- R112 steps 4 to 7: everything a turn's end can do. -/
theorem turnEnded_finishTurn (n : LineNo) (s : State) (x : Exchange) (continues : Bool) (rep : Report)
    (retry : Option Exchange) (after : LineState) :
    State.TurnEnded n after s (s.finishTurn n x continues rep retry after) := by
  unfold State.finishTurn
  dsimp only
  refine TurnEnded.of_settling
    (.trans (settling_abortBehind n s x) (.trans (settling_applyReport n _ x rep) (settling_settleAnswering n _ x retry.isNone)))
    ?_ ?_ ?_
    (.trans (settling_resolveAdmin n _ x continues) (.trans (settling_drainCache n _) (settling_settleHeld n _)))
  · simp only [line_onLine, if_true]
    rfl
  · simp
  · simp

/-- A turn that ends after settling. -/
theorem State.Settling.turnEnded {n : LineNo} {after : LineState} {a b c : State} (h : State.Settling n a b)
    (k : State.TurnEnded n after b c) : State.TurnEnded n after a c where
  device := h.device.trans k.device
  now := k.now.trans h.now
  inFlight := k.inFlight.trans h.inFlight
  cursor := k.cursor.trans h.cursor
  adminReservation := k.adminReservation.trans h.reservation
  others := fun m hm => ⟨(k.others m hm).1.trans (h.others m hm).1, (k.others m hm).2.trans (h.others m hm).2⟩
  keys := k.keys.trans h.keys
  events := fun P hP hp => k.events P hP (h.events P hP hp)
  state := k.state
  reservation := k.reservation
  queue := k.queue.trans h.line.queue
  writing := k.writing.trans h.line.writing
  reading := k.reading.trans h.line.reading
  cache := by
    rcases k.cache with h1 | h1
    · rw [h1]; exact h.line.cache
    · exact .inr h1
  fetch := k.fetch.trans h.line.fetch
  config := k.config.trans h.line.config
  de := k.de.trans h.line.de
  rx := k.rx.trans h.line.rx

end Sys2Proof.Machine
end

