-- ==== Sys2Proof/Laws/Slots.lean ====
section
/-! SUPPORT. What the slot and entry operations do to each slot and to each entry. -/

namespace Sys2Proof.Machine

/-! ### Slots -/

@[simp] theorem held?_setSlot (l : Line) (k j : SlotNo) (v : Slot) :
    (l.setSlot k v).held? j = if j = k then (match v with
      | .held r => some r
      | .setAside => none
      | .free => none) else l.held? j := by
  unfold Line.held? Line.setSlot
  by_cases h : j = k
  · subst h; cases v <;> simp
  · have : k.val ≠ j.val := fun h' => h (Fin.ext h'.symm)
    simp [h, this]

theorem held?_eq {l : Line} {k : SlotNo} {r : Request} (h : l.held? k = some r) : l.pool.slots[k] = .held r := by
  unfold Line.held? at h
  split at h
  · next h' => rw [h']; simpa using h
  · cases h
  · cases h

@[simp] theorem held?_onRequest (l : Line) (k j : SlotNo) (f : Request → Request) :
    (l.onRequest k f).held? j = if j = k then (l.held? k).map f else l.held? j := by
  unfold Line.onRequest
  split
  · next r h => simp [h]
  · next h => split <;> simp_all

/-- A line with the same slots holds the same requests. -/
theorem held?_congr {l l' : Line} (h : l'.pool.slots = l.pool.slots) (k : SlotNo) : l'.held? k = l.held? k := by
  unfold Line.held?; rw [h]

theorem request?_eq (s : State) (n : LineNo) (k : SlotNo) : s.request? n k = (s.line n).held? k := rfl

theorem request?_congr {s t : State} {n : LineNo} (h : (t.line n).pool.slots = (s.line n).pool.slots) (k : SlotNo) :
    t.request? n k = s.request? n k := held?_congr h k

@[simp] theorem request?_offer (s : State) (r : EventRecord) (n : LineNo) (k : SlotNo) :
    (s.offer r).request? n k = s.request? n k := by simp [State.request?]

@[simp] theorem request?_stationEvent (s : State) (kind : EventKind) (m : LineNo) (a : Byte) (d : Nat) (n : LineNo)
    (k : SlotNo) : (s.stationEvent kind m a d).request? n k = s.request? n k := by simp [State.stationEvent]

@[simp] theorem request?_onStation (s : State) (m : LineNo) (a : Byte) (f : Station → Station) (n : LineNo) (k : SlotNo) :
    (s.onStation m a f).request? n k = s.request? n k := rfl

@[simp] theorem request?_onRequest (s : State) (n m : LineNo) (k j : SlotNo) (f : Request → Request) :
    (s.onRequest n k f).request? m j = if m = n ∧ j = k then (s.request? n k).map f else s.request? m j := by
  unfold State.request? State.onRequest
  by_cases h : m = n
  · subst h; simp
  · simp [h]

@[simp] theorem held?_joinDone (l : Line) (k j : SlotNo) : (l.joinDone k).held? j = l.held? j := rfl

/-- What makeDone does to every slot. -/
theorem request?_makeDone (s : State) (n m : LineNo) (k j : SlotNo) (st : LineStatus) (f : Request → Request) :
    (s.makeDone n k st f).request? m j
      = if m = n ∧ j = k then (s.request? n k).map fun r => if r.state = .done then r else (f r).finish st
        else s.request? m j := by
  unfold State.makeDone
  split
  · next r hr =>
    split
    · next hd => split <;> simp_all
    · next hd =>
      rw [request?_eq, line_unlist]
      by_cases h : m = n
      · subst h
        simp only [line_onLine, if_true, held?_joinDone, held?_setSlot]
        by_cases hj : j = k
        · simp [hj, hr, hd]
        · simp [hj, State.request?]
      · simp [h, State.request?]
  · next hr => split <;> simp_all

/-- A request that is not DONE, made DONE. -/
theorem request?_makeDone_self {s : State} {n : LineNo} {k : SlotNo} {r : Request} (h : s.request? n k = some r)
    (hd : r.state ≠ .done) (st : LineStatus) (f : Request → Request) :
    (s.makeDone n k st f).request? n k = some ((f r).finish st) := by
  rw [request?_makeDone]; simp [h, hd]

/-- A DONE request stays as it is. -/
theorem request?_makeDone_done {s : State} {n : LineNo} {j : SlotNo} {r : Request} (h : s.request? n j = some r)
    (hd : r.state = .done) (k : SlotNo) (st : LineStatus) (f : Request → Request) :
    (s.makeDone n k st f).request? n j = some r := by
  rw [request?_makeDone]
  by_cases hj : j = k
  · subst hj; simp [h, hd]
  · simp [hj, h]

/-- makeDone leaves every other slot as it is. -/
theorem slotsKept_makeDone (s : State) (n : LineNo) (k : SlotNo) (st : LineStatus) (f : Request → Request) :
    State.SlotsKept n k s (s.makeDone n k st f) := by
  intro j hj
  have : k.val ≠ j.val := fun h' => hj (Fin.ext h'.symm)
  unfold State.makeDone
  split
  · split
    · rfl
    · simp [State.unlist, State.line, State.onLine, State.setLine, Line.joinDone, Line.setSlot, this]
  · rfl

/-- A request that is not DONE joins the DONE order. -/
theorem doneOrder_makeDone {s : State} {n : LineNo} {k : SlotNo} {r : Request} (h : s.request? n k = some r)
    (hd : r.state ≠ .done) (st : LineStatus) (f : Request → Request) :
    ((s.makeDone n k st f).line n).pool.doneOrder = (s.line n).pool.doneOrder ++ [k] := by
  simp [State.makeDone, h, hd, Line.joinDone, Line.setSlot]

/-- What makeDone does to the line but for its pool: nothing. -/
theorem line_makeDone (s : State) (n : LineNo) (k : SlotNo) (st : LineStatus) (f : Request → Request) :
    (s.makeDone n k st f).line n = { s.line n with pool := ((s.makeDone n k st f).line n).pool } := by
  unfold State.makeDone
  split
  · split
    · rfl
    · simp [Line.joinDone, Line.setSlot]
  · rfl

@[simp] theorem now_makeDone (s : State) (n : LineNo) (k : SlotNo) (st : LineStatus) (f : Request → Request) :
    (s.makeDone n k st f).now = s.now := (settling_makeDone n s k st f).now

@[simp] theorem control_makeDone (s : State) (n : LineNo) (k : SlotNo) (st : LineStatus) (f : Request → Request) :
    (s.makeDone n k st f).control = s.control := (settling_makeDone n s k st f).device.1

@[simp] theorem admin_makeDone (s : State) (n : LineNo) (k : SlotNo) (st : LineStatus) (f : Request → Request) :
    (s.makeDone n k st f).admin = s.admin := by unfold State.makeDone; split <;> [split <;> rfl; rfl]

@[simp] theorem events_makeDone (s : State) (n : LineNo) (k : SlotNo) (st : LineStatus) (f : Request → Request) :
    (s.makeDone n k st f).events = s.events := by unfold State.makeDone; split <;> [split <;> rfl; rfl]

@[simp] theorem port_makeDone (s : State) (n : LineNo) (k : SlotNo) (st : LineStatus) (f : Request → Request) :
    (s.makeDone n k st f).port = s.port := by unfold State.makeDone; split <;> [split <;> rfl; rfl]

/-! ### Entries -/

/-- The entry of an address after a change of entries that keeps their keys. -/
theorem find?_map_key (f : Station → Station) (hk : ∀ e, (f e).key = e.key) (n : LineNo) (a : Byte) (es : List Station) :
    (es.map f).find? (fun e => decide (e.line = n) && decide (e.address = a))
      = (es.find? fun e => decide (e.line = n) && decide (e.address = a)).map f := by
  induction es with
  | nil => rfl
  | cons e es ih =>
    have h1 : (f e).line = e.line := congrArg Prod.fst (hk e)
    have h2 : (f e).address = e.address := congrArg Prod.snd (hk e)
    simp only [List.map_cons, List.find?_cons, h1, h2]
    split
    · rfl
    · exact ih

/-- The entry found has the address asked for. -/
theorem station?_key {s : State} {n : LineNo} {a : Byte} {e : Station} (h : s.station? n a = some e) :
    e.line = n ∧ e.address = a := by
  have := List.find?_some h
  simpa using this

theorem station?_onStation (s : State) (n : LineNo) (a b : Byte) (f : Station → Station) (hk : ∀ e, (f e).key = e.key) :
    (s.onStation n a f).station? n b = if b = a then (s.station? n b).map f else s.station? n b := by
  show (List.map _ s.stations).find? _ = _
  rw [find?_map_key]
  · cases he : s.station? n b with
    | none => simp only [State.station?] at he; rw [he]; simp
    | some e =>
      have hkey := station?_key he
      simp only [State.station?] at he; rw [he]
      simp only [Option.map_some, hkey.1, hkey.2, true_and]
      split <;> rfl
  · intro e; split
    · exact hk e
    · rfl

/-- The changed entry itself. -/
theorem station?_onStation_self {s : State} {n : LineNo} {a : Byte} {e : Station} (h : s.station? n a = some e)
    (f : Station → Station) (hk : ∀ e, (f e).key = e.key) : (s.onStation n a f).station? n a = some (f e) := by
  rw [station?_onStation s n a a f hk]; simp [h]

theorem station?_unlist (s : State) (n : LineNo) (k : SlotNo) (a : Byte) :
    (s.unlist n k).station? n a
      = (s.station? n a).map fun e => { e with pending := e.pending.filter fun j => decide (j ≠ k) } := by
  show (List.map _ s.stations).find? _ = _
  rw [find?_map_key]
  · cases he : s.station? n a with
    | none => simp only [State.station?] at he; rw [he]; rfl
    | some e =>
      have hkey := station?_key he
      simp only [State.station?] at he; rw [he]
      simp [hkey.1]
  · intro e; split <;> rfl

/-- makeDone changes nothing of an entry but its list. -/
theorem station?_makeDone {s : State} {n : LineNo} {a : Byte} {e : Station} (h : s.station? n a = some e) (k : SlotNo)
    (st : LineStatus) (f : Request → Request) :
    ∃ p, (s.makeDone n k st f).station? n a = some { e with pending := p } := by
  unfold State.makeDone
  split
  · split
    · exact ⟨e.pending, h⟩
    · refine ⟨e.pending.filter fun j => decide (j ≠ k), ?_⟩
      rw [station?_unlist]
      show Option.map _ (s.station? n a) = _
      rw [h]; rfl
  · exact ⟨e.pending, h⟩

@[simp] theorem station?_onLine (s : State) (m : LineNo) (f : Line → Line) (n : LineNo) (a : Byte) :
    (s.onLine m f).station? n a = s.station? n a := rfl

@[simp] theorem station?_onRequest (s : State) (m : LineNo) (k : SlotNo) (f : Request → Request) (n : LineNo) (a : Byte) :
    (s.onRequest m k f).station? n a = s.station? n a := rfl

@[simp] theorem station?_offer (s : State) (r : EventRecord) (n : LineNo) (a : Byte) :
    (s.offer r).station? n a = s.station? n a := by simp [State.station?]

@[simp] theorem station?_stationEvent (s : State) (kind : EventKind) (m : LineNo) (b : Byte) (d : Nat) (n : LineNo)
    (a : Byte) : (s.stationEvent kind m b d).station? n a = s.station? n a := by simp [State.stationEvent]

@[simp] theorem line_stationEvent (s : State) (kind : EventKind) (m : LineNo) (b : Byte) (d : Nat) (n : LineNo) :
    (s.stationEvent kind m b d).line n = s.line n := by simp [State.stationEvent]

@[simp] theorem now_stationEvent (s : State) (kind : EventKind) (m : LineNo) (b : Byte) (d : Nat) :
    (s.stationEvent kind m b d).now = s.now := by simp [State.stationEvent]

@[simp] theorem station?_request (s : State) (x : Access) (n : LineNo) (a : Byte) :
    (s.request x).station? n a = s.station? n a := rfl

@[simp] theorem station?_completeAdmin (s : State) (tag : Half) (st : AdminStatus) (x y : Byte) (n : LineNo) (a : Byte) :
    (s.completeAdmin tag st x y).station? n a = s.station? n a := rfl

@[simp] theorem station?_settleHeld (s : State) (m n : LineNo) (a : Byte) :
    (s.settleHeld m).station? n a = s.station? n a := by
  unfold State.settleHeld; split
  · rfl
  · split
    · simp
    · rfl

@[simp] theorem pool_settleHeld (s : State) (m n : LineNo) : ((s.settleHeld m).line n).pool = (s.line n).pool := by
  unfold State.settleHeld
  split
  · simp only [line_onLine]; split <;> simp_all
  · split
    · simp only [line_offer, line_onLine]; split <;> simp_all
    · rfl

@[simp] theorem sched_settleHeld (s : State) (m n : LineNo) : ((s.settleHeld m).line n).sched = (s.line n).sched := by
  unfold State.settleHeld
  split
  · simp only [line_onLine]; split <;> simp_all
  · split
    · simp only [line_offer, line_onLine]; split <;> simp_all
    · rfl

@[simp] theorem txBuf_settleHeld (s : State) (m n : LineNo) : ((s.settleHeld m).line n).txBuf = (s.line n).txBuf := by
  unfold State.settleHeld
  split
  · simp only [line_onLine]; split <;> simp_all
  · split
    · simp only [line_offer, line_onLine]; split <;> simp_all
    · rfl

@[simp] theorem buf_settleHeld (s : State) (m n : LineNo) : ((s.settleHeld m).line n).buf = (s.line n).buf := by
  unfold State.settleHeld
  split
  · simp only [line_onLine]; split <;> simp_all
  · split
    · simp only [line_offer, line_onLine]; split <;> simp_all
    · rfl

@[simp] theorem request?_settleHeld (s : State) (m n : LineNo) (k : SlotNo) :
    (s.settleHeld m).request? n k = s.request? n k := request?_congr (by rw [pool_settleHeld]) k

@[simp] theorem admin_settleHeld (s : State) (n : LineNo) : (s.settleHeld n).admin = s.admin := by
  unfold State.settleHeld
  split
  · rfl
  · split
    · simp
    · rfl

@[simp] theorem port_settleHeld (s : State) (n : LineNo) : (s.settleHeld n).port = s.port := by
  unfold State.settleHeld
  split
  · rfl
  · split
    · simp
    · rfl

@[simp] theorem control_settleHeld (s : State) (n : LineNo) : (s.settleHeld n).control = s.control :=
  (settling_settleHeld n s).device.1

@[simp] theorem now_settleHeld (s : State) (n : LineNo) : (s.settleHeld n).now = s.now := (settling_settleHeld n s).now

end Sys2Proof.Machine
end

