-- ==== Sys2Proof/Laws/TurnEnd.lean ====
section
/-! SUPPORT. The end of a turn on a RUNNING device with no admin request in progress: what it does to the request, the entry
and the line. -/

namespace Sys2Proof.Machine

/-! ### What the report and the ANSWERING head leave alone -/

/-- Admin Unit, Host Port, and line `n`'s scheduler and transmit buffer are as they were. -/
structure State.Quiet (n : LineNo) (s t : State) : Prop where
  admin : t.admin = s.admin
  port : t.port = s.port
  sched : (t.line n).sched = (s.line n).sched
  txBuf : (t.line n).txBuf = (s.line n).txBuf

theorem State.Quiet.refl (n : LineNo) (s : State) : State.Quiet n s s := ⟨rfl, rfl, rfl, rfl⟩

theorem State.Quiet.trans {n : LineNo} {a b c : State} (h : State.Quiet n a b) (k : State.Quiet n b c) :
    State.Quiet n a c :=
  ⟨k.admin.trans h.admin, k.port.trans h.port, k.sched.trans h.sched, k.txBuf.trans h.txBuf⟩

theorem quiet_onStation (n : LineNo) (s : State) (m : LineNo) (a : Byte) (f : Station → Station) :
    State.Quiet n s (s.onStation m a f) := ⟨rfl, rfl, rfl, rfl⟩

theorem State.Quiet.stationEvent {n m : LineNo} {s t : State} {kind : EventKind} {a : Byte} {d : Nat}
    (h : State.Quiet n s t) : State.Quiet n s (t.stationEvent kind m a d) :=
  h.trans ⟨by simp [State.stationEvent], by simp [State.stationEvent], by simp, by simp⟩

theorem quiet_makeDone (n : LineNo) (s : State) (k : SlotNo) (st : LineStatus) (f : Request → Request) :
    State.Quiet n s (s.makeDone n k st f) := ⟨by simp, by simp, by rw [line_makeDone], by rw [line_makeDone]⟩

theorem quiet_onRequest (n : LineNo) (s : State) (k : SlotNo) (f : Request → Request) :
    State.Quiet n s (s.onRequest n k f) := by
  refine ⟨rfl, rfl, ?_, ?_⟩ <;> simp [State.onRequest, Line.onRequest, Line.setSlot] <;> split <;> rfl

theorem quiet_setOutOfStep (n : LineNo) (s : State) (a : Byte) (d : Nat) : State.Quiet n s (s.setOutOfStep n a d) := by
  unfold State.setOutOfStep
  split
  · split
    · exact .refl n s
    · exact .stationEvent (quiet_onStation n s n a _)
  · exact .refl n s

theorem quiet_flushSlots (n : LineNo) : ∀ (ks : List SlotNo) (s : State), State.Quiet n s (s.flushSlots n ks)
  | [], s => .refl n s
  | k :: ks, s => by
    unfold State.flushSlots
    split
    · split
      · exact .trans (quiet_makeDone n s k .offline id) (quiet_flushSlots n ks _)
      · exact .refl n s
    · exact .refl n s

theorem quiet_flushOffline (n : LineNo) (s : State) (a : Byte) : State.Quiet n s (s.flushOffline n a) := by
  unfold State.flushOffline
  split
  · split
    · exact quiet_flushSlots n _ s
    · exact .refl n s
  · exact .refl n s

theorem quiet_noteSuccess (n : LineNo) (s : State) (a : Byte) (e : Station) : State.Quiet n s (s.noteSuccess n a e) := by
  unfold State.noteSuccess
  dsimp only
  split
  · exact .stationEvent (quiet_onStation n s n a _)
  · exact quiet_onStation n s n a _

theorem quiet_noteSync (n : LineNo) (s : State) (a : Byte) (e : Station) : State.Quiet n s (s.noteSync n a e) := by
  unfold State.noteSync
  dsimp only
  split
  · exact quiet_onStation n s n a _
  · exact .stationEvent (quiet_onStation n s n a _)

theorem quiet_applyEffect (n : LineNo) (s : State) (a : Byte) (eff : ReplyEffect) :
    State.Quiet n s (s.applyEffect n a eff) := by
  cases eff
  case accepted => exact quiet_onStation n s n a _
  case stored => exact quiet_onStation n s n a _
  case plain => exact .refl n s
  case busy => exact quiet_onStation n s n a _
  case outOfStep d => exact quiet_setOutOfStep n s a d
  case synced => exact .refl n s

theorem quiet_failureEvent (n : LineNo) (s : State) (a : Byte) (b c : Liveness) (f : FrameKind) :
    State.Quiet n s (s.failureEvent n a b c f) := by
  unfold State.failureEvent
  split
  · exact .stationEvent (.refl n s)
  · split
    · exact .stationEvent (.refl n s)
    · exact .refl n s

theorem quiet_noteFailure (n : LineNo) (s : State) (a : Byte) (e : Station) (f : FrameKind) :
    State.Quiet n s (s.noteFailure n a e f) := by
  unfold State.noteFailure
  split
  · exact quiet_onStation n s n a _
  · dsimp only
    split
    · exact .stationEvent (.trans (quiet_onStation n s n a _) (quiet_failureEvent n _ a _ _ f))
    · exact .trans (quiet_onStation n s n a _) (quiet_failureEvent n _ a _ _ f)

theorem quiet_noteAbandoned (n : LineNo) (s : State) (a : Byte) (x : Exchange) :
    State.Quiet n s (s.noteAbandoned n a x) := by
  unfold State.noteAbandoned
  split
  · exact quiet_setOutOfStep n s a 512
  · exact .refl n s

theorem quiet_applyReport (n : LineNo) (s : State) (x : Exchange) (rep : Report) :
    State.Quiet n s (s.applyReport n x rep) := by
  unfold State.applyReport
  split
  · exact .refl n s
  · split
    · exact .refl n s
    · split
      · exact .refl n s
      · split
        · exact quiet_flushOffline n s _
        · exact .trans (quiet_noteSync n s _ _) (quiet_flushOffline n _ _)
        · exact .trans (quiet_noteSuccess n s _ _) (.trans (quiet_applyEffect n _ _ _) (quiet_flushOffline n _ _))
        · split
          · exact .refl n s
          · exact .trans (quiet_noteFailure n s _ _ _) (quiet_flushOffline n _ _)
        · exact .trans (quiet_noteAbandoned n s _ x) (quiet_flushOffline n _ _)

theorem quiet_settleAnswering (n : LineNo) (s : State) (x : Exchange) (b : Bool) :
    State.Quiet n s (s.settleAnswering n x b) := by
  unfold State.settleAnswering
  split
  · exact .refl n s
  · split
    · exact .refl n s
    · split
      · split_ifs
        · exact quiet_makeDone n s _ _ id
        · exact quiet_onRequest n s _ _
      · exact .refl n s

/-! ### The end of a turn -/

/-- The line once its turn is over (R112 steps 6 and 7). -/
def Line.turnOver (l : Line) (retry : Option Exchange) (after : LineState) : Line :=
  { l with
    state := after
    sched := { l.sched with retry := retry }
    buf := { l.buf with reserved := l.buf.reserved && retry.isSome }
    post := { l.post with reservation := false } }

/-- R112 on a RUNNING device with no admin request in progress: the report, the ANSWERING head, the line, the held latch. -/
theorem finishTurn_plain {s : State} (hr : s.control.device = .running) (ha : s.admin.work = .none) (n : LineNo)
    (x : Exchange) (continues : Bool) (rep : Report) (retry : Option Exchange) (after : LineState) :
    s.finishTurn n x continues rep retry after
      = ((((s.applyReport n x rep).settleAnswering n x retry.isNone).onLine n fun l => l.turnOver retry after)).settleHeld n := by
  have h1 : s.abortBehind n x = s := by simp [State.abortBehind, State.stopping, hr]
  unfold State.finishTurn
  simp only [h1]
  set u := (((s.applyReport n x rep).settleAnswering n x retry.isNone).onLine n fun l => l.turnOver retry after) with hu
  have h2 : u.admin.work = .none := by
    rw [hu, admin_onLine, ((quiet_applyReport n s x rep).trans (quiet_settleAnswering n _ x _)).admin]
    exact ha
  have h3 : u.control = s.control := by
    rw [hu]
    exact (settling_settleAnswering n _ x _).device.1.trans (settling_applyReport n s x rep).device.1
  have h4 : u.resolveAdmin n x continues = u := by unfold State.resolveAdmin; rw [h2]
  have h5 : u.drainCache n = u := by simp [State.drainCache, State.stopping, h3, hr]
  show ((u.resolveAdmin n x continues).drainCache n).settleHeld n = u.settleHeld n
  rw [h4, h5]

/-- The entry of an exchange once its head's deadlines have been settled: only its list may have changed. -/
theorem station?_settleAnswering {s : State} {n : LineNo} {a : Byte} {e : Station} (h : s.station? n a = some e)
    (x : Exchange) (b : Bool) : ∃ p, (s.settleAnswering n x b).station? n a = some { e with pending := p } := by
  unfold State.settleAnswering
  split
  · exact ⟨e.pending, h⟩
  · split
    · exact ⟨e.pending, h⟩
    · split
      · split_ifs
        · exact station?_makeDone h _ _ _
        · exact ⟨e.pending, h⟩
      · exact ⟨e.pending, h⟩

/-- A request that is not ANSWERING is not touched. -/
theorem request?_settleAnswering {s : State} {n : LineNo} {k : SlotNo} {r : Request} (h : s.request? n k = some r)
    (hr : r.state ≠ .answering) (x : Exchange) (b : Bool) : (s.settleAnswering n x b).request? n k = some r := by
  unfold State.settleAnswering
  split
  · exact h
  · split
    · exact h
    · next e _ j q hj =>
      split
      · next hq =>
        have hjq : s.request? n j = some q := by
          unfold State.head? at hj
          split at hj
          · cases hj
          · split at hj
            · next hr' => simp only [Option.some.injEq, Prod.mk.injEq] at hj; obtain ⟨rfl, rfl⟩ := hj; exact hr'
            · cases hj
        have hne : k ≠ j := by
          rintro rfl
          rw [h] at hjq
          simp only [Option.some.injEq] at hjq
          exact hr (hjq ▸ hq)
        split_ifs
        · rw [request?_makeDone]; simp [hne, h]
        · rw [request?_onRequest]; simp [hne, h]
      · exact h

/-- An entry that is not OFFLINE is not flushed. -/
theorem flushOffline_of_ne {s : State} {n : LineNo} {a : Byte} {e : Station} (h : s.station? n a = some e)
    (hl : e.liveness ≠ .offline) : s.flushOffline n a = s := by
  unfold State.flushOffline; rw [h]; simp [hl]

/-- A turn's end as the frame TurnOver: `t` is the state once the request has its result. -/
theorem turnOver_finishTurn {s t : State} {n : LineNo} (hr : t.control.device = .running) (ha : t.admin.work = .none)
    (h : State.Settling n s t) (hq : State.Quiet n s t) (x : Exchange) (continues : Bool) (rep : Report)
    (retry : Option Exchange) : State.TurnOver n retry s (t.finishTurn n x continues rep retry .idle) := by
  have f := h.turnEnded (turnEnded_finishTurn n t x continues rep retry .idle)
  have hp := finishTurn_plain hr ha n x continues rep retry .idle
  have q := hq.trans ((quiet_applyReport n t x rep).trans (quiet_settleAnswering n _ x retry.isNone))
  have l := (h.trans ((settling_applyReport n t x rep).trans (settling_settleAnswering n _ x retry.isNone))).line
  refine ⟨f.state, ?_, f.reservation, f.writing, f.config, f.fetch, ?_, ?_, f.rx, f.reading, f.device, ?_, ?_, f.others⟩
  · rw [hp]; simp [Line.turnOver, q.sched]
  · rw [hp, (settling_settleHeld n _).line.streak]; simp [Line.turnOver, l.streak]
  · rw [hp]; simp [Line.turnOver, q.txBuf]
  · rw [hp]; simp [q.admin]
  · rw [hp]; simp [q.port]

end Sys2Proof.Machine
end

