-- ==== Sys2Proof/Tests/Slice0.lean ====
section
/-! SUPPORT. Tests of the model's own author: which commands are well formed, figures of the spec, and for every statement of
Certificates/Slice0/Obligations.lean a state and operands that meet its hypotheses. -/

namespace Sys2Proof.Tests

open Sys2Proof.Machine

/-! ### States the tests start from -/

/-- A RUNNING device: four entries in every ring, one record posted in each host-fed ring. -/
def running : State :=
  { State.reset with
    control := { Control.reset with device := .running }
    sq := Vector.replicate 9 ⟨0x1000, 4, .active, 0, 1⟩
    cq := Vector.replicate 5 ⟨0x2000, 4, .active, 0, true, 0, 0⟩
    bq := Vector.replicate 4 ⟨0x3000, 4, .active, 0, 1⟩
    er := ⟨0x4000, 4, .active, 0, true, 0, 0⟩ }

/-- Line 1 set up and IDLE. -/
def lineUp : State := running.onLine 1 fun l => { l with
  state := .idle, config := { l.config with rate := some 0, bufferSize := some 16 } }

/-- A station at address 5 of line 1, ONLINE and in step, with these slots on its list. -/
def station (pending : List SlotNo) : Station :=
  ⟨1, 5, .online, false, false, 3, 1, some 0, 0, 200, 3, 3, 100, 8, none, pending, 0, 0, 0⟩

/-- A request of this kind and state for it. -/
def request (kind : RequestKind) (state : RequestState) : Request :=
  ⟨true, 7, kind, 5, 0x9000, 3, 0xA000, 16, 30, 0, state, false, false, false, false, 0, 0, none, none, none, 0⟩

/-- Line 1 with the station and, in slot 0, a request at the head of its list. -/
def withRequest (r : Request) : State :=
  { lineUp with stations := [station [0]] }.onLine 1 fun l => { l with
    pool := ⟨l.pool.slots.set 0 (.held r), [], [], 1⟩ }

/-- An exchange with the station. -/
def exchange (frame : FrameKind) (control : Byte) (slot : Option SlotNo) : Exchange :=
  ⟨.request, some 5, slot, frame, 5, control, 1, true⟩

/-- A turn in a phase, no timer running. -/
def turn (x : Exchange) (phase : Phase) : Turn := ⟨x, phase, none, none, none, none, none, [], none, none⟩

/-- `s` with a turn in flight on line 1. -/
def inTurn (t : Turn) (s : State) : State := s.onLine 1 fun l => { l with
  state := .turn t, post := { l.post with reservation := true } }

/-- A turn in RECEIVE before END, its check agreeing. -/
def beforeEnd (x : Exchange) (control : Byte) (payload : List Byte) : Turn :=
  { turn x .receive with collector := some ⟨true, false, .endMark, 5, control, 0, 0, payload, 0, 0⟩ }

/-- The retry of a SELECT is pending. -/
def retryPending : State := (withRequest (request .send .active)).onLine 1 fun l => { l with
  sched := { l.sched with retry := some (exchange .select 0x23 (some 0)) } }

/-- A BROADCAST turn in GUARD. -/
def broadcasting (r : Request) : State :=
  (inTurn { turn ⟨.request, none, some 0, .broadcast, 127, 0x40, 1, false⟩ .guard with jamEnd := some 9 } (withRequest r)).onLine 1
    fun l => { l with pool := { l.pool with broadcast := [0] } }

/-- `s` with an access in flight. -/
def during (kind : AccessKind) (data : List Byte) (s : State) : State :=
  { s with port := { s.port with inFlight := some ⟨kind, 0x5000, 32, data, false⟩ } }

/-- The state after a command, if it has one. -/
def after (c : Instr) (s : State) : Option State :=
  match exec c s with
  | .next t => some t
  | .fault _ => none
  | .refused _ => none

/-- A 32-byte record beginning with these bytes. -/
def record (bytes : List Byte) : List Byte := bytes ++ List.replicate (32 - bytes.length) 0

/-- A control block whose 19 descriptors give this base, of 64-byte steps, and this count. -/
def block (count : Nat → Nat) : List Byte :=
  (List.range 19).flatMap (fun k => [0, BitVec.ofNat 8 (k + 1), 0, 0, 0, 0, 0, 0, BitVec.ofNat 8 (count k), 0, 0, 0, 0, 0, 0, 0])
    ++ List.replicate 208 0

/-- An access in flight that is acted on. -/
theorem awaits (kind : AccessKind) (data : List Byte) (s : State) (h : s.active = true) :
    (during kind data s).Awaits kind ⟨kind, 0x5000, 32, data, false⟩ := ⟨rfl, rfl, by simp [State.heeds]; exact h⟩

/-- The SQ0 read in flight, acted on. -/
theorem awaitsAdmin (s : State) (h : s.active = true) (k : Nat) (rec : List Byte) (hl : rec.length = 32)
    (hk : (byteAt rec 0).toNat = k) : (during .adminRead [] s).AwaitsAdmin ⟨.adminRead, 0x5000, 32, [], false⟩ k rec :=
  ⟨awaits _ _ _ h, hl, hk⟩

/-- The frame conditions of a turn's end. -/
theorem plainTurn (t : Turn) (r : Request) (hs : t.exch.station = some 5) (ha : t.exch.address = 5) :
    (inTurn t (withRequest r)).PlainTurn 1 t (station [0]) := by
  refine ⟨rfl, rfl, ?_, hs, ha, rfl, rfl⟩
  simp [inTurn, State.onLine, State.line, State.setLine]

/-! ### Well-formed commands -/

/-- Every check of WellFormed refuses a term that fails it. -/
theorem test_wellFormed_refuses :
    Instr.wellFormed (.commandInvalid 1) = false ∧ Instr.wellFormed (.commandInvalid 4) = false
      ∧ Instr.wellFormed (.registerWriteIgnored 0 4 0) = false ∧ Instr.wellFormed (.registerWriteIgnored 0x14 4 1) = false
      ∧ Instr.wellFormed (.registerWriteIgnored 0x17 4 0) = false
      ∧ Instr.wellFormed (.controlBlockReadDone (List.replicate 511 0)) = false
      ∧ Instr.wellFormed (.takeLineRequest (List.replicate 31 0)) = false
      ∧ Instr.wellFormed (.adminMalformed (record [9])) = false ∧ Instr.wellFormed (.adminMalformed [0]) = false
      ∧ Instr.wellFormed (.descriptorReadDone (List.replicate 17 0)) = false
      ∧ Instr.wellFormed (.payloadReadDone []) = false ∧ Instr.wellFormed (.payloadReadDone (List.replicate 241 0)) = false := by
  decide +kernel

/-- A record of another kind, or of another length, is none of the nine admin commands. -/
theorem test_wellFormed_refuses_admin :
    (∀ c ∈ [Instr.lineSetup, .lineDisable, .lineReset, .attach, .detach, .stationSet, .stationRead, .cancel, .queueResume],
      (c (record [0])).wellFormed = false ∧ (c (record [10])).wellFormed = false)
    ∧ Instr.wellFormed (.attach [4]) = false := by decide

/-- Terms at the edge that the checks accept. -/
theorem test_wellFormed_accepts :
    Instr.wellFormed (.commandInvalid 0) = true ∧ Instr.wellFormed (.commandInvalid 5) = true
      ∧ Instr.wellFormed (.registerWriteIgnored 0x0C 4 7) = true ∧ Instr.wellFormed (.registerWriteIgnored 0x18 4 7) = true
      ∧ Instr.wellFormed (.registerWriteIgnored 0x14 4 3) = true ∧ Instr.wellFormed (.registerWriteIgnored 0 2 7) = true
      ∧ Instr.wellFormed (.lineSetup (record [1])) = true ∧ Instr.wellFormed (.adminMalformed (record [10])) = true
      ∧ Instr.wellFormed (.payloadReadDone (List.replicate 240 0)) = true := by decide +kernel

/-- No word spells a command. -/
theorem test_no_row_has_bits : decodeTableWord 32 1 = none := rfl

/-! ### Figures of the spec -/

/-- R41: the check of the nine characters 1..9. -/
theorem test_check_value : checkOf [0x31, 0x32, 0x33, 0x34, 0x35, 0x36, 0x37, 0x38, 0x39] = 0x29B1 := by decide +kernel

/-- Figure 3-7: three frames on the wire. -/
theorem test_frames_on_the_wire :
    frameChars 0x11 0x18 [0x08] = [0xC5, 0x11, 0x18, 0x01, 0x08, 0xB1, 0x28, 0xCA]
      ∧ frameChars 0x03 0x22 [0xC5, 0x10] = [0xC5, 0x03, 0x22, 0x02, 0xD7, 0x45, 0x10, 0xB0, 0x08, 0xCA]
      ∧ frameChars 0x03 0xA2 [] = [0xC5, 0x03, 0xA2, 0x00, 0xEE, 0xD0, 0xCA] := by decide +kernel

/-- Figure 3-8: the collector over an IDLE reply, one place before END and at END. -/
theorem test_collecting_idle :
    Collector.feed 0x11 .waiting [0xC5, 0x11, 0x90, 0x00, 0xA0, 0x24]
        = .more ⟨true, false, .endMark, 0x11, 0x90, 0, 0, [], 0xA024, 0xA024⟩
      ∧ Collector.feed 0x11 .waiting [0xC5, 0x11, 0x90, 0x00, 0xA0, 0x24, 0xCA] = .complete 0x90 []
      ∧ Collector.feed 0x11 .waiting [0xC5, 0x11, 0x90, 0x00, 0xD7, 0xCA] = .garbled := by decide +kernel

/-- Figures 13-2 and 13-7: the STATE word of a RUNNING device without faults, and an arrival record's bytes. -/
theorem test_words_and_records :
    running.readRegister 0x0C = 0x0FF00002
      ∧ (arrivalOf 1 0x0305 9 16 true).bytes true = [2, 1, 0, 0, 15, 9, 5, 3, 0, 4, 16, 0, 0, 0, 0, 0] := by decide

/-- R36: ten levels a character, the least significant data bit first. -/
theorem test_levels_of_a_character :
    charLevels 0xC5 = [false, true, false, true, false, false, false, true, true, true] := by decide

/-! ### The hypotheses of the statements are met -/

/-- The register window: the conditions of the ignored and refused writes. -/
theorem test_hyp_WritesWithoutEffect :
    State.reset.active = false ∧ running.control.device ≠ .idle ∧ State.reset.control.device ≠ .running
      ∧ ({ State.reset with resetHeld := true } : State).resetHeld = true ∧ running.resetHeld = false
      ∧ ((0 : Word).extractLsb' 0 4).toNat = 0 ∧ 4 < ((5 : Word).extractLsb' 0 4).toNat := by decide

/-- A POST of the first and the last host-fed ring of each kind. -/
theorem test_hyp_PostMovesProducerIndex :
    running.active = true ∧ running.resetHeld = false
      ∧ ∀ p ∈ [((0x00010000 : Word), (0 : Fin 9), 1), (0x00030008, 8, 3)],
        (p.1.extractLsb' 16 16).toNat = p.2.2 ∧ (p.1.extractLsb' 0 8).toNat = p.2.1.val
          ∧ (running.sqRing p.2.1).state ≠ .absent ∧ p.2.2 < (running.sqRing p.2.1).count
          ∧ ((running.sqRing p.2.1).p + (running.sqRing p.2.1).count - (running.sqRing p.2.1).c) % (running.sqRing p.2.1).count
            ≤ (p.2.2 + (running.sqRing p.2.1).count - (running.sqRing p.2.1).c) % (running.sqRing p.2.1).count := by decide

theorem test_hyp_PostMovesProducerIndex_buffers :
    ∀ p ∈ [((0x0001000E : Word), (0 : LineNo), 1), (0x00030011, 3, 3)],
      (p.1.extractLsb' 16 16).toNat = p.2.2 ∧ (p.1.extractLsb' 0 8).toNat = 14 + p.2.1.val
        ∧ (running.bqRing p.2.1).state ≠ .absent ∧ p.2.2 < (running.bqRing p.2.1).count
        ∧ ((running.bqRing p.2.1).p + (running.bqRing p.2.1).count - (running.bqRing p.2.1).c) % (running.bqRing p.2.1).count
          ≤ (p.2.2 + (running.bqRing p.2.1).count - (running.bqRing p.2.1).c) % (running.bqRing p.2.1).count := by decide

/-- Part-fed rings with two records waiting. -/
def twoWritten : State :=
  { running with cq := Vector.replicate 5 ⟨0x2000, 4, .active, 2, true, 0, 2⟩, er := ⟨0x4000, 4, .active, 2, true, 0, 2⟩ }

/-- A consumer POST that releases everything, for the first and the last completion ring and for ER. -/
theorem test_hyp_PostReleasesRecords :
    (∀ p ∈ [((0x00020009 : Word), (0 : Fin 5), 2), (0x0002000D, 4, 2)],
      (p.1.extractLsb' 16 16).toNat = p.2.2 ∧ (p.1.extractLsb' 0 8).toNat = 9 + p.2.1.val ∧ (twoWritten.cqRing p.2.1).state ≠ .absent
        ∧ 2 < (twoWritten.cqRing p.2.1).count
        ∧ (2 + (twoWritten.cqRing p.2.1).count - (twoWritten.cqRing p.2.1).consumer) % (twoWritten.cqRing p.2.1).count = 2
        ∧ 2 ≤ (twoWritten.cqRing p.2.1).unconsumed)
      ∧ ((0x00020012 : Word).extractLsb' 0 8).toNat = 18 ∧ twoWritten.er.state ≠ .absent
      ∧ (2 + twoWritten.er.count - twoWritten.er.consumer) % twoWritten.er.count = 2 ∧ 2 ≤ twoWritten.er.unconsumed := by
  decide

/-- Rejected POSTs: no such ring, an index not below n, one behind the producer, more than U records. -/
theorem test_hyp_RejectedPostOffersEvent :
    18 < ((0x00000013 : Word).extractLsb' 0 8).toNat
      ∧ (running.sqRing 8).count ≤ ((0x00040008 : Word).extractLsb' 16 16).toNat
      ∧ (0 + (running.bqRing 3).count - (running.bqRing 3).c) % (running.bqRing 3).count
        < ((running.bqRing 3).p + (running.bqRing 3).count - (running.bqRing 3).c) % (running.bqRing 3).count
      ∧ (running.cqRing 4).unconsumed < (1 + (running.cqRing 4).count - (running.cqRing 4).consumer) % (running.cqRing 4).count
      ∧ running.er.unconsumed < (1 + running.er.count - running.er.consumer) % running.er.count
      ∧ (after (.post 0x00000013) running).map (fun t => t.events.fifo)
        = some [⟨.postRejected, 255, 0, 0x13, 0, false⟩] := by decide

/-- IDLE with the window open. -/
theorem test_hyp_BaseWritesAndStartInIdle : State.reset.resetHeld = false ∧ State.reset.control.device = .idle := by decide

/-- SQ0 HALTED, ACTIVE and ABSENT. -/
theorem test_hyp_ResumeAdminReactivatesSQ0 :
    ((running.setSq 0 { running.sqRing 0 with state := .halted }).sqRing 0).state = .halted
      ∧ (running.sqRing 0).state = .active ∧ (State.reset.sqRing 0).state = .absent := by decide

/-- `running` with class flags. -/
def flagged (pending inService mask : BitVec 4) : State :=
  { running with events := { running.events with
      pending := pending, inService := inService, mask := mask, irq := interruptFor pending inService mask } }

/-- Class 3 behind a masked class 2, class 0 against its mask flag, and NONE behind a class in service. -/
theorem test_hyp_TakeTakesMostUrgentClass :
    (∀ p ∈ [(flagged 0b1100 0 0b0100, 3), (flagged 0b0001 0b1110 0b0001, 0)],
      p.2 < 4 ∧ p.1.events.pending.getLsbD p.2 = true ∧ (p.2 = 0 ∨ p.1.events.mask.getLsbD p.2 = false)
        ∧ (∀ j ≤ p.2, p.1.events.inService.getLsbD j = false)
        ∧ ∀ j < p.2, p.1.events.pending.getLsbD j = false ∨ (j ≠ 0 ∧ p.1.events.mask.getLsbD j = true))
    ∧ ∀ k < 4, (flagged 0b1110 0b0010 0).events.pending.getLsbD k = false
        ∨ (k ≠ 0 ∧ (flagged 0b1110 0b0010 0).events.mask.getLsbD k = true)
        ∨ ∃ j ≤ k, (flagged 0b1110 0b0010 0).events.inService.getLsbD j = true := by decide

theorem test_take_word :
    (after .take (flagged 0b1100 0 0b0100)).map (fun t => (t.eventRead, t.events.irq)) = some (0x00004843, false) := by decide

/-- Class 1 in service before class 3; no class in service, the output following. -/
theorem test_hyp_ReleaseLeavesService :
    (flagged 0 0b1010 0).events.inService.getLsbD 1 = true
      ∧ (∀ j < 1, (flagged 0 0b1010 0).events.inService.getLsbD j = false) ∧ State.reset.events.inService = 0 := by decide

theorem test_hyp_irqFollows : State.reset.irqFollows := by unfold State.irqFollows; decide

/-- `running` with `k` records staged and ER holding `u` records. -/
def staged (k u : Nat) (writing : Bool) : State :=
  { running with
    er := { running.er with unconsumed := u }
    events := { running.events with fifo := List.replicate k (eventOf .lineJammed 1 5 2), writing := writing } }

/-- The FIFO with one place left, full, and staged records with ER full and no write in flight. -/
theorem test_hyp_OfferedRecordStagedOrDropped :
    (staged 7 0 false).events.fifo.length < 8 ∧ (staged 7 0 false).er.unconsumed < (staged 7 0 false).er.count
      ∧ 8 ≤ (staged 8 4 true).events.fifo.length ∧ (staged 8 4 true).events.writing = true
      ∧ (staged 2 4 false).er.count ≤ (staged 2 4 false).er.unconsumed ∧ (staged 2 4 false).events.writing = false := by decide

/-- The last free place of ER: a write begins, and ends with ER full. -/
theorem test_hyp_EventRecordIsWritten :
    (staged 2 3 false).events.fifo = [eventOf .lineJammed 1 5 2, eventOf .lineJammed 1 5 2]
      ∧ (staged 2 3 false).er.unconsumed < (staged 2 3 false).er.count
      ∧ (staged 2 3 true).er.count ≤ (staged 2 3 true).er.unconsumed + 1
      ∧ (after .eventWriteDone (during .eventWrite [] (staged 3 3 true))).map (fun t => (t.events.missed, t.events.pending))
        = some (2, 1) := by decide

/-! ### The Host Port, FAULTED, START and STOP -/

/-- Two requesters waiting, the cursor at the later one. -/
def twoWaiting : State :=
  { running with port := { running.port with
      waiting := [readAccess (.fetchRead 3) 0 32, readAccess .adminRead 0 32], cursor := 18 } }

theorem test_hyp_HostPortServesInRotation :
    twoWaiting.port.inFlight = none ∧ readAccess .adminRead 0 32 ∈ twoWaiting.port.waiting
      ∧ (∀ b ∈ twoWaiting.port.waiting, b.kind.position = AccessKind.adminRead.position → b = readAccess .adminRead 0 32)
      ∧ (∀ b ∈ twoWaiting.port.waiting, (AccessKind.adminRead.position + 22 - twoWaiting.port.cursor.val) % 23
        ≤ (b.kind.position + 22 - twoWaiting.port.cursor.val) % 23)
      ∧ (after .hostPortAccessStart twoWaiting).map (fun t => t.port.cursor) = some 1 := by decide

/-- An access in flight on a RUNNING and on a FAULTED device. -/
theorem test_hyp_FailedAccessEntersFaulted (k : AccessKind) :
    (during k [] running).port.inFlight = some ⟨k, 0x5000, 32, [], false⟩ ∧ (during k [] running).control.device = .running
      ∧ (during k [] { running with control := { running.control with device := .faulted } }).control.device = .faulted :=
  ⟨rfl, rfl, rfl⟩

/-- A failed access in IDLE, one with another waiting to start, and one whose further fault is only noted. -/
theorem test_failed_access_by_device_state :
    (after (.busError 0 true) (during .adminRead [] State.reset)).map (fun t => (t.port.inFlight, t.control.device)) = some (none, .idle)
      ∧ (after (.busError 0 true) (during .adminRead [] twoWaiting)).map (fun t => (t.port.inFlight.isSome, t.control.device))
        = some (true, .faulted)
      ∧ (after (.busError 0 false) (during .adminRead [] { running with control := { running.control with device := .faulted } })).map
        (fun t => t.control.furtherFault) = some true := by decide

/-- The device FAULTED. -/
def faulted : State := { running with control := { running.control with device := .faulted } }

/-- In FAULTED: an SQ0 read and a control block read complete. -/
theorem test_hyp_AccessInFaultedHasNoFurtherEffect :
    faulted.control.device = .faulted ∧ (record [9]).length = 32 ∧ (byteAt (record [9]) 0).toNat = 9
      ∧ ((after (.lineReset (record [3, 1])) (during .adminRead [] faulted)).map fun t => (t.port.inFlight, t.admin.work))
        = some (none, .none)
      ∧ ((after (.controlBlockReadDone (List.replicate 512 0)) (during .controlBlockRead [] faulted)).map fun t =>
          (t.port.inFlight, t.control.device)) = some (none, .faulted) := by decide +kernel

/-- In FAULTED the write of a completion record completes: whatever number of words is drawn, the word with the lap flag is not
there and the words after it are there or not. -/
theorem test_record_dropped_in_faulted :
    (∃ t, exec .recordWriteDone (during (.recordWrite 1) (List.replicate 16 7) faulted) = .next t ∧ t.hostMem.read 0x5000 = none
      ∧ t.port.inFlight = none ∧ t.lines = faulted.lines ∧ t.cq = faulted.cq)
      ∧ (AccessKind.recordWrite 1 = .recordWrite 1 ∧ (List.replicate 16 (7 : Byte)).length = 16 ∧ (0x5000 : Addr).toNat % 4 = 0) := by
  refine ⟨⟨_, rfl, ?_, rfl, rfl, rfl⟩, by decide⟩
  show Memory.read (Memory.afterCut [] ⟨.recordWrite 1, 0x5000, 32, List.replicate 16 7, false⟩
    (Config.wordsInFaulted 0)) 0x5000 = none
  generalize Config.wordsInFaulted 0 = w
  unfold Memory.afterCut
  have h : min w (Access.wordCount ⟨.recordWrite 1, 0x5000, 32, List.replicate 16 7, false⟩ - 1) < 4 := by
    have : Access.wordCount ⟨.recordWrite 1, 0x5000, 32, List.replicate 16 7, false⟩ = 4 := by decide
    omega
  generalize min w _ = v at h
  interval_cases v <;> decide

/-- The entry into FAULTED withdraws a payload read that waits, and leaves the other accesses waiting. -/
theorem test_faulted_withdraws_payload_read :
    ((after (.busError 0 false) (during .adminRead [] { running with port := { running.port with
        waiting := [readAccess (.payloadRead 2) 0 9, readAccess (.fetchRead 1) 0 32] } })).map fun t => t.port.waiting)
      = some [readAccess (.fetchRead 1) 0 32] := by decide

/-- A payload read whose turn was abandoned completes on a RUNNING device. -/
theorem test_abandoned_access_completes :
    ((after (.payloadReadDone [1, 2]) ({ running with port := { running.port with
        inFlight := some ⟨.payloadRead 1, 0x5000, 2, [], true⟩ } } : State)).map fun t => (t.port.inFlight, t.lines))
      = some (none, running.lines)
      ∧ (HostPort.abandon ⟨some (readAccess (.payloadRead 1) 0 2), [], 0⟩ (turnAccess 1)).inFlight
        = some { readAccess (.payloadRead 1) 0 2 with abandoned := true } := by decide

/-- A data write of 9 bytes that fails after two words leaves 8 bytes; a reset's witness. -/
theorem test_failed_data_write :
    ((after (.busError 2 false) (during (.bufferWrite 1) (List.replicate 9 7) running)).map fun t =>
        (t.hostMem.read 0x5007, t.hostMem.read 0x5008)) = some (some 7, none)
      ∧ (during (.bufferWrite 1) [7] running).resetHeld = false
      ∧ (during (.bufferWrite 1) [7] running).port.inFlight.isSome = true := by decide

/-- A completed write of one byte at the top of the address space wraps to address 0; a failed record write leaves its first
word. -/
theorem test_writes_reach_host_memory :
    (running.finishAccess (writeAccess (.bufferWrite 1) 0xFFFFFFFFFFFFFFFF [1, 2])).hostMem = [(0, 2), (0xFFFFFFFFFFFFFFFF, 1)]
      ∧ (after (.busError 9 false) (during .adminWrite (List.replicate 16 7) running)).map (fun t => t.hostMem.head?)
        = some (some (0x5004, 7)) := by decide

/-- A control block whose 19 descriptors are good. -/
theorem test_hyp_ControlBlockDecidesStart :
    (∀ k < 19, DescriptorGood (block fun _ => 4) k) ∧ (block fun _ => 4).length = 512 := by
  unfold DescriptorGood; decide +kernel

/-- The first and the last descriptor as the lowest that fails; an absent ring is good but where it must be present. -/
theorem test_hyp_ControlBlockDecidesStart_fails :
    ¬ DescriptorGood (block fun _ => 0) 0 ∧ ¬ DescriptorGood (block fun k => if k = 18 then 3 else 0x40) 18
      ∧ (∀ j < 18, DescriptorGood (block fun k => if k = 18 then 3 else 0x40) j) ∧ DescriptorGood (block fun _ => 0) 1 := by
  unfold DescriptorGood; decide +kernel

/-- STOP: a retry pending with its ACTIVE slot; a list and a broadcast list with a WAITING slot and none ACTIVE. -/
theorem test_hyp_StopAbortsWaitingRequests :
    (withRequest (request .send .waiting)).control.device = .running ∧ station [0] ∈ (withRequest (request .send .waiting)).ring 1
      ∧ (∀ k ∈ (station [0]).pending, (withRequest (request .send .waiting)).slotIs 1 k .active = false)
      ∧ ((withRequest (request .send .waiting)).line 1).storingAnswer 5 = false
      ∧ (withRequest (request .send .waiting)).slotIs 1 0 .waiting = true
      ∧ (after .stop ((withRequest (request .send .active)).onLine 1 fun l => { l with
          sched := { l.sched with retry := some (exchange .select 0x23 (some 0)) } })).map
        (fun t => ((t.request? 1 0).map fun r => (r.outcome, r.deliveryUnknown))) = some (some (some .aborted, true)) := by
  decide

/-- STOP with a retry pending: its slot first, then the earlier station's list, then what stands behind it (R167). -/
theorem test_stop_keeps_station_ring_order :
    ((after .stop (({ withRequest (request .send .active) with stations := [{ station [1] with address := 4 }, station [0, 2]] }
        : State).onLine 1 fun l => { l with
          pool := { l.pool with slots := (l.pool.slots.set 1 (.held (request .send .waiting))).set 2 (.held (request .send .waiting)) }
          sched := { l.sched with retry := some (exchange .select 0x23 (some 0)) }
          buf := { l.buf with reserved := true } })).map fun t =>
        ((t.line 1).pool.doneOrder, (t.line 1).buf.reserved, t.stations.map Station.outOfStep))
      = some ([0, 1, 2], false, [false, true]) := by decide

/-- STOP with two retries of SELECTs pending offers STATION_OUT_OF_STEP line by line; a BROADCAST in flight keeps its list. -/
theorem test_stop_events_and_broadcasts :
    ((after .stop (({ retryPending with stations := [station [0], { station [] with line := 2, address := 8 }] } : State).onLine 2
        fun l => { l with sched := { l.sched with retry := some ⟨.request, some 8, none, .reset, 8, 0x30, 1, true⟩ } })).map fun t =>
        t.events.fifo) = some [eventOf .stationOutOfStep 1 5 512, eventOf .stationOutOfStep 2 8 512]
      ∧ ((after .stop ((broadcasting (request .broadcast .active)).onLine 1 fun l => { l with pool := { l.pool with
          slots := l.pool.slots.set 1 (.held (request .broadcast .waiting)), broadcast := [0, 1] } })).map fun t =>
        ((t.line 1).pool.broadcast, (t.request? 1 1).map Request.state)) = some ([0, 1], some .waiting) := by decide

/-- A drained device. -/
theorem test_hyp_DrainReachesIdle :
    (after .drainComplete { lineUp with control := { lineUp.control with device := .stopping } }).map
      (fun t => t.control.device) = some .idle := by decide

/-! ### Line requests -/

/-- Both choices of R86, at a full streak and below it. -/
theorem test_hyp_FetchClaimsByStreak :
    0 < (lineUp.sqRing (sqIndex 1 true)).available ∧ 0 < (lineUp.sqRing (sqIndex 1 false)).available
      ∧ (lineUp.line 1).streak ≠ 4 ∧ (lineUp.line 1).state ≠ .disabled ∧ (lineUp.line 1).fetch = none
      ∧ (lineUp.cqOf 1).state = .active ∧ (lineUp.line 1).pool.slots[(0 : SlotNo)] = .free
      ∧ ((after (.fetchClaim 1) lineUp).map fun t => (t.line 1).fetch) = some (some ⟨true, 0, false⟩)
      ∧ ((after (.fetchClaim 1) (lineUp.onLine 1 fun l => { l with streak := 4 })).map fun t => (t.line 1).fetch)
        = some (some ⟨false, 0, false⟩) := by decide

/-- A SEND of 3 bytes to station 5, and records that fail each of the five tests of R20. -/
def sendRecord : List Byte := record [1, 5, 7, 0, 3, 0, 0, 0, 0, 0x90]

theorem test_hyp_TakenRequestIsPlaced_wellFormed : ¬ RequestMalformed sendRecord := by
  rintro (h | h | h | h | h) <;> revert h <;> decide

theorem test_hyp_MalformedRecordHaltsRing :
    RequestMalformed (record [5, 5, 7, 0, 3, 0]) ∧ RequestMalformed (record [1, 128, 7, 0, 3, 0])
      ∧ RequestMalformed (record [4, 126, 7, 0, 3, 0]) ∧ RequestMalformed (record [3, 5, 7, 0, 1, 0])
      ∧ RequestMalformed (record [2, 5, 7, 0, 3, 0, 241, 0]) :=
  ⟨.inl (by decide), .inr (.inl (by decide)), .inr (.inr (.inl (by decide))), .inr (.inr (.inr (.inl (by decide)))),
    .inr (.inr (.inr (.inr (by decide))))⟩

/-- A fetch in flight, overtaken or not, its read acted on. -/
def fetching (overtaken : Bool) (stations : List Station) : State :=
  during (.fetchRead 1) [] ({ lineUp with stations := stations }.onLine 1 fun l => { l with
    fetch := some ⟨true, 2, overtaken⟩, pool := { l.pool with slots := l.pool.slots.set 2 .setAside } })

theorem test_hyp_TakenRequestIsPlaced :
    ((fetching false []).line 1).fetch = some ⟨true, 2, false⟩ ∧ ((fetching true []).line 1).fetch = some ⟨true, 2, true⟩
      ∧ sendRecord.length = 32 ∧ (fetching false []).station? 1 (byteAt sendRecord 1) = none
      ∧ (fetching false [station []]).station? 1 (byteAt sendRecord 1) = some (station [])
      ∧ (fetching false [{ station [] with liveness := .offline }]).station? 1 5 = some { station [] with liveness := .offline }
      ∧ (∀ s ∈ [fetching false [], fetching true [], fetching false [station []]], s.active = true) := by decide

theorem test_taken_requests :
    ((after (.takeLineRequest sendRecord) (fetching false [station []])).map fun t => t.stations) = some [station [2]]
      ∧ ((after (.takeLineRequest sendRecord) (fetching false [])).bind fun t => t.request? 1 2).bind Request.outcome = some .noStation
      ∧ ((after (.takeLineRequest sendRecord) (fetching true [])).bind fun t => t.request? 1 2).bind Request.outcome = some .aborted
      ∧ ((after (.takeLineRequest (record [5])) (fetching false [])).map fun t => (t.sqRing 3).state) = some .halted := by decide

/-- An overtaken record's slot joins those that a LINE_RESET and a LINE_DISABLE of the line wait for. -/
theorem test_overtaken_slot_is_waited_for :
    ∀ p ∈ [(0, AdminWork.resetting 9 1 [4], AdminWork.resetting 9 1 [4, 2]), (1, .disabling 9 1 true .ok [], .disabling 9 1 true .ok [2])],
      ((after (.takeLineRequest sendRecord) { fetching true [] with admin := ⟨p.2.1, true⟩ }).map fun t =>
        (t.admin.work, t.events.fifo)) = some (p.2.2, []) := by decide

/-! ### Admin requests -/

theorem test_hyp_AdminUnitClaimsAndCompletes_claim :
    1 ≤ (running.sqRing 0).available ∧ running.admin.work = .none ∧ (running.cqRing 0).unconsumed < (running.cqRing 0).count := by
  decide

/-- The CQ0 write in flight, its reservation standing. -/
theorem test_hyp_AdminUnitClaimsAndCompletes_write :
    (during .adminWrite [] { running with admin := ⟨.none, true⟩ }).admin.reservation = true
      ∧ running.active = true := by decide

/-- An SQ0 read whose record has kind 10, and one of kind 0. -/
theorem test_hyp_MalformedAdminHaltsSQ0 :
    (∃ a, (during .adminRead [] running).Awaits .adminRead a) ∧ (record [10]).length = 32 ∧ 9 < (byteAt (record [10]) 0).toNat
      ∧ (byteAt (record [0]) 0).toNat = 0 :=
  ⟨⟨_, awaits _ _ _ rfl⟩, by decide, by decide, by decide⟩

/-- Each value check of Figure 2-5 at a value just outside its range. -/
theorem test_hyp_FailedValueCheckIsBadParam :
    State.LineSetupBad running (record [1, 4]) ∧ StationParamsBad (record [4, 0, 0, 0, 127]) ∧ LineStationBad (record [5, 4, 0, 0, 1])
      ∧ StationParamsBad (record [6, 3, 0, 0, 126, 0]) ∧ LineStationBad (record [7, 0, 0, 0, 0])
      ∧ 3 < (byteAt (record [2, 4]) 1).toNat ∧ 8 < (byteAt (record [8, 0, 0, 0, 0, 0, 9]) 6).toNat := by
  refine ⟨.inl (by decide), ?_, ?_, ?_, ?_, by decide, by decide⟩
  · exact .inl (by unfold LineStationBad; decide)
  · unfold LineStationBad; decide
  · exact .inr (by decide)
  · unfold LineStationBad; decide

/-- LINE_SETUP of line `n` at rate code 7, buffer size 240, with the defaults. -/
def setupRecord (n : Byte) : List Byte := record [1, n, 9, 0, 0, 1, 0, 0, 0, 0, 0, 0, 0, 0, 0, 0, 0, 0, 7, 240]

theorem test_hyp_LineSetupEnablesLine :
    ¬ running.LineSetupBad (setupRecord 3) ∧ (byteAt (setupRecord 3) 1).toNat = (3 : LineNo).val
      ∧ (running.line 3).state = .disabled ∧ (lineUp.line 1).state ≠ .disabled
      ∧ ((after (.lineSetup (setupRecord 3)) (during .adminRead [] running)).map fun t => (t.line 3).config)
        = some ⟨some 7, some 240, 3, 4, 500, 100, 8, 50⟩ := by
  unfold State.LineSetupBad; decide

/-- LINE_DISABLE and LINE_RESET: a DISABLED line, an IDLE one without a retry, one with a turn in flight. -/
theorem test_hyp_LineDisableTakesLineOff :
    (lineUp.line 1).state = .idle ∧ (lineUp.line 1).sched.retry = none ∧ (lineUp.line 0).state = .disabled
      ∧ ((inTurn (turn (exchange .poll 0x10 none) .guard) lineUp).line 1).state = .turn (turn (exchange .poll 0x10 none) .guard)
      ∧ ((after (.lineDisable (record [2, 1])) (during .adminRead [] (withRequest (request .send .waiting)))).map fun t =>
          (t.admin.work, (t.line 1).pool.doneOrder)) = some (.disabling 0 1 true .ok [0], [0]) := by decide

/-- A QUERY whose answer deadline has passed behind the retry of a SYNC. -/
def lateQuery : State := { (withRequest { request .query .answering with answerDeadline := some 3 }).onLine 1 fun l => { l with
  sched := { l.sched with retry := some ⟨.sync, some 5, none, .reset, 5, 0x30, 1, true⟩ } } with now := 3 }

/-- LINE_DISABLE and DETACH of it: the deadline decides (R121), and the disable does not wait for that slot. -/
theorem test_passed_deadline_behind_retry :
    ((after (.lineDisable (record [2, 1])) (during .adminRead [] lateQuery)).map fun t =>
        ((t.request? 1 0).bind Request.outcome, t.admin.work)) = some (some .answerTimeout, .disabling 0 1 true .ok [])
      ∧ ((after (.detach (record [5, 1, 0, 0, 5])) (during .adminRead [] lateQuery)).map fun t =>
          ((t.request? 1 0).bind Request.outcome, t.stations)) = some (some .answerTimeout, []) := by decide

/-- A LINE_DISABLE that waits for a fetch, or for its turn, does not go on. -/
theorem test_hyp_LineDisableTakesLineOff_waits :
    (∀ p ∈ [(0, true, some (⟨true, 2, true⟩ : Fetch)), (1, false, none)],
      ((after .lineDisableComplete { lineUp.onLine 1 fun l => { l with fetch := p.2.2 } with
        admin := ⟨.disabling 9 1 p.2.1 .ok [], true⟩ }).map fun t => ((t.line 1).state, t.admin.work))
      = some (.idle, .disabling 9 1 p.2.1 .ok []))
    ∧ (lineUp.line 1).state ≠ .disabled ∧ ((lineUp.onLine 1 fun l => { l with fetch := some ⟨true, 2, true⟩ }).line 1).fetch ≠ none := by
  decide

/-- The LINE_DISABLE in progress with its slots entered, and with one still in the DONE order. -/
theorem test_hyp_LineDisableTakesLineOff_completes :
    (∀ k ∈ ([2] : List SlotNo), k ∉ (lineUp.line 1).pool.doneOrder) ∧ (lineUp.line 1).buf.reading = none
      ∧ ((after .lineDisableComplete { lineUp with admin := ⟨.disabling 9 1 true .ok [2], true⟩ }).map fun t =>
          (t.line 1).state) = some .disabled
      ∧ (∃ k ∈ ([2] : List SlotNo), k ∈ ((lineUp.onLine 1 fun l => { l with
          pool := { l.pool with doneOrder := [2] } }).line 1).pool.doneOrder) := by decide

theorem test_hyp_LineResetEndsEveryRequest :
    ((after (.lineReset (record [3, 1])) (during .adminRead []
        (inTurn (turn (exchange .select 0x23 (some 0)) .listen) (withRequest (request .send .active))))).map fun t =>
          ((t.request? 1 0).map fun r => (r.outcome, r.deliveryUnknown), (t.line 1).state))
        = some (some (some .aborted, true), .idle)
      ∧ ((after .lineResetComplete { lineUp with admin := ⟨.resetting 9 1 [2], true⟩ }).map fun t =>
          (t.line 1).sched.pollTimer) = some (some 100) := by decide

/-- LINE_RESET on a device in STOPPING with no descriptor read in flight empties the cache, completes without a poll timer,
and the drain then ends (R168, R169); one that waits for a slot. -/
theorem test_line_reset_in_stopping :
    ((after (.lineReset (record [3, 1])) (during .adminRead [] (inTurn (turn (exchange .poll 0x18 none) .listen)
        { lineUp.onLine 1 fun l => { l with buf := ⟨[⟨0xB000, 3⟩], true, false, none⟩ } with
          control := { lineUp.control with device := .stopping } }))).map fun t => ((t.line 1).buf, (t.line 1).drained))
        = some (⟨[], false, false, none⟩, true)
      ∧ ((after .lineResetComplete { lineUp with
            control := { lineUp.control with device := .stopping }, admin := ⟨.resetting 9 1 [], true⟩ }).map fun t =>
          ((t.line 1).sched.pollTimer, t.admin.work)) = some (none, .completing (adminCompletionOf 9 .ok 0 0))
      ∧ ((after .lineResetComplete { withRequest (request .send .waiting) with admin := ⟨.resetting 9 1 [], true⟩ }).map fun t =>
          t.admin.work) = some (.resetting 9 1 []) := by decide

theorem test_hyp_AttachAddsEntry :
    ¬ StationParamsBad (record [4, 1, 0, 0, 126, 1]) ∧ ¬ StationParamsBad (record [4, 1, 0, 0, 1, 1])
      ∧ lineUp.station? 1 5 = none ∧ (withRequest (request .send .waiting)).station? 1 5 = some (station [0])
      ∧ 64 ≤ ({ lineUp with stations := List.replicate 64 { station [] with line := 0 } } : State).stations.length
      ∧ ({ lineUp with stations := List.replicate 64 { station [] with line := 0 } } : State).station? 1 5 = none
      ∧ ({ lineUp with stations := List.replicate 63 { station [] with line := 0 } } : State).stations.length < 64 := by
  unfold StationParamsBad LineStationBad; decide

theorem test_hyp_DetachFreesEntry :
    ¬ LineStationBad (record [5, 1, 0, 0, 5])
      ∧ ((withRequest (request .send .waiting)).line 1).turn? = none
      ∧ ((after (.detach (record [5, 1, 0, 0, 5])) (during .adminRead [] (withRequest (request .send .waiting)))).map fun t =>
          (t.stations, (t.request? 1 0).bind Request.outcome)) = some ([], some .detached)
      ∧ ((after (.detach (record [5, 1, 0, 0, 5])) (during .adminRead []
          (inTurn (turn (exchange .poll 0x10 none) .guard) (withRequest (request .send .waiting))))).map fun t => t.admin.work)
        = some (.detaching 0 1 5) := by
  unfold LineStationBad; decide

/-- DETACH, CANCEL and LINE_DISABLE with a retry pending, DETACH with a turn to another station in flight. -/
theorem test_retries_given_up :
    (∀ p ∈ [(0, Instr.detach (record [5, 1, 0, 0, 5]), LineStatus.detached), (1, .lineDisable (record [2, 1]), .aborted),
        (2, .cancel (record [8, 0, 0, 0, 0, 0, 3, 0, 0, 0, 0, 0, 0, 0, 0, 0, 7]), .cancelled)],
      ((after p.2.1 (during .adminRead [] retryPending)).map fun t =>
        ((t.request? 1 0).map fun r => (r.outcome, r.deliveryUnknown), (t.line 1).sched.retry))
        = some (some (some p.2.2, true), none))
      ∧ ((after (.detach (record [5, 1, 0, 0, 5])) (during .adminRead [] (inTurn (turn ⟨.poll, some 6, none, .poll, 6, 0x10, 1, true⟩ .guard)
          (withRequest (request .send .waiting))))).map fun t => (t.request? 1 0).bind Request.outcome) = some (some .detached) := by
  decide

/-- CANCEL of a QUERY that is ANSWERING, and of one whose answer is being written. -/
theorem test_cancel_of_answering :
    ((after (.cancel (record [8, 0, 0, 0, 0, 0, 3, 0, 0, 0, 0, 0, 0, 0, 0, 0, 7])) (during .adminRead []
        (withRequest (request .query .answering)))).map fun t => (t.request? 1 0).bind Request.outcome) = some (some .cancelled)
      ∧ ((after (.cancel (record [8, 0, 0, 0, 0, 0, 3, 0, 0, 0, 0, 0, 0, 0, 0, 0, 7])) (during .adminRead []
          (inTurn { turn (exchange .poll 0x18 (some 0)) .store with store := some ⟨true, 1, 4, false⟩ }
            (withRequest (request .query .answering))))).map fun t => t.admin.work) = some (.cancelling 0 1 0) := by decide

/-- CANCEL gives up a SELECT's retry: the entry loses its step. CANCEL of an OFFLINE entry's RESYNC: the SEND behind it is
flushed. DETACH of the second entry: its list in order, the cursors to the first. -/
theorem test_cancel_and_detach_reports :
    ((after (.cancel (record [8, 0, 0, 0, 0, 0, 3, 0, 0, 0, 0, 0, 0, 0, 0, 0, 7])) (during .adminRead [] retryPending)).map fun t =>
        (t.events.fifo, t.stations.map Station.outOfStep)) = some ([eventOf .stationOutOfStep 1 5 512], [true])
      ∧ ((after (.cancel (record [8, 0, 0, 0, 0, 0, 3, 0, 0, 0, 0, 0, 0, 0, 0, 0, 7])) (during .adminRead []
          (({ withRequest (request .resync .waiting) with stations := [{ station [0, 1] with liveness := .offline }] } : State).onLine 1
            fun l => { l with pool := { l.pool with
              slots := l.pool.slots.set 1 (.held { request .send .waiting with tag := 8 }) } }))).map fun t =>
          ((t.line 1).pool.doneOrder, (t.request? 1 1).bind Request.outcome)) = some ([0, 1], some .offline)
      ∧ ((after (.detach (record [5, 1, 0, 0, 5])) (during .adminRead []
          (({ withRequest (request .send .waiting) with stations := [{ station [] with address := 4 }, station [1, 0]] } : State).onLine 1
            fun l => { l with
              pool := { l.pool with slots := l.pool.slots.set 1 (.held (request .send .waiting)) }
              sched := { l.sched with pollCursor := some 5, requestCursor := .station 5 } }))).map fun t =>
          ((t.line 1).pool.doneOrder, (t.line 1).sched.pollCursor, (t.line 1).sched.requestCursor))
        = some ([1, 0], some 4, .station 4) := by decide

theorem test_hyp_StationSetAndRead :
    ((withRequest (request .send .waiting)).station? 1 5).isSome = true
      ∧ ((after (.stationRead (record [7, 1, 0, 0, 5, 2])) (during .adminRead [] (withRequest (request .send .waiting)))).map fun t =>
          (t.admin.work, t.port.waiting.length)) = some (.snapshot 0 5, 1)
      ∧ ((after (.stationSet (record [6, 1, 0, 0, 5, 1])) (during .adminRead [] (withRequest (request .send .waiting)))).map fun t =>
          t.stations) = some [{ station [0] with retryLimit := 3 }]
      ∧ ((after .snapshotWriteDone (during .snapshotWrite [] { running with admin := ⟨.snapshot 0 5, true⟩ })).map fun t =>
          t.port.waiting.length) = some 1 := by decide

/-- CANCEL of tag 7 from ring 3: WAITING, ACTIVE, DONE, and no such request. -/
theorem test_hyp_CancelEndsOneRequest :
    ∀ p ∈ [(RequestState.waiting, RequestState.done, AdminWork.completing (adminCompletionOf 0 .ok 0 0)),
        (.active, .active, .cancelling 0 1 0), (.done, .done, .completing (adminCompletionOf 0 .tooLate 0 0))],
      ((after (.cancel (record [8, 0, 0, 0, 0, 0, 3, 0, 0, 0, 0, 0, 0, 0, 0, 0, 7])) (during .adminRead []
          (withRequest (request .send p.1)))).map fun t => ((t.request? 1 0).map Request.state, t.admin.work))
        = some (some p.2.1, p.2.2) := by decide

theorem test_hyp_CancelEndsOneRequest_none :
    ∀ k : SlotNo, lineUp.request? 1 k = none := by decide

theorem test_hyp_QueueResumeReactivates :
    ∀ k ∈ [(1 : Fin 9), 8], (byteAt (record [9, 0, 0, 0, 0, 0, BitVec.ofNat 8 k.val]) 6).toNat = k.val
      ∧ ((running.setSq k { running.sqRing k with state := .halted }).sqRing k).state = .halted
      ∧ (running.sqRing k).state = .active ∧ (State.reset.sqRing k).state = .absent := by decide

/-! ### Buffers, selection and turns -/

theorem test_hyp_DescriptorsFillTheCache :
    1 ≤ (lineUp.bqRing 1).available ∧ (lineUp.line 1).buf.cache.length < 4 ∧ (lineUp.line 1).buf.reading = none
      ∧ ∀ overtaken, ((lineUp.onLine 1 fun l => { l with buf := { l.buf with reading := some overtaken } }).line 1).buf.reading
        = some overtaken := by decide

/-- A descriptor read that completes in STOPPING with a turn in flight is discarded, and the cache is kept. -/
theorem test_descriptor_discarded_in_stopping :
    ((after (.descriptorReadDone (List.replicate 16 0)) (during (.descriptorRead 1) [] (inTurn (turn (exchange .poll 0x18 none) .listen)
        (({ lineUp with control := { lineUp.control with device := .stopping } } : State).onLine 1 fun l => { l with
          buf := ⟨[⟨0xB000, 3⟩], true, false, some true⟩ })))).map fun t => (t.line 1).buf)
      = some ⟨[⟨0xB000, 3⟩], true, false, none⟩ := by decide

/-- A walk that starts before its cursor's entry, and an ANSWERING head that is due. -/
theorem test_hyp_WalksAndViews :
    nextMember (some 5) Station.inPollView [{ station [] with address := 4 }, station []] = some ({ station [] with address := 4 }, true)
      ∧ (withRequest (request .query .answering)).head? 1 (station [0]) = some (0, request .query .answering) := by decide

/-- Selections of each kind, and none. -/
theorem test_hyp_SelectionTakesFirstStep :
    lineUp.choose 1 = none
      ∧ (withRequest (request .send .waiting)).choose 1 = some (.request (station [0]) 0)
      ∧ (withRequest { request .query .answering with queryPollDue := some 0 }).choose 1 = some (.queryPoll (station [0]))
      ∧ ({ lineUp with stations := [{ station [] with outOfStep := true }] } : State).choose 1
        = some (.sync { station [] with outOfStep := true })
      ∧ ({ lineUp with stations := [station []] } : State).choose 1 = some (.poll (station []) false false) := by decide

theorem test_selects_slow_and_broadcast :
    ({ lineUp with stations := [{ station [] with liveness := .offline }] }.onLine 1 fun l => { l with
        sched := { l.sched with credit := true } }).choose 1 = some (.slow { station [] with liveness := .offline })
      ∧ ((withRequest { request .broadcast .waiting with station := 127 }).onLine 1 fun l => { l with
        pool := { l.pool with broadcast := [0] } }).choose 1 = some (.request (station [0]) 0)
      ∧ (({ withRequest { request .broadcast .waiting with station := 127 } with stations := [] } : State).onLine 1 fun l => { l with
        pool := { l.pool with broadcast := [0] } }).choose 1 = some (.broadcast 0) := by decide

/-- A line that can start a turn. -/
theorem test_hyp_CanStartTurn (r : Request) : (withRequest r).CanStartTurn 1 := by
  refine ⟨rfl, ?_, rfl, rfl, ?_, ?_⟩ <;>
    simp [withRequest, lineUp, running, State.onLine, State.line, State.setLine, State.reset, Line.reset, PostingPath.reset,
      PostingPath.taken]

/-- POLLs: to an ANSWERING head, with a cached descriptor, and at the onset of a shortage. -/
theorem test_hyp_ResetAndPollTurnsStart :
    (withRequest (request .query .answering)).answeringHead? 1 (station [0]) = some 0
      ∧ ((after (.turnSelection 1) { lineUp with stations := [station []] }).map fun t =>
          ((t.line 1).txBuf, (t.line 1).buf.exhausted, t.events.fifo.map EventRecord.detail)) = some ([0], true, [1])
      ∧ ((after (.turnSelection 1) ({ lineUp with stations := [station []] }.onLine 1 fun l => { l with
          buf := { l.buf with cache := [⟨0xB000, 3⟩] } })).map fun t => ((t.line 1).buf.reserved, t.events.fifo))
        = some (true, []) := by decide

/-- REQUEST turns of a SEND and a RESYNC. -/
theorem test_hyp_RequestTurnsStart :
    ((after (.turnSelection 1) (withRequest (request .send .waiting))).map fun t => ((t.line 1).state, t.port.waiting.length))
        = some (.turn (turn ⟨.request, some 5, some 0, .select, 5, 0x23, 1, false⟩ .load), 1)
      ∧ ((after (.turnSelection 1) (withRequest (request .resync .waiting))).map fun t => ((t.line 1).state))
        = some (.turn { turn ⟨.request, some 5, some 0, .reset, 5, 0x30, 1, false⟩ .guard with
            quietEnd := some 31, jamEnd := some 500 }) := by decide

/-- A retry pending; a turn in LOAD; a turn in GUARD. -/
theorem test_hyp_TurnReachesTheWire :
    ((after (.retryTurnStart 1) ((withRequest (request .send .active)).onLine 1 fun l => { l with
        sched := { l.sched with retry := some (exchange .select 0x23 (some 0)) } })).map fun t =>
          ((t.request? 1 0).map Request.retriesUsed, (t.line 1).sched.retry)) = some (some 1, none)
      ∧ ((after (.payloadReadDone (List.replicate 32 1)) (during (.payloadRead 1) []
          (inTurn (turn (exchange .select 0x23 (some 0)) .load) (withRequest (request .send .active))))).map fun t =>
            (t.line 1).txBuf.length) = some 32 := by decide

theorem test_guard_ends_in_send :
    ((after (.guardEnd 1) (inTurn { turn (exchange .reset 0x30 none) .guard with quietEnd := some 3 }
        (withRequest (request .send .waiting)))).map fun t => ((t.line 1).de, t.now)) = some (true, 3) := by decide +kernel

/-- SEND ends for a turn to a station and for a BROADCAST. -/
theorem test_hyp_SendEndsInListen :
    ((after (.sendDone 1) (inTurn { turn (exchange .reset 0x30 none) .send with sendEnd := some 8 }
        (withRequest (request .send .waiting)))).map fun t => (t.line 1).turn?.map fun x => (x.phase, x.replyEnd))
        = some (some (.listen, some 208))
      ∧ ((after (.sendDone 1) (inTurn { turn ⟨.request, none, some 0, .broadcast, 127, 0x40, 1, true⟩ .send with sendEnd := some 8 }
          (withRequest { request .broadcast .active with station := 127 }))).map fun t =>
            ((t.request? 1 0).bind Request.outcome, (t.line 1).state)) = some (some .ok, .idle) := by decide

/-- A character in GUARD, a MARK in LISTEN, and a framing error in RECEIVE. -/
theorem test_hyp_CharacterCountsByPhase :
    ((after (.characterReceived 1 0x41 false false) (inTurn (turn (exchange .reset 0x30 none) .guard) lineUp)).map fun t =>
        (t.line 1).turn?.bind Turn.quietEnd) = some (some 31)
      ∧ ((after (.characterReceived 1 0xC5 false false) (inTurn { turn (exchange .reset 0x30 none) .listen with
          collector := some .waiting } lineUp)).map fun t => (t.line 1).turn?.bind Turn.gapEnd) = some (some 41)
      ∧ ((after (.characterReceived 1 0x41 true false) (inTurn (beforeEnd (exchange .reset 0x30 none) 0xD0 [])
          (withRequest (request .send .waiting)))).map fun t => ((t.line 1).state, (t.line 1).sched.retry.isSome))
        = some (.idle, true) := by decide

/-- In RECEIVE: an escape, an escaped byte in the payload, a byte at the high check byte; the gap timer restarts. -/
theorem test_characters_are_collected :
    ∀ p ∈ [(0, (0xD7 : Byte), (⟨true, false, .payload, 5, 0x80, 2, 2, [1], 0, 0⟩ : Collector),
          (⟨true, true, .payload, 5, 0x80, 2, 2, [1], 0, 0⟩ : Collector)),
        (1, 0x45, ⟨true, true, .payload, 5, 0x80, 2, 1, [1], 0, 0⟩,
          ⟨true, false, .checkHigh, 5, 0x80, 2, 0, [1, 0xC5], checkByte 0 0xC5, 0⟩),
        (2, 0xAB, ⟨true, false, .checkHigh, 5, 0x80, 2, 0, [], 9, 1⟩, ⟨true, false, .checkLow, 5, 0x80, 2, 0, [], 9, 0xAB01⟩)],
      ((after (.characterReceived 1 p.2.1 false false) (inTurn { turn (exchange .poll 0x18 none) .receive with
        collector := some p.2.2.1, gapEnd := some 7 } lineUp)).map fun t =>
          (t.line 1).turn?.map fun x => (x.collector, x.gapEnd)) = some (some (some p.2.2.2, some 41)) := by decide +kernel

/-- A frame that passed its check: a kind the SELECT does not allow, with and without detach_pending, and an ACCEPT with
another sequence. -/
theorem test_frames_that_fail_the_turn :
    ∀ p ∈ [(0, (0x90 : Byte), false, 1, 1), (1, 0x90, true, 0, 0), (2, 0xA4, false, 0, 0)],
      ((after (.characterReceived 1 0xCA false false) { inTurn (beforeEnd (exchange .select 0x23 (some 0)) p.2.1 [])
          (withRequest (request .send .active)) with stations := [{ station [0] with detachPending := p.2.2.1 }] }).map fun t =>
        (t.events.fifo.length, t.stations.map Station.protocolErrors)) = some (p.2.2.2.1, [p.2.2.2.2]) := by decide

/-- The levels of TXD: in SEND the frame's, at rest 1. -/
theorem test_txd :
    (inTurn { turn (exchange .poll 0x18 none) .send with wire := [0x41, 0x02] } (lineUp.onLine 1 fun l => { l with de := true })
        |>.line 1 |> fun l => [l.txd 0, l.txd 1, l.txd 9, l.txd 10, l.txd 12]) = [false, true, true, false, true]
      ∧ (lineUp.line 1).txd 0 = true := by decide

/-! ### The receiver -/

/-- R38: a character from the levels it is sent as, a break, and noise. -/
theorem test_receiver :
    Receiver.feed ⟨true, .idle⟩ false ((charLevels 0xC5).flatMap (List.replicate 16)) = (⟨true, .idle⟩, [⟨0xC5, false, false⟩])
      ∧ Receiver.feed ⟨true, .idle⟩ true (List.replicate 170 false) = (⟨false, .hold 0⟩, [⟨0, true, true⟩])
      ∧ Receiver.feed ⟨true, .idle⟩ true (List.replicate 8 false ++ [true]) = (⟨true, .idle⟩, []) := by decide +kernel

/-- A sample completes a character of an enabled line, which joins the queue; a DISABLED line's receiver does nothing. -/
theorem test_receiver_feeds_the_queue :
    ((lineUp.onLine 1 fun l => { l with rx := ⟨true, .character false (List.replicate 153 true)⟩ }).rxdSampled 1 true).pending
        = [.characterReceived 1 0xFF false false]
      ∧ (lineUp.rxdSampled 0 false).pending = [] ∧ (lineUp.line 0).state = .disabled := by decide +kernel

/-- A POLL's, a SELECT's and a RESET's turn that meet the conditions of the settling statements. -/
theorem test_hyp_PlainTurn :
    (inTurn (beforeEnd (exchange .select 0x23 (some 0)) 0xA3 []) (withRequest (request .send .active))).PlainTurn 1
        (beforeEnd (exchange .select 0x23 (some 0)) 0xA3 []) (station [0])
      ∧ (beforeEnd (exchange .select 0x23 (some 0)) 0xA3 []).BeforeEnd 0xA3 []
      ∧ (withRequest (request .send .active)).request? 1 0 = some (request .send .active)
      ∧ (station [0]).liveness = .online := by
  refine ⟨plainTurn _ _ rfl rfl, ?_, by decide, rfl⟩
  exact ⟨rfl, _, rfl, rfl, rfl, rfl, rfl, rfl, rfl⟩

/-- The replies, each as the control byte and payload of a frame that ends now: what the request and the entry become. -/
def ended (r : Request) (x : Exchange) (control : Byte) (payload : List Byte) : Option (Option Request × List Station) :=
  (after (.characterReceived 1 0xCA false false) (inTurn (beforeEnd x control payload) (withRequest r))).map fun t =>
    (t.request? 1 0, t.stations)

theorem test_hyp_AcceptAndRejectSettleSelect :
    ended (request .query .active) (exchange .select 0x23 (some 0)) 0xA3 []
        = some (some { request .query .answering with answerDeadline := some 30, queryPollDue := some 50 },
          [{ station [0] with txSeq := 4, exchanges := 1 }])
      ∧ ended (request .send .active) (exchange .select 0x23 (some 0)) 0xC0 [1]
        = some (some { request .send .waiting with resent := true }, [{ station [0] with outOfStep := true, exchanges := 1 }]) := by
  decide

/-- BUSY below busy_limit and at it. -/
theorem test_hyp_BusyHoldsOffOrRefuses :
    ended { request .send .active with busyCount := 7 } (exchange .select 0x23 (some 0)) 0xB0 []
        = some (some { request .send .waiting with busyCount := 8 }, [{ station [0] with holdoff := some 100, exchanges := 1 }])
      ∧ ended { request .send .active with busyCount := 8 } (exchange .select 0x23 (some 0)) 0xB0 []
        = some (some { request .send .done with busyCount := 8, outcome := some .refused },
          [{ station [] with holdoff := some 100, exchanges := 1 }]) := by decide

/-- IDLE, DATA one behind, and READY. -/
theorem test_hyp_PollAndResetRepliesSettle :
    ended (request .send .waiting) (exchange .poll 0x18 none) 0x90 [] = some (some (request .send .waiting), [{ station [0] with exchanges := 1 }])
      ∧ ended (request .send .waiting) (exchange .poll 0x18 none) 0x80 [9]
        = some (some (request .send .waiting), [{ station [0] with exchanges := 1 }])
      ∧ ended (request .send .waiting) (exchange .reset 0x30 none) 0xD0 [] = some (some (request .send .waiting),
          [{ station [0] with exchanges := 1, txSeq := 0, rxExpect := 0, lastAck := none }]) := by decide

/-- DATA with rx_expect into a reserved buffer of 16 bytes, and into an answer area. -/
theorem test_hyp_PollAndResetRepliesSettle_data :
    ((after (.characterReceived 1 0xCA false false) (inTurn (beforeEnd (exchange .poll 0x18 none) 0x81 (List.replicate 17 4))
        ((withRequest (request .send .waiting)).onLine 1 fun l => { l with buf := ⟨[⟨0xB000, 3⟩], true, false, none⟩ }))).map fun t =>
          t.port.waiting) = some [writeAccess (.bufferWrite 1) 0xB000 (List.replicate 16 4)]
      ∧ ((after (.characterReceived 1 0xCA false false) (inTurn (beforeEnd (exchange .poll 0x18 (some 0)) 0x81 [4])
          (withRequest (request .query .answering)))).map fun t => t.port.waiting)
        = some [writeAccess (.answerWrite 1) 0xA000 [4]] := by decide

/-- The class 1 records offered: a SUSPECT entry answered REJECT, READY to an OFFLINE one, DATA with rx_expect when nothing
backs the POLL's READY any more, and a failed SELECT of an ONLINE entry. -/
theorem test_class_one_records :
    (∀ p ∈ [(0, exchange .select 0x23 (some 0), (0xC0 : Byte), [4], Liveness.suspect,
          [eventOf .stationOnline 1 5 2, eventOf .stationOutOfStep 1 5 4]),
        (1, exchange .reset 0x30 (some 0), 0xD0, [], .offline, [eventOf .stationOnline 1 5 3]),
        (2, exchange .poll 0x18 none, 0x81, [9], .suspect, [eventOf .stationOnline 1 5 2])],
      ((after (.characterReceived 1 0xCA false false) { inTurn (beforeEnd p.2.1 p.2.2.1 p.2.2.2.1)
          (withRequest (request .send .active)) with stations := [{ station [0] with liveness := p.2.2.2.2.1 }] }).map fun t =>
        t.events.fifo) = some p.2.2.2.2.2)
    ∧ ((after (.replyTimerExpiry 1) (inTurn { turn { exchange .select 0x23 (some 0) with turns := 4 } .listen with
        replyEnd := some 9 } (withRequest (request .send .active)))).map fun t => t.events.fifo)
      = some [eventOf .stationSuspect 1 5 2, eventOf .stationOutOfStep 1 5 512] := by decide

/-- The two writes of accepted DATA complete. -/
theorem test_hyp_StoredDataIsReported :
    ((after .bufferWriteDone (during (.bufferWrite 1) [] (inTurn { turn (exchange .poll 0x18 none) .store with
        store := some ⟨false, 1, 16, true⟩ } ((withRequest (request .send .waiting)).onLine 1 fun l => { l with
          buf := ⟨[⟨0xB000, 3⟩], true, false, none⟩ })))).map fun t => ((t.line 1).post.queue, (t.line 1).buf.cache, t.stations))
        = some ([arrivalOf 1 3 5 16 true], [], [{ station [0] with exchanges := 1, rxExpect := 2, lastAck := some 1 }])
      ∧ ((after .answerWriteDone (during (.answerWrite 1) [] (inTurn { turn (exchange .poll 0x18 (some 0)) .store with
          store := some ⟨true, 1, 4, false⟩ } (withRequest (request .query .answering))))).map fun t =>
            ((t.request? 1 0).bind Request.outcome, (t.line 1).pool.doneOrder)) = some (some .ok, [0]) := by decide

/-- A SELECT's retry turn given up in GUARD. -/
theorem test_hyp_JammedTurnIsGivenUp :
    ((after (.jamTimerExpiry 1) (inTurn { turn { exchange .select 0x23 (some 0) with turns := 2 } .guard with jamEnd := some 500 }
        (withRequest (request .send .active)))).map fun t =>
          ((t.line 1).state, (t.request? 1 0).map fun r => (r.state, r.deliveryUnknown), t.events.fifo))
      = some (.jammed, some (.waiting, true), [eventOf .lineJammed 1 5 2]) := by decide

/-- A reply timer with one retry left, and a gap timer with none. -/
theorem test_hyp_FailedTurnRetriesOrFails :
    ((after (.replyTimerExpiry 1) (inTurn { turn { exchange .select 0x23 (some 0) with turns := 3 } .listen with replyEnd := some 9 }
        (withRequest (request .send .active)))).map fun t => ((t.line 1).sched.retry.isSome, t.stations.map Station.failedTurns))
        = some (true, [1])
      ∧ ((after (.gapTimerExpiry 1) (inTurn { turn { exchange .select 0x23 (some 0) with turns := 4 } .receive with gapEnd := some 9 }
          (withRequest (request .send .active)))).map fun t => ((t.request? 1 0).bind Request.outcome, t.stations.map Station.liveness))
        = some (some .noReply, [.suspect]) := by decide

/-- A SLOW turn, a POLL whose READY nothing backs, and a POLL for an ANSWERING head with no retry left. -/
theorem test_failed_turns_of_polls :
    ((after (.replyTimerExpiry 1) (inTurn { turn ⟨.slow, some 5, none, .reset, 5, 0x30, 1, true⟩ .listen with replyEnd := some 9 }
        (withRequest (request .send .waiting)))).map fun t => ((t.line 1).sched.retry, t.stations)) = some (none, [station [0]])
      ∧ ((after (.replyTimerExpiry 1) (inTurn { turn (exchange .poll 0x18 none) .listen with replyEnd := some 9 }
          (withRequest (request .send .waiting)))).map fun t => ((t.line 1).sched.retry, t.stations))
        = some (none, [{ station [0] with failedTurns := 1 }])
      ∧ ((after (.replyTimerExpiry 1) (inTurn { turn { exchange .poll 0x18 (some 0) with turns := 4 } .listen with
          replyEnd := some 9 } (withRequest (request .query .answering)))).map fun t =>
            ((t.request? 1 0).map fun r => (r.outcome, r.deliveryUnknown), t.stations.map Station.outOfStep))
        = some (some (some .noReply, false), [false]) := by decide

/-- The failed RESYNC of an OFFLINE entry: the SEND behind it becomes OFFLINE, the RESYNC behind that stays. -/
theorem test_offline_flush :
    ((after (.replyTimerExpiry 1) (inTurn { turn { exchange .reset 0x30 (some 0) with turns := 4 } .listen with replyEnd := some 9 }
        ({ ((withRequest (request .resync .active)).onLine 1 fun l => { l with
            pool := { l.pool with
              slots := (l.pool.slots.set 1 (.held (request .send .waiting))).set 2 (.held (request .resync .waiting)) } }) with
          stations := [{ station [0, 1, 2] with liveness := .offline }] }))).map fun t =>
        ((t.line 1).pool.doneOrder, (t.request? 1 1).bind Request.outcome, t.stations))
      = some ([0, 1], some .offline, [{ station [2] with liveness := .offline, exchanges := 1, failedTurns := 1 }]) := by decide

/-- REJECT, DATA out of sequence and DATA without READY to a POLL; READY to a RESYNC's RESET. -/
theorem test_further_replies :
    ended (request .send .waiting) (exchange .poll 0x18 none) 0xC0 [4]
        = some (some (request .send .waiting), [{ station [0] with exchanges := 1, outOfStep := true }])
      ∧ ended (request .send .waiting) (exchange .poll 0x18 none) 0x84 [9]
        = some (some (request .send .waiting), [{ station [0] with exchanges := 1, outOfStep := true }])
      ∧ ended (request .send .waiting) (exchange .poll 0x10 none) 0x81 [9]
        = some (some (request .send .waiting), [{ station [0] with exchanges := 1, protocolErrors := 1 }])
      ∧ (ended (request .resync .active) (exchange .reset 0x30 (some 0)) 0xD0 []).map (fun p => p.1.bind Request.outcome)
        = some (some .ok) := by decide

/-- A SELECT answered BUSY under STOP, a CANCEL, a DETACH and a LINE_DISABLE that wait. -/
def overridden (device : DeviceState) (work : AdminWork) (mark detach : Bool) : State :=
  let s := inTurn (beforeEnd (exchange .select 0x23 (some 0)) 0xB0 []) (withRequest { request .send .active with cancelMark := mark })
  { s with
    control := { s.control with device := device }, admin := ⟨work, true⟩
    stations := [{ station [0] with detachPending := detach }] }

theorem test_hyp_OverridingRulesPrevail :
    ∀ p ∈ [(0, overridden .stopping .none true true, LineStatus.aborted, AdminWork.none),
        (1, overridden .running (.cancelling 9 1 0) true true, .cancelled, .completing (adminCompletionOf 9 .ok 0 0)),
        (2, overridden .running (.detaching 9 1 5) false true, .detached, .completing (adminCompletionOf 9 .ok 5 0)),
        (3, overridden .running (.disabling 9 1 false .ok [4]) false false, .aborted, .disabling 9 1 true .ok [4, 0])],
      ((after (.characterReceived 1 0xCA false false) p.2.1).map fun t => ((t.request? 1 0).map fun r => (r.outcome, r.busyCount), t.admin.work))
        = some (some (some p.2.2.1, 1), p.2.2.2) := by decide

/-- The other results that would continue, under STOP: REJECT, ACCEPT to a QUERY, a failed turn, a jam of a retry, and IDLE to a
POLL for an ANSWERING head. -/
theorem test_hyp_OverridingRulesPrevail_results :
    ∀ p ∈ [(0, request .send .active, beforeEnd (exchange .select 0x23 (some 0)) 0xC0 [], Instr.characterReceived 1 0xCA false false,
          (true, false)),
        (1, request .query .active, beforeEnd (exchange .select 0x23 (some 0)) 0xA3 [], .characterReceived 1 0xCA false false,
          (false, false)),
        (2, request .send .active, { turn (exchange .select 0x23 (some 0)) .listen with replyEnd := some 9 }, .replyTimerExpiry 1,
          (false, true)),
        (3, request .send .active, { turn { exchange .select 0x23 (some 0) with turns := 2 } .guard with jamEnd := some 9 },
          .jamTimerExpiry 1, (false, true)),
        (4, request .query .answering, beforeEnd (exchange .poll 0x18 (some 0)) 0x90 [], .characterReceived 1 0xCA false false,
          (false, false))],
      ((after p.2.2.2.1 { inTurn p.2.2.1 (withRequest p.2.1) with control := { running.control with device := .stopping } }).map
        fun t => (t.request? 1 0).map fun r => (r.outcome, r.resent, r.deliveryUnknown)) = some (some (some .aborted, p.2.2.2.2)) := by
  decide

/-- A POLL answered IDLE before and after the ANSWERING head's deadline, and a failed turn after it with a retry left. -/
theorem test_answering_head_settled :
    ∀ p ∈ [(0, 2, Instr.characterReceived 1 0xCA false false, RequestState.answering, some 52), (1, 3, .characterReceived 1 0xCA false false,
        .done, none), (2, 3, .gapTimerExpiry 1, .answering, some 53)],
      ((after p.2.2.1 (inTurn { beforeEnd (exchange .poll 0x18 (some 0)) 0x90 [] with gapEnd := some 3 }
          { withRequest { request .query .answering with answerDeadline := some 3 } with now := p.2.1 })).map fun t =>
        (t.request? 1 0).map fun r => (r.state, r.queryPollDue)) = some (some p.2.2.2) := by decide

/-- The station's turn ends with this reply, the request in slot 0 being `r`. -/
def replied (r : Request) (x : Exchange) (control : Byte) (payload : List Byte) (keeps : Request → Request) (g : Station) : Prop :=
  (inTurn (beforeEnd x control payload) (withRequest r)).WouldContinue 1 (beforeEnd x control payload) (station [0])
    (.characterReceived 1 0xCA false false) keeps .idle 0 g

theorem beforeEnd_meets (x : Exchange) (control : Byte) (payload : List Byte) :
    (beforeEnd x control payload).BeforeEnd control payload := ⟨rfl, _, rfl, rfl, rfl, rfl, rfl, rfl, rfl⟩

/-- BUSY, REJECT and ACCEPT to a SELECT that would continue. -/
theorem test_hyp_WouldContinue_select :
    replied (request .send .active) (exchange .select 0x23 (some 0)) 0xB0 [] (fun q => { q with busyCount := q.busyCount + 1 })
        { (station [0]).succeeded with holdoff := some 100 }
      ∧ replied (request .send .active) (exchange .select 0x23 (some 0)) 0xC0 [] (fun q => { q with resent := true })
        (station [0]).succeeded.loseStep
      ∧ replied (request .query .active) (exchange .select 0x23 (some 0)) 0xA3 [] (fun q => { q with deliveryUnknown := false })
        { (station [0]).succeeded with txSeq := 4 } :=
  ⟨.inl ⟨rfl, rfl, rfl, 0xB0, [], 0, _, beforeEnd_meets _ _ _, rfl, rfl, .inl ⟨rfl, rfl, .inl ⟨rfl, rfl, by decide, rfl, rfl⟩⟩⟩,
    .inl ⟨rfl, rfl, rfl, 0xC0, [], 0, _, beforeEnd_meets _ _ _, rfl, rfl, .inl ⟨rfl, rfl, .inr (.inl ⟨rfl, by decide, rfl, rfl⟩)⟩⟩,
    .inl ⟨rfl, rfl, rfl, 0xA3, [], 0, _, beforeEnd_meets _ _ _, rfl, rfl,
      .inl ⟨rfl, rfl, .inr (.inr ⟨rfl, rfl, rfl, rfl, rfl, rfl⟩)⟩⟩⟩

/-- IDLE, REJECT, and DATA behind, out of sequence and without READY, to a POLL for an ANSWERING head. -/
theorem test_hyp_WouldContinue_poll :
    replied (request .query .answering) (exchange .poll 0x18 (some 0)) 0x90 [] id (station [0]).succeeded
      ∧ replied (request .query .answering) (exchange .poll 0x18 (some 0)) 0xC0 [4] id (station [0]).succeeded.loseStep
      ∧ replied (request .query .answering) (exchange .poll 0x18 (some 0)) 0x80 [9] id (station [0]).succeeded
      ∧ replied (request .query .answering) (exchange .poll 0x18 (some 0)) 0x84 [9] id (station [0]).succeeded.loseStep
      ∧ replied (request .query .answering) (exchange .poll 0x10 (some 0)) 0x81 [9] id
        { (station [0]).succeeded with protocolErrors := 1 } := by
  refine ⟨.inl ⟨rfl, rfl, rfl, 0x90, [], 0, _, beforeEnd_meets _ _ _, rfl, rfl, .inr ⟨rfl, by decide, rfl, rfl, .inl ⟨rfl, rfl, rfl⟩⟩⟩,
    .inl ⟨rfl, rfl, rfl, 0xC0, [4], 0, _, beforeEnd_meets _ _ _, rfl, rfl,
      .inr ⟨rfl, by decide, rfl, rfl, .inr (.inl ⟨rfl, by decide, rfl⟩)⟩⟩,
    .inl ⟨rfl, rfl, rfl, 0x80, [9], 0, _, beforeEnd_meets _ _ _, rfl, rfl,
      .inr ⟨rfl, by decide, rfl, rfl, .inr (.inr ⟨rfl, by decide, by decide, .inl ⟨rfl, rfl, rfl⟩⟩)⟩⟩,
    .inl ⟨rfl, rfl, rfl, 0x84, [9], 0, _, beforeEnd_meets _ _ _, rfl, rfl,
      .inr ⟨rfl, by decide, rfl, rfl, .inr (.inr ⟨rfl, by decide, by decide, .inr (.inl ⟨rfl, by decide, by decide, rfl⟩)⟩)⟩⟩,
    .inl ⟨rfl, rfl, rfl, 0x81, [9], 0, _, beforeEnd_meets _ _ _, rfl, rfl,
      .inr ⟨rfl, by decide, rfl, rfl, .inr (.inr ⟨rfl, by decide, by decide, .inr (.inr ⟨rfl, rfl⟩)⟩)⟩⟩⟩

/-- The ways a turn fails: the two timers, a character that garbles, an ACCEPT with another sequence, a protocol error. -/
theorem test_hyp_FailsTurn :
    (∃ m, lineUp.FailsTurn 1 { turn (exchange .select 0x23 (some 0)) .listen with replyEnd := some 9 } (.replyTimerExpiry 1) m false)
      ∧ (∃ m, lineUp.FailsTurn 1 { turn (exchange .select 0x23 (some 0)) .receive with gapEnd := some 9 } (.gapTimerExpiry 1) m false)
      ∧ lineUp.FailsTurn 1 (beforeEnd (exchange .select 0x23 (some 0)) 0xA3 []) (.characterReceived 1 0xC5 false false) 0 false
      ∧ lineUp.FailsTurn 1 (beforeEnd (exchange .select 0x23 (some 0)) 0xA4 []) (.characterReceived 1 0xCA false false) 0 false
      ∧ lineUp.FailsTurn 1 (beforeEnd (exchange .select 0x23 (some 0)) 0x90 []) (.characterReceived 1 0xCA false false) 0 true := by
  refine ⟨⟨9, .inl ⟨rfl, rfl, rfl, 9, rfl, by decide⟩⟩, ⟨9, .inr (.inl ⟨rfl, rfl, rfl, 9, rfl, by decide⟩)⟩,
    .inr (.inr ⟨0xC5, false, _, rfl, rfl, rfl, rfl, rfl, .inl ⟨rfl, by decide⟩⟩),
    .inr (.inr ⟨0xCA, false, _, rfl, rfl, rfl, rfl, rfl, .inr ⟨0xA4, [], by decide, .inl ⟨rfl, by decide⟩⟩⟩),
    .inr (.inr ⟨0xCA, false, _, rfl, rfl, rfl, rfl, rfl, .inr ⟨0x90, [], by decide, .inr ⟨rfl, by decide⟩⟩⟩)⟩

/-- A failed SELECT and a failed POLL that serves no request, with retries left, and jams of both. -/
theorem test_hyp_WouldContinue_failed :
    let x := exchange .select 0x23 (some 0)
    let y := exchange .poll 0x18 none
    (inTurn { turn x .listen with replyEnd := some 9 } (withRequest (request .send .active))).WouldContinue 1
        { turn x .listen with replyEnd := some 9 } (station [0]) (.replyTimerExpiry 1)
        (fun q => { q with deliveryUnknown := q.deliveryUnknown || decide (x.frame = .select) }) .idle 9
        ((station [0]).failedTurn false).loseStep
      ∧ (inTurn { turn y .listen with replyEnd := some 9 } (withRequest (request .send .waiting))).WouldContinue 1
        { turn y .listen with replyEnd := some 9 } (station [0]) (.replyTimerExpiry 1)
        (fun q => { q with deliveryUnknown := q.deliveryUnknown || decide (y.frame = .select) }) .idle 9
        ((station [0]).failedTurn false)
      ∧ ∀ z ∈ [x, y], (inTurn { turn z .guard with jamEnd := some 9 } (withRequest (request .send .active))).WouldContinue 1
        { turn z .guard with jamEnd := some 9 } (station [0]) (.jamTimerExpiry 1)
        (fun q => if q.state = .active then { q with
          deliveryUnknown := q.deliveryUnknown || (decide (z.frame = .select) && decide (1 < z.turns)) } else q) .jammed 9
        (station [0]) := by
  refine ⟨.inr (.inl ⟨false, .inl ⟨rfl, rfl, rfl, 9, rfl, by decide⟩, rfl, by decide, by decide,
      .inr ⟨0, _, rfl, rfl, .inr ⟨.inl rfl, rfl⟩⟩, rfl, by decide⟩),
    .inr (.inl ⟨false, .inl ⟨rfl, rfl, rfl, 9, rfl, by decide⟩, rfl, by decide, by decide, .inl ⟨rfl, .inl rfl⟩, rfl, by decide⟩), ?_⟩
  intro z hz
  rcases List.mem_pair.mp hz with rfl | rfl
  · exact .inr (.inr ⟨9, rfl, rfl, rfl, rfl, by decide, rfl, .inr ⟨0, _, rfl, rfl, .inl rfl⟩, rfl⟩)
  · exact .inr (.inr ⟨9, rfl, rfl, rfl, rfl, by decide, rfl, .inl rfl, rfl⟩)

/-- Final results: ACCEPT to a SEND, BUSY at busy_limit, READY to a RESYNC, and a SELECT with no retry left. -/
theorem test_hyp_EndsFinally :
    let accepted := beforeEnd (exchange .select 0x23 (some 0)) 0xA3 []
    let refused := beforeEnd (exchange .select 0x23 (some 0)) 0xB0 []
    let synced := beforeEnd (exchange .reset 0x30 (some 0)) 0xD0 []
    let failed := { turn { exchange .select 0x23 (some 0) with turns := 4 } .listen with replyEnd := some 9 }
    let char := Instr.characterReceived 1 0xCA false false
    (∃ b, (inTurn accepted (withRequest (request .send .active))).EndsFinally 1 accepted (station [0]) char b .ok
        (fun q => { q with deliveryUnknown := false }) 0 { (station [0]).succeeded with txSeq := 4 })
      ∧ (∃ b, (inTurn refused (withRequest { request .send .active with busyCount := 8 })).EndsFinally 1 refused (station [0]) char b
        .refused id 0 { (station [0]).succeeded with holdoff := some 100 })
      ∧ (∃ b, (inTurn synced (withRequest (request .resync .active))).EndsFinally 1 synced (station [0]) char b .ok id 0
        (station [0]).synced)
      ∧ ∃ b, (inTurn failed (withRequest (request .send .active))).EndsFinally 1 failed (station [0]) (.replyTimerExpiry 1) b .noReply
        (fun q => { q with deliveryUnknown := q.deliveryUnknown || true }) 9 (((station [0]).failedTurn false).failed .select) := by
  refine ⟨⟨_, .inl ⟨rfl, rfl, rfl, 0xA3, [], 0, _, beforeEnd_meets _ _ _, rfl, rfl, rfl, rfl,
      .inl ⟨rfl, by decide, rfl, rfl, rfl, rfl, rfl⟩⟩⟩,
    ⟨_, .inl ⟨rfl, rfl, rfl, 0xB0, [], 0, _, beforeEnd_meets _ _ _, rfl, rfl, rfl, rfl,
      .inr (.inl ⟨rfl, rfl, by decide, rfl, rfl, rfl⟩)⟩⟩,
    ⟨_, .inl ⟨rfl, rfl, rfl, 0xD0, [], 0, _, beforeEnd_meets _ _ _, rfl, rfl, rfl, rfl, .inr (.inr ⟨rfl, rfl, rfl, rfl, rfl⟩)⟩⟩,
    ⟨_, .inr (.inl ⟨false, 0, _, .inl ⟨rfl, rfl, rfl, 9, rfl, by decide⟩, rfl, by decide, by decide, rfl, rfl,
      .inr ⟨.inl rfl, rfl⟩, rfl, rfl, rfl⟩)⟩⟩

/-- Final results: DATA stored as an answer and for an arrival record. -/
theorem test_hyp_EndsFinally_stored :
    let answer := { turn (exchange .poll 0x18 (some 0)) .store with store := some ⟨true, 1, 4, false⟩ }
    let arrival := { turn (exchange .poll 0x18 none) .store with store := some ⟨false, 1, 16, true⟩ }
    let g := { (station [0]).succeeded with lastAck := some 1, rxExpect := 2 }
    (∃ b, (during (.answerWrite 1) [] (inTurn answer (withRequest (request .query .answering)))).EndsFinally 1 answer (station [0])
        .answerWriteDone b .ok (fun q => { q with answerLength := 4, truncated := false }) 0 g)
      ∧ ∃ b, (during (.bufferWrite 1) [] (inTurn arrival ((withRequest (request .send .waiting)).onLine 1 fun l => { l with
        buf := ⟨[⟨0xB000, 3⟩], true, false, none⟩ }))).EndsFinally 1 arrival (station [0]) .bufferWriteDone b .ok id 0 g := by
  refine ⟨⟨_, .inr (.inr ⟨_, _, rfl, rfl, rfl, rfl, rfl, .inl ⟨rfl, awaits _ _ _ rfl, ⟨0, _, rfl, rfl, rfl⟩, rfl⟩⟩)⟩,
    ⟨_, .inr (.inr ⟨_, _, rfl, rfl, rfl, rfl, rfl, .inr ⟨rfl, awaits _ _ _ rfl, rfl, by decide, rfl⟩⟩)⟩⟩

/-- An OK that stands in STOPPING and under a CANCEL, a DETACH and a LINE_DISABLE that wait. -/
theorem test_final_results_stand :
    ∀ p ∈ [(0, DeviceState.stopping, AdminWork.none, AdminWork.none),
        (1, .stopping, .cancelling 9 1 0, .completing (adminCompletionOf 9 .tooLate 0 0)),
        (2, .running, .detaching 9 1 5, .completing (adminCompletionOf 9 .ok 5 0)),
        (3, .stopping, .disabling 9 1 false .ok [4], .disabling 9 1 true .ok [4])],
      ((after (.characterReceived 1 0xCA false false) { inTurn (beforeEnd (exchange .select 0x23 (some 0)) 0xA3 [])
          (withRequest { request .send .active with cancelMark := true }) with
        control := { running.control with device := p.2.1 }, admin := ⟨p.2.2.1, true⟩ }).map fun t =>
          ((t.request? 1 0).map Request.outcome, t.admin.work)) = some (some (some .ok), p.2.2.2) := by decide

/-- A BROADCAST given up: it waits again, is cancelled, or ends ABORTED under STOP. -/
theorem test_broadcast_given_up :
    ((after (.jamTimerExpiry 1) (broadcasting (request .broadcast .active))).map fun t =>
        (t.events.fifo, (t.request? 1 0).map Request.state)) = some ([eventOf .lineJammed 1 0 4], some .waiting)
      ∧ ((after (.jamTimerExpiry 1) { broadcasting { request .broadcast .active with cancelMark := true } with
          admin := ⟨.cancelling 9 1 0, true⟩ }).map fun t => ((t.request? 1 0).bind Request.outcome, t.admin.work))
        = some (some .cancelled, .completing (adminCompletionOf 9 .ok 0 0))
      ∧ ((after (.jamTimerExpiry 1) { broadcasting (request .broadcast .active) with
          control := { running.control with device := .stopping } }).map fun t => (t.request? 1 0).bind Request.outcome)
        = some (some .aborted) := by decide

/-- A turn to an OFFLINE entry given up in GUARD, its list empty or headed by a RESYNC. -/
theorem test_jam_of_offline :
    ∀ p ∈ [(0, exchange .reset 0x30 (some 0), [(0 : SlotNo)]), (1, { exchange .reset 0x30 none with kind := .slow }, [])],
      ((after (.jamTimerExpiry 1) ({ inTurn { turn p.2.1 .guard with jamEnd := some 9 } (withRequest (request .resync .active)) with
        stations := [{ station p.2.2 with liveness := .offline }] } : State)).map fun t => (t.stations, t.events.fifo))
      = some ([{ station p.2.2 with liveness := .offline }], [eventOf .lineJammed 1 5 3]) := by decide

/-! ### Timers, the Posting Path and the held line -/

theorem test_hyp_DeadlinesReached :
    ((after (.pollTimerExpiry 1) (lineUp.onLine 1 fun l => { l with sched := { l.sched with pollTimer := some 100, wraps := 7 } })).map
        fun t => ((t.line 1).sched.pollTimer, (t.line 1).sched.credit)) = some (some 200, true)
      ∧ ((after (.holdoffDeadlineReached 1 5) { lineUp with stations := [{ station [] with holdoff := some 4 }] }).map fun t =>
          (t.stations, t.now)) = some ([station []], 4)
      ∧ ((after (.queryPollDue 1 5) (withRequest { request .query .answering with queryPollDue := some 6 })).map State.now) = some 6
      ∧ ((after (.answerDeadline 1 5) (withRequest { request .query .answering with answerDeadline := some 8 })).bind fun t =>
          (t.request? 1 0).bind Request.outcome) = some .answerTimeout
      ∧ ((withRequest (request .query .answering)).line 1).exchangeTo 5 = false
      ∧ ((inTurn (turn (exchange .poll 0x18 (some 0)) .guard) lineUp).line 1).exchangeTo 5 = true := by decide

/-- A DONE slot enters the sixth place; the front record's write begins and ends at the last position of the ring. -/
theorem test_hyp_PostingPathWritesRecords :
    ((after (.slotEntersQueue 1) ((withRequest { request .send .done with outcome := some .ok }).onLine 1 fun l => { l with
        pool := { l.pool with doneOrder := [0] }, post := { l.post with queue := List.replicate 5 (arrivalOf 1 3 5 1 false) } })).map
          fun t => ((t.line 1).post.queue.length, (t.line 1).pool.slots[(0 : SlotNo)])) = some (6, .free)
      ∧ ((after (.recordWriteStart 1) (lineUp.onLine 1 fun l => { l with
          post := { l.post with queue := [arrivalOf 1 3 5 1 false] } })).map fun t => t.port.waiting.length) = some 1
      ∧ ((after .recordWriteDone (during (.recordWrite 1) [] ((lineUp.setCq 2 ⟨0x2000, 4, .active, 3, true, 0, 3⟩).onLine 1 fun l =>
          { l with post := { l.post with queue := [arrivalOf 1 3 5 1 false], writing := true } }))).map fun t => t.cqRing 2)
        = some ⟨0x2000, 4, .active, 0, false, 0, 4⟩ := by decide

/-- An onset with six places taken and a turn to select. -/
theorem test_hyp_HeldLineIsReportedOnce :
    ((({ lineUp with stations := [station []] } : State).onLine 1 fun l => { l with
        post := { l.post with queue := List.replicate 6 (arrivalOf 1 3 5 1 false) } }).settleHeld 1).events.fifo
        = [eventOf .lineHeld 1 0 0]
      ∧ (lineUp.line 1).pool.doneOrder = [] ∧ (lineUp.line 1).post.taken < 6 := by decide

/-- Neither an open gate nor an onset: a slot that has only not entered yet; six places taken and nothing to select. -/
theorem test_hyp_HeldLineIsReportedOnce_neither :
    (∀ p ∈ [(0, [(2 : SlotNo)], 0), (1, [], 6)],
      let s := lineUp.onLine 1 fun l => { l with
        pool := { l.pool with doneOrder := p.2.1 }, post := { l.post with queue := List.replicate p.2.2 (arrivalOf 1 3 5 1 false) } }
      s.settleHeld 1 = s ∧ ((s.line 1).pool.doneOrder ≠ [] ∨ 6 ≤ (s.line 1).post.taken)) ∧ lineUp.choose 1 = none := by decide

/-- The invariants hold somewhere: at reset. -/
theorem test_hyp_invariants : State.reset.stagingBounded ∧ State.reset.memoryCanonical ∧ State.reset.stationsDistinct
    ∧ State.reset.heldAtReset := by
  refine ⟨by unfold State.stagingBounded; decide, rfl, by unfold State.stationsDistinct; decide, ?_⟩
  intro h; cases h

theorem test_hyp_invariants_rings : State.reset.ringsBounded ∧ State.reset.postingBounded ∧ State.reset.cacheBounded := by
  refine ⟨⟨by decide, by decide, ?_⟩, ?_, ?_⟩
  · intro h; exact absurd h (by decide)
  · unfold State.postingBounded Line.postingBounded; decide
  · unfold State.cacheBounded Line.cacheBounded; decide

end Sys2Proof.Tests
end

/-! Rings in host memory (1.3, 1.4): when a POST is taken and what it does, RESUME_ADMIN, and QUEUE_RESUME. -/

namespace Sys2Proof.Machine

/-! ### What a POST is evaluated against (R7, R8) -/

theorem HostRing.accepts_iff (r : HostRing) (i : Nat) :
    r.accepts i = true ↔
      r.state ≠ .absent ∧ i < r.count ∧ r.posted ≤ (i + r.count - r.c) % r.count := by
  simp [HostRing.accepts, and_assoc]

theorem PartRing.accepts_iff (r : PartRing) (i : Nat) :
    r.accepts i = true ↔ r.state ≠ .absent ∧ i < r.count ∧ r.distance i ≤ r.unconsumed := by
  simp [PartRing.accepts, and_assoc]

/-! ### The ring a POST's identifier names (R6) -/

theorem postTaken_sq (s : State) (k : Fin 9) (i : Nat) :
    s.postTaken k.val i
      = if (s.sqRing k).accepts i then some (s.setSq k { s.sqRing k with p := i }) else none := by
  rw [State.postTaken, dif_pos k.isLt]

theorem postTaken_cq (s : State) (k : Fin 5) (i : Nat) :
    s.postTaken (9 + k.val) i
      = if (s.cqRing k).accepts i then some (s.setCq k ((s.cqRing k).release i)) else none := by
  have notSq : ¬ 9 + k.val < 9 := by omega
  have offset : 9 + k.val - 9 = k.val := by omega
  simp [State.postTaken, notSq, offset]

theorem postTaken_bq (s : State) (n : LineNo) (i : Nat) :
    s.postTaken (14 + n.val) i
      = if (s.bqRing n).accepts i then some (s.setBq n { s.bqRing n with p := i }) else none := by
  have notSq : ¬ 14 + n.val < 9 := by omega
  have notCq : ¬ 14 + n.val - 9 < 5 := by omega
  have offset : 14 + n.val - 14 = n.val := by omega
  simp [State.postTaken, notSq, notCq, offset]

theorem postTaken_er (s : State) (i : Nat) :
    s.postTaken 18 i = if s.er.accepts i then some { s with er := s.er.release i } else none := by
  simp [State.postTaken]

/-- R6: with the window open on a RUNNING or STOPPING device, a POST either takes its index or offers POST_REJECTED. -/
theorem exec_post (s : State) (w : Word) (hopen : s.resetHeld = false) (hactive : s.active = true) :
    exec (.post w) s = .next ((s.postTaken (postRing w).toNat (postIndex w)).getD
      (s.offer (postRejected (postRing w).toNat))) := by
  change Host.Outcome.next (s.afterPost w) = _
  rw [State.afterPost, if_pos ⟨hopen, hactive⟩]
  cases s.postTaken (postRing w).toNat (postIndex w) <;> rfl

/-! ### RESUME_ADMIN (R13) -/

theorem active_iff (s : State) :
    s.active = true ↔ s.control.device = .running ∨ s.control.device = .stopping := by
  simp [State.active, State.running, State.stopping]

theorem resumeAllowed_iff (s : State) :
    s.resumeAllowed = true ↔ (s.sqRing 0).state = .halted
      ∧ (s.control.device = .running ∨ s.control.device = .stopping ∨ s.control.device = .idle) := by
  simp [State.resumeAllowed, active_iff, or_assoc]

theorem exec_resumeAdmin (s : State) (hopen : s.resetHeld = false) :
    exec .resumeAdmin s = .next (if s.resumeAllowed then s.adminResumed else s.refuseCommand) := by
  change Host.Outcome.next (s.onCommand s.resumeAllowed State.adminResumed) = _
  simp [State.onCommand, hopen]

/-! ### An admin record that is acted on (R28) -/

/-- R28: an awaited record of kind `k` reaches the meaning of its kind once its read has completed. -/
theorem onAdminRecord_of_awaitsAdmin {s : State} {a : Access} {k : Nat} {rec : List Byte} (h : s.AwaitsAdmin a k rec)
    (f : State → State) : s.onAdminRecord (isKind k rec) f = f (s.finishAccess a) := by
  obtain ⟨⟨hflight, hkind, hheeds⟩, hlength, hcode⟩ := h
  simp [State.onAdminRecord, hflight, hkind, hheeds, isKind, adminKind, hlength, hcode]

theorem within_iff (lo hi v : Nat) : within lo hi v = true ↔ lo ≤ v ∧ v ≤ hi := by
  simp [within]

/-! ### QUEUE_RESUME (R12) -/

theorem targetRingOk_iff (rec : List Byte) :
    targetRingOk rec = true ↔ 1 ≤ (byteAt rec 6).toNat ∧ (byteAt rec 6).toNat ≤ 8 := within_iff 1 8 _

theorem targetIndex_of_byte (rec : List Byte) (k : Fin 9) (h : (byteAt rec 6).toNat = k.val) : targetIndex rec = k := by
  simp [targetIndex, adminTargetRing, h]

/-- R12: QUEUE_RESUME of the line ring `k`, one of 1..8, reads that ring's state. -/
theorem exec_queueResume_of_lineRing {s : State} {a : Access} {rec : List Byte} (h : s.AwaitsAdmin a 9 rec) (k : Fin 9)
    (hline : 1 ≤ k.val) (htarget : (byteAt rec 6).toNat = k.val) :
    exec (.queueResume rec) s = .next
      (if (s.sqRing k).state = .halted then
        ((s.finishAccess a).setSq k { s.sqRing k with state := .active }).completeAdmin (halfAt rec 2) .ok 0 0
      else (s.finishAccess a).completeAdmin (halfAt rec 2) .wrongState 0 0) := by
  have htargetOk : targetRingOk rec = true := (targetRingOk_iff rec).2 (by omega)
  change Host.Outcome.next (s.onAdminRecord (isKind 9 rec) _) = _
  rw [onAdminRecord_of_awaitsAdmin h]
  simp [State.checked, htargetOk, State.queueResume, targetIndex_of_byte rec k htarget, adminTag]

theorem exec_queueResume_of_badTarget {s : State} {a : Access} {rec : List Byte} (h : s.AwaitsAdmin a 9 rec)
    (htarget : (byteAt rec 6).toNat = 0 ∨ 8 < (byteAt rec 6).toNat) :
    exec (.queueResume rec) s = .next ((s.finishAccess a).completeAdmin (halfAt rec 2) .badParam 0 0) := by
  have htargetBad : ¬ targetRingOk rec = true := by rw [targetRingOk_iff]; omega
  change Host.Outcome.next (s.onAdminRecord (isKind 9 rec) _) = _
  rw [onAdminRecord_of_awaitsAdmin h]
  simp [State.checked, htargetBad, adminTag]

/-! ### The statements -/

/-- Settles O4 (R7): the ring the identifier names accepts the index, and `postTaken` only moves its p. -/
theorem postMovesProducerIndex : Obligations.PostMovesProducerIndex := by
  intro s w i hopen hactive hindex
  have hpost := exec_post s w hopen hactive
  rw [postRing, postIndex, hindex] at hpost
  constructor
  · intro k hring hpresent hbelow hahead
    have haccepts : (s.sqRing k).accepts i = true := (HostRing.accepts_iff _ _).2 ⟨hpresent, hbelow, hahead⟩
    rw [hpost, hring, postTaken_sq, if_pos haccepts, Option.getD_some]
  · intro n hring hpresent hbelow hahead
    have haccepts : (s.bqRing n).accepts i = true := (HostRing.accepts_iff _ _).2 ⟨hpresent, hbelow, hahead⟩
    rw [hpost, hring, postTaken_bq, if_pos haccepts, Option.getD_some]

/-- Settles O5 (R8): the ring accepts the index, and its release moves C and takes the distance from U. -/
theorem postReleasesRecords : Obligations.PostReleasesRecords := by
  intro s w i d hopen hactive hindex
  have hpost := exec_post s w hopen hactive
  rw [postRing, postIndex, hindex] at hpost
  constructor
  · rintro k hring hpresent hbelow rfl hcount
    have haccepts : (s.cqRing k).accepts i = true := (PartRing.accepts_iff _ _).2 ⟨hpresent, hbelow, hcount⟩
    rw [hpost, hring, postTaken_cq, if_pos haccepts, Option.getD_some, PartRing.release, PartRing.distance]
  · rintro hring hpresent hbelow rfl hcount
    have haccepts : s.er.accepts i = true := (PartRing.accepts_iff _ _).2 ⟨hpresent, hbelow, hcount⟩
    rw [hpost, hring, postTaken_er, if_pos haccepts, Option.getD_some, PartRing.release, PartRing.distance]

/-- Settles O8 (R13): the two cases are those of `resumeAllowed`. -/
theorem resumeAdminReactivatesSQ0 : Obligations.ResumeAdminReactivatesSQ0 := by
  intro s hopen
  rw [exec_resumeAdmin s hopen]
  constructor
  · intro hhalted hdevice
    rw [if_pos ((resumeAllowed_iff s).2 ⟨hhalted, hdevice⟩), State.adminResumed]
  · intro hrefused
    have hnot : ¬ s.resumeAllowed = true := by
      rw [resumeAllowed_iff]
      rcases hrefused with h | h | h | h <;> simp [h]
    rw [if_neg hnot, State.refuseCommand]

/-- Settles O35 (R12): the target's value check, then the state of the ring it names. -/
theorem queueResumeReactivates : Obligations.QueueResumeReactivates := by
  intro s k a rec hawaits
  refine ⟨fun hline htarget hhalted => ?halted, fun hline htarget hother => ?notHalted,
    exec_queueResume_of_badTarget hawaits⟩
  case halted => rw [exec_queueResume_of_lineRing hawaits k hline htarget, if_pos hhalted]
  case notHalted =>
    have hnot : (s.sqRing k).state ≠ .halted := by rcases hother with h | h <;> simp [h]
    rw [exec_queueResume_of_lineRing hawaits k hline htarget, if_neg hnot]

end Sys2Proof.Machine

/-! The interrupt output (9.1, 9.4): what the most urgent class and the qualifying class are, TAKE and RELEASE. -/

namespace Sys2Proof.Machine

/-! ### The most urgent class (9.1) -/

theorem le_mostUrgent_iff (flags : BitVec 4) {k : Nat} (hk : k ≤ 4) :
    k ≤ mostUrgent flags ↔ ∀ j < k, flags.getLsbD j = false := by
  unfold mostUrgent
  interval_cases k <;> simp only [Nat.forall_lt_succ_right, Nat.not_lt_zero] <;> split_ifs <;> simp_all

theorem lt_mostUrgent_iff (flags : BitVec 4) {k : Nat} (hk : k < 4) :
    k < mostUrgent flags ↔ ∀ j ≤ k, flags.getLsbD j = false := by
  simpa [Nat.succ_le_iff, Nat.lt_succ_iff] using le_mostUrgent_iff flags (k := k + 1) hk

/-- A class whose flag is set bounds the most urgent one. -/
theorem mostUrgent_le {flags : BitVec 4} {k : Nat} (hk : k < 4) (hset : flags.getLsbD k = true) :
    mostUrgent flags ≤ k := by
  rw [← not_lt, lt_mostUrgent_iff flags hk]
  intro hclear
  simp [hclear k le_rfl] at hset

theorem mostUrgent_eq {flags : BitVec 4} {k : Nat} (hk : k < 4) (hset : flags.getLsbD k = true)
    (hclear : ∀ j < k, flags.getLsbD j = false) : mostUrgent flags = k :=
  le_antisymm (mostUrgent_le hk hset) ((le_mostUrgent_iff flags hk.le).2 hclear)

theorem getLsbD_mostUrgent {flags : BitVec 4} (h : mostUrgent flags < 4) : flags.getLsbD (mostUrgent flags) = true := by
  by_contra hclear
  have hbelow := (le_mostUrgent_iff flags h.le).1 le_rfl
  refine absurd ((lt_mostUrgent_iff flags h).2 fun j hj => ?_) (lt_irrefl _)
  rcases hj.lt_or_eq with hlt | rfl
  · exact hbelow j hlt
  · simpa using hclear

/-! ### The qualifying class and the interrupt output (R156, R157) -/

theorem getLsbD_unmaskedPending (pending mask : BitVec 4) {k : Nat} (hk : k < 4) :
    (unmaskedPending pending mask).getLsbD k = true ↔
      pending.getLsbD k = true ∧ (k = 0 ∨ mask.getLsbD k = false) := by
  unfold unmaskedPending
  interval_cases k <;> simp

/-- R157: the class a TAKE takes, from the flags of the class itself and of the more urgent ones. -/
theorem qualifying_eq_some {pending inService mask : BitVec 4} {k : Nat} (hk : k < 4)
    (hset : (unmaskedPending pending mask).getLsbD k = true)
    (hfirst : ∀ j < k, (unmaskedPending pending mask).getLsbD j = false)
    (hservice : ∀ j ≤ k, inService.getLsbD j = false) : qualifying pending inService mask = some k := by
  have hurgent : mostUrgent (unmaskedPending pending mask) = k := mostUrgent_eq hk hset hfirst
  rw [qualifying, hurgent, if_pos ((lt_mostUrgent_iff inService hk).2 hservice)]

/-- R156: the interrupt output's condition, as the rule words it. -/
theorem interruptFor_iff (pending inService mask : BitVec 4) :
    interruptFor pending inService mask = true ↔
      ∃ k < 4, pending.getLsbD k = true ∧ (k = 0 ∨ mask.getLsbD k = false) ∧ ∀ j ≤ k, inService.getLsbD j = false := by
  have hmost : interruptFor pending inService mask = true ↔
      mostUrgent (unmaskedPending pending mask) < mostUrgent inService := by
    unfold interruptFor qualifying
    split <;> simp_all
  rw [hmost]
  constructor
  · intro hlt
    have hbound : mostUrgent (unmaskedPending pending mask) < 4 := by
      have : mostUrgent inService ≤ 4 := by unfold mostUrgent; split_ifs <;> simp
      omega
    obtain ⟨hpending, hmask⟩ := (getLsbD_unmaskedPending pending mask hbound).1 (getLsbD_mostUrgent hbound)
    exact ⟨_, hbound, hpending, hmask, (lt_mostUrgent_iff inService hbound).1 hlt⟩
  · rintro ⟨k, hk, hpending, hmask, hservice⟩
    exact (mostUrgent_le hk ((getLsbD_unmaskedPending pending mask hk).2 ⟨hpending, hmask⟩)).trans_lt
      ((lt_mostUrgent_iff inService hk).2 hservice)

theorem qualifying_eq_none_of_not_interruptFor {pending inService mask : BitVec 4}
    (h : interruptFor pending inService mask ≠ true) : qualifying pending inService mask = none := by
  simpa [interruptFor] using h

/-- R156 for the flags of the Event Unit. -/
def EventUnit.irqCorrect (e : EventUnit) : Prop := e.irq = interruptFor e.pending e.inService e.mask

theorem irqFollows_iff (s : State) : s.irqFollows ↔ s.events.irqCorrect := by
  rw [EventUnit.irqCorrect, Bool.eq_iff_iff, interruptFor_iff, State.irqFollows]

@[simp] theorem irqCorrect_reevaluate (e : EventUnit) : e.reevaluate.irqCorrect := rfl

theorem reevaluate_of_irqCorrect {e : EventUnit} (h : e.irqCorrect) : e.reevaluate = e := by
  rw [EventUnit.reevaluate, ← h]

/-! ### TAKE and RELEASE (R157, R158) -/

theorem taken_of_qualifying {e : EventUnit} {k : Nat} (h : qualifying e.pending e.inService e.mask = some k) :
    e.taken = { e with pending := e.pending &&& ~~~classBit k, inService := e.inService ||| classBit k }.reevaluate := by
  rw [EventUnit.taken, h]

theorem taken_of_none {e : EventUnit} (h : qualifying e.pending e.inService e.mask = none) : e.taken = e := by
  rw [EventUnit.taken, h]

theorem takeCode_of_qualifying {e : EventUnit} {k : Nat} (h : qualifying e.pending e.inService e.mask = some k) :
    takeCode e = BitVec.ofNat 3 k := by
  rw [takeCode, h]

theorem takeCode_of_none {e : EventUnit} (h : qualifying e.pending e.inService e.mask = none) : takeCode e = 7 := by
  rw [takeCode, h]

theorem exec_take (s : State) (hopen : s.resetHeld = false) :
    exec .take s = .next { s with
      events := s.events.taken, eventRead := eventWord (takeCode s.events) s.events.taken } := by
  change Host.Outcome.next s.afterTake = _
  simp [State.afterTake, hopen]

theorem exec_release (s : State) (hopen : s.resetHeld = false) :
    exec .release s = .next { s with events := s.events.released } := by
  change Host.Outcome.next s.afterRelease = _
  simp [State.afterRelease, hopen]

/-- Settles O9 (R157): the class is the one that `qualifying` finds, or it finds none. -/
theorem takeTakesMostUrgentClass : Obligations.TakeTakesMostUrgentClass := by
  intro s hopen
  rw [exec_take s hopen]
  constructor
  · intro k hk hpending hmask hservice hothers
    have hset := (getLsbD_unmaskedPending s.events.pending s.events.mask hk).2 ⟨hpending, hmask⟩
    have hfirst : ∀ j < k, (unmaskedPending s.events.pending s.events.mask).getLsbD j = false := by
      intro j hj
      rw [← Bool.not_eq_true, getLsbD_unmaskedPending _ _ (hj.trans hk)]
      rintro ⟨hset, hzero | hclear⟩ <;> rcases hothers j hj with h | ⟨hne, h⟩ <;> simp_all
    have hqualifies := qualifying_eq_some hk hset hfirst hservice
    rw [taken_of_qualifying hqualifies, takeCode_of_qualifying hqualifies]
    exact ⟨_, rfl, rfl, (irqFollows_iff _).2 (irqCorrect_reevaluate _)⟩
  · intro hnone
    have hqualifies : qualifying s.events.pending s.events.inService s.events.mask = none := by
      apply qualifying_eq_none_of_not_interruptFor
      rw [Ne, interruptFor_iff]
      rintro ⟨k, hk, hpending, hmask, hservice⟩
      rcases hnone k hk with h | ⟨hne, h⟩ | ⟨j, hj, h⟩
      · simp [hpending] at h
      · simp [hne, h] at hmask
      · simp [hservice j hj] at h
    rw [taken_of_none hqualifies, takeCode_of_none hqualifies]
    rfl

/-- Settles O10 (R158): the class that leaves is the most urgent one in service; with none, the flags stay and the output
already follows them. -/
theorem releaseLeavesService : Obligations.ReleaseLeavesService := by
  intro s hopen
  rw [exec_release s hopen]
  constructor
  · intro k hk hset hclear
    rw [EventUnit.released, mostUrgent_eq hk hset hclear]
    exact ⟨_, rfl, rfl, (irqFollows_iff _).2 (irqCorrect_reevaluate _)⟩
  · intro hnone hfollows
    have hsame : s.events.inService &&& ~~~classBit (mostUrgent s.events.inService) = s.events.inService := by simp [hnone]
    rw [EventUnit.released, hsame, reevaluate_of_irqCorrect ((irqFollows_iff s).1 hfollows)]

end Sys2Proof.Machine

/-! What a step can do to the Event Unit, and the interrupt output along every step (Section 9). -/

namespace Sys2Proof.Machine

/-! ### One update of the Event Unit -/

/-- What a rule does to the Event Unit in one go (Section 9, and R166, R174 for its reset values). -/
inductive EventUnit.Update : EventUnit → EventUnit → Prop
  /-- a record is offered (R151, R153) -/
  | offered (e : EventUnit) (r : EventRecord) (room : Bool) : Update e ((e.stage r).settle room)
  /-- a class becomes pending (R155) -/
  | classPending (e : EventUnit) (k : Nat) : Update e (e.setPending k)
  /-- a TAKE (R157) -/
  | taken (e : EventUnit) : Update e e.taken
  /-- a RELEASE (R158) -/
  | released (e : EventUnit) : Update e e.released
  /-- a SET_MASK (R159) -/
  | masked (e : EventUnit) (w : Word) : Update e (e.masked (maskBits w))
  /-- the write of the head record begins (R152) -/
  | writeBegun (e : EventUnit) (r : EventRecord) (rest : List EventRecord) (lap : Bool) (head : e.fifo = r :: rest) :
    Update e { e with fifo := r.placed e.missed lap :: rest, missed := 0, writing := true }
  /-- the write of the head record has completed (R152, R153) -/
  | written (e : EventUnit) (r : EventRecord) (rest : List EventRecord) (room : Bool) (head : e.fifo = r :: rest)
    (writing : e.writing = true) :
    Update e (({ e with fifo := rest, writing := false }.setPending r.kind.eventClass).settle room)
  /-- START takes the masks of the control block (R161, R166) -/
  | started (e : EventUnit) (block : List Byte) : Update e { EventUnit.reset with mask := blockMask block }
  /-- a device reset (R174) -/
  | reset (e : EventUnit) : Update e .reset

/-- From `s` to `t` the Event Unit goes by updates alone. -/
def State.EventsMove (s t : State) : Prop := Relation.ReflTransGen EventUnit.Update s.events t.events

namespace State.EventsMove

variable {s t u : State}

theorem of_eq (h : t.events = s.events) : s.EventsMove t := by
  rw [State.EventsMove, h]

@[refl] theorem refl (s : State) : s.EventsMove s := of_eq rfl

theorem of_update (h : EventUnit.Update s.events t.events) : s.EventsMove t := .single h

/-- Transitivity, the later part first. -/
theorem after (k : t.EventsMove u) (h : s.EventsMove t) : s.EventsMove u := Relation.ReflTransGen.trans h k

/-- A property that every update keeps is kept. -/
theorem keeps {P : EventUnit → Prop} (hP : ∀ e e', EventUnit.Update e e' → P e → P e') (h : s.EventsMove t)
    (hs : P s.events) : P t.events := by
  have hreached : ∀ e, Relation.ReflTransGen EventUnit.Update s.events e → P e := by
    intro e he
    induction he with
    | refl => exact hs
    | tail _ hupdate ih => exact hP _ _ hupdate ih
  exact hreached _ h

theorem reached_offerKeeps (e : EventUnit) : OfferKeeps (Relation.ReflTransGen EventUnit.Update e) :=
  fun e' r room he => he.tail (.offered e' r room)

/-- An operation of line `n` follows. -/
theorem settling {n : LineNo} (k : State.Settling n t u) (h : s.EventsMove t) : s.EventsMove u :=
  k.events _ (reached_offerKeeps s.events) h

theorem settleHeld {n : LineNo} (h : s.EventsMove t) : s.EventsMove (t.settleHeld n) :=
  settling (settling_settleHeld n t) h

theorem makeDone {n : LineNo} {k : SlotNo} {st : LineStatus} {f : Request → Request} (h : s.EventsMove t) :
    s.EventsMove (t.makeDone n k st f) := settling (settling_makeDone n t k st f) h

theorem offer {r : EventRecord} (h : s.EventsMove t) : s.EventsMove (t.offer r) := settling (settling_offer 0 t r) h

/-- A turn ends (R112). -/
theorem finishTurn {n : LineNo} {x : Exchange} {continues : Bool} {rep : Report} {retry : Option Exchange}
    {state : LineState} (h : s.EventsMove t) : s.EventsMove (t.finishTurn n x continues rep retry state) :=
  (turnEnded_finishTurn n t x continues rep retry state).events _ (reached_offerKeeps s.events) h

theorem completeAdmin {tag : Half} {st : AdminStatus} {station length : Byte} (h : s.EventsMove t) :
    s.EventsMove (t.completeAdmin tag st station length) := after (of_eq rfl) h

theorem classPending {k : Nat} (h : s.EventsMove t) : s.EventsMove (t.classPending k) :=
  after (of_update (.classPending t.events k)) h

theorem ite {c : Prop} [Decidable c] (h : s.EventsMove t) (k : s.EventsMove u) : s.EventsMove (if c then t else u) := by
  split
  · exact h
  · exact k

theorem foldl {α : Type} {f : State → α → State} (hf : ∀ (u : State) x, u.EventsMove (f u x)) :
    ∀ (xs : List α) (s : State), s.EventsMove (xs.foldl f s)
  | [], s => refl s
  | x :: xs, s => after (foldl hf xs (f s x)) (hf s x)

theorem forLines {f : LineNo → State → State} (hf : ∀ n (u : State), u.EventsMove (f n u)) :
    s.EventsMove (s.forLines f) := foldl (fun u n => hf n u) allLines s

end State.EventsMove

/-! ### The register window and the resets (1.3, 9.4, 10.1 to 10.4, 10.8) -/

theorem events_of_postTaken {s t : State} {id i : Nat} (h : s.postTaken id i = some t) : t.events = s.events := by
  unfold State.postTaken at h
  split_ifs at h <;> cases h <;> rfl

theorem eventsMove_afterPost (s : State) (w : Word) : s.EventsMove (s.afterPost w) := by
  unfold State.afterPost
  split
  · split
    · next h => exact .of_eq (events_of_postTaken h)
    · exact .offer (.refl s)
  · rfl

theorem eventsMove_onCommand (s : State) (taken : Bool) {f : State → State} (hf : s.EventsMove (f s)) :
    s.EventsMove (s.onCommand taken f) := by
  unfold State.onCommand
  exact .ite (.refl s) (.ite hf (.of_eq rfl))

theorem eventsMove_stopSlots (s : State) (n : LineNo) : s.EventsMove (s.stopSlots n) := by
  unfold State.stopSlots
  dsimp only
  have hstations : s.EventsMove ((s.ring n).foldl (fun t e =>
      if t.leftToTurn n e.pending ((t.line n).storingAnswer e.address) then t else t.endAll n .aborted e.pending) s) :=
    .foldl (fun t e => .ite (.refl t) (.settling (settling_endAll n t .aborted e.pending) (.refl t))) (s.ring n) s
  exact .ite hstations (.settling (settling_endAll n _ .aborted _) hstations)

theorem eventsMove_stopLine (n : LineNo) (s : State) : s.EventsMove (s.stopLine n) := by
  unfold State.stopLine
  refine .settling (settling_drainCache n _) (.after (eventsMove_stopSlots _ n) ?_)
  exact .settling (settling_giveUpRetry n _ .aborted true) (.of_eq rfl)

theorem eventsMove_stopTaken (s : State) : s.EventsMove s.stopTaken := by
  unfold State.stopTaken
  exact .after (.forLines eventsMove_stopLine) (.of_eq rfl)

theorem eventsMove_deviceReset (s : State) : s.EventsMove s.deviceReset := .of_update (.reset s.events)

theorem eventsMove_startPollTimer (n : LineNo) (s : State) : s.EventsMove (s.startPollTimer n) := by
  unfold State.startPollTimer
  exact .ite (.of_eq rfl) (.refl s)

theorem eventsMove_started (s : State) (block : List Byte) : s.EventsMove (s.started block) := by
  unfold State.started
  exact .after (.forLines fun n u => .ite (eventsMove_startPollTimer n u) (.refl u))
    (.of_update (.started s.events block))

theorem eventsMove_afterControlBlock (s : State) (block : List Byte) : s.EventsMove (s.afterControlBlock block) := by
  unfold State.afterControlBlock
  split
  · refine .ite (.ite ?_ (.of_eq rfl)) (.refl s)
    split
    · exact .of_eq rfl
    · exact .after (eventsMove_started _ block) (.of_eq rfl)
  · rfl

theorem eventsMove_afterTake (s : State) : s.EventsMove s.afterTake := by
  unfold State.afterTake
  exact .ite (.of_eq rfl) (.of_update (.taken s.events))

theorem eventsMove_afterRelease (s : State) : s.EventsMove s.afterRelease := by
  unfold State.afterRelease
  exact .ite (.refl s) (.of_update (.released s.events))

theorem eventsMove_afterSetMask (s : State) (w : Word) : s.EventsMove (s.afterSetMask w) := by
  unfold State.afterSetMask
  exact .ite (.refl s) (.of_update (.masked s.events w))

/-! ### The Host Port and the event ring (9.2, 10.6, 10.7) -/

theorem eventsMove_enterFaulted (s : State) (kind : AccessKind) : s.EventsMove (s.enterFaulted kind) := by
  unfold State.enterFaulted
  have hrings : s.EventsMove (if kind = .controlBlockRead then s.ringsAbsent else s) := .ite (.of_eq rfl) (.refl s)
  exact .after (.of_update (.classPending _ 0)) hrings

theorem eventsMove_afterBusError (s : State) (words : Nat) (startFirst : Bool) :
    s.EventsMove (s.afterBusError words startFirst) := by
  unfold State.afterBusError
  split
  · rfl
  · dsimp only
    split
    · exact .of_eq rfl
    · exact .of_eq rfl
    · exact .after (eventsMove_enterFaulted _ _) (.ite (.of_eq rfl) (.of_eq rfl))

theorem eventsMove_afterEventWriteStart (s : State) : s.EventsMove s.afterEventWriteStart := by
  unfold State.afterEventWriteStart
  split
  · rfl
  · next r rest hfifo => exact .ite (.of_update (.writeBegun s.events r rest s.er.lap hfifo)) (.refl s)

theorem eventsMove_eventWritten (s : State) : s.EventsMove s.eventWritten := by
  unfold State.eventWritten
  split
  · next r rest hwriting hfifo => exact .of_update (.written s.events r rest s.er.advance.room hfifo hwriting)
  · rfl

/-- The access in flight completes and its requester acts by `f`, or it is only taken off the Host Port. -/
theorem eventsMove_completed {s : State} {f : State → State} (hf : ∀ u : State, u.EventsMove (f u)) (a : Access) :
    s.EventsMove (if s.heeds a then f (s.finishAccess a) else s.finishAccess a) :=
  .ite (.after (hf _) (.of_eq rfl)) (.of_eq rfl)

/-- The write of a ring record completes and its ring advances by `f`, or the record is dropped. -/
theorem eventsMove_recordCompleted {s : State} {f : State → State} (hf : ∀ u : State, u.EventsMove (f u)) (a : Access) :
    s.EventsMove (if s.heeds a then f (s.finishAccess a) else s.dropRecord a) :=
  .ite (.after (hf _) (.of_eq rfl)) (.of_eq rfl)

theorem eventsMove_afterEventWriteDone (s : State) : s.EventsMove s.afterEventWriteDone := by
  unfold State.afterEventWriteDone
  split
  · exact .ite (eventsMove_recordCompleted eventsMove_eventWritten _) (.refl s)
  · rfl

/-! ### Admin requests (Sections 2, 4, 10.5 and 11) -/

theorem eventsMove_onAdminRecord (s : State) (ok : Bool) {f : State → State} (hf : ∀ u : State, u.EventsMove (f u)) :
    s.EventsMove (s.onAdminRecord ok f) := by
  unfold State.onAdminRecord
  split
  · exact .ite (eventsMove_completed hf _) (.refl s)
  · rfl

theorem eventsMove_checked (s : State) (rec : List Byte) (station : Byte) (ok : Bool) {f : State → State}
    (hf : s.EventsMove (f s)) : s.EventsMove (s.checked rec station ok f) := by
  unfold State.checked
  exact .ite hf (.of_eq rfl)

/-- R28: a record of an admin request that is checked and executed by `f`. -/
theorem eventsMove_adminRequest (s : State) (ok : Bool) (rec : List Byte) (station : Byte) (passes : State → Bool)
    {f : State → State} (hf : ∀ u : State, u.EventsMove (f u)) :
    s.EventsMove (s.onAdminRecord ok fun t => t.checked rec station (passes t) f) :=
  eventsMove_onAdminRecord s ok fun u => eventsMove_checked u rec station (passes u) (hf u)

theorem eventsMove_afterAdminClaim (s : State) : s.EventsMove s.afterAdminClaim := by
  unfold State.afterAdminClaim
  exact .ite (.of_eq rfl) (.refl s)

theorem eventsMove_malformedAdmin (s : State) (rec : List Byte) : s.EventsMove (s.malformedAdmin rec) := by
  unfold State.malformedAdmin
  exact .completeAdmin (.offer (.of_eq rfl))

theorem eventsMove_attach (s : State) (rec : List Byte) : s.EventsMove (s.attach rec) := by
  unfold State.attach
  exact .ite (.of_eq rfl) (.ite (.of_eq rfl) (.settleHeld (.of_eq rfl)))

theorem eventsMove_detach (s : State) (rec : List Byte) : s.EventsMove (s.detach rec) := by
  unfold State.detach
  dsimp only
  refine .ite (.of_eq rfl) (.ite (.of_eq rfl) ?_)
  have hretry : s.EventsMove (if (s.line (lineNamed rec)).retryTo (adminStation rec) then
      s.giveUpRetry (lineNamed rec) .detached false else s) :=
    .ite (.settling (settling_giveUpRetry _ s .detached false) (.refl s)) (.refl s)
  exact .settleHeld (.completeAdmin (.settling (settling_freeStation _ _ _) hretry))

theorem eventsMove_stationSet (s : State) (rec : List Byte) : s.EventsMove (s.stationSet rec) := by
  unfold State.stationSet
  exact .ite (.of_eq rfl) (.of_eq rfl)

theorem eventsMove_stationRead (s : State) (rec : List Byte) : s.EventsMove (s.stationRead rec) := by
  unfold State.stationRead
  dsimp only
  split
  · exact .of_eq rfl
  · have hcleared : s.EventsMove (if adminClear rec then
        s.onStation (lineNamed rec) (adminStation rec) Station.cleared else s) := .ite (.of_eq rfl) (.refl s)
    exact .after (.of_eq rfl) hcleared

theorem eventsMove_snapshotWritten (s : State) : s.EventsMove s.snapshotWritten := by
  unfold State.snapshotWritten
  split
  · exact .of_eq rfl
  · rfl

theorem eventsMove_afterSnapshotWrite (s : State) : s.EventsMove s.afterSnapshotWrite := by
  unfold State.afterSnapshotWrite
  split
  · exact .ite (eventsMove_completed eventsMove_snapshotWritten _) (.refl s)
  · rfl

theorem eventsMove_queueResume (s : State) (rec : List Byte) : s.EventsMove (s.queueResume rec) := by
  unfold State.queueResume
  exact .ite (.of_eq rfl) (.of_eq rfl)

theorem eventsMove_adminWritten (s : State) : s.EventsMove s.adminWritten := by
  unfold State.adminWritten
  exact .ite (.classPending (.of_eq rfl)) (.refl s)

theorem eventsMove_afterAdminWrite (s : State) : s.EventsMove s.afterAdminWrite := by
  unfold State.afterAdminWrite
  split
  · exact .ite (eventsMove_recordCompleted eventsMove_adminWritten _) (.refl s)
  · rfl

theorem eventsMove_lineSetup (s : State) (rec : List Byte) : s.EventsMove (s.lineSetup rec) := by
  unfold State.lineSetup
  refine .ite (.of_eq rfl) ?_
  exact .settleHeld (.completeAdmin (.after (eventsMove_startPollTimer _ _) (.of_eq rfl)))

theorem eventsMove_disableTaken (s : State) (n : LineNo) (tag : Half) : s.EventsMove (s.disableTaken n tag) := by
  unfold State.disableTaken
  dsimp only
  have hretry : s.EventsMove ((s.onLine n fun l =>
      { l.overtakeFetch with buf := { l.buf with reading := l.buf.reading.map fun _ => true } }).giveUpRetry
      n .aborted true) := .settling (settling_giveUpRetry n _ .aborted true) (.of_eq rfl)
  exact .ite (.after (.of_eq rfl) hretry) (.settling (settling_disableEnded n _ tag .ok _) hretry)

theorem eventsMove_lineDisable (s : State) (rec : List Byte) : s.EventsMove (s.lineDisable rec) := by
  unfold State.lineDisable
  exact .ite (eventsMove_disableTaken s _ _) (.of_eq rfl)

theorem eventsMove_disableLine (s : State) (n : LineNo) : s.EventsMove (s.disableLine n) := by
  unfold State.disableLine
  exact .ite (.of_eq rfl) (.refl s)

theorem eventsMove_afterDisableComplete (s : State) : s.EventsMove s.afterDisableComplete := by
  unfold State.afterDisableComplete
  split
  · exact .ite (.completeAdmin (eventsMove_disableLine s _)) (eventsMove_disableLine s _)
  · rfl

theorem settling_abortExchange (n : LineNo) (s : State) (x : Exchange) : State.Settling n s (s.abortExchange n x) := by
  unfold State.abortExchange
  split
  · split
    · exact settling_makeDone n s _ _ _
    · exact .refl n s
  · exact .refl n s

theorem settling_reportAbandoned (n : LineNo) (s : State) (x : Exchange) : State.Settling n s (s.reportAbandoned n x) := by
  unfold State.reportAbandoned
  split
  · exact settling_noteAbandoned n s _ x
  · exact .refl n s

theorem eventsMove_resetTaken (s : State) (n : LineNo) (tag : Half) : s.EventsMove (s.resetTaken n tag) := by
  unfold State.resetTaken
  extract_lets _ abandoned _ _ _ taken
  have habandoned : s.EventsMove abandoned := by
    unfold abandoned
    split
    · exact .settling (settling_reportAbandoned n _ _) (.settling (settling_abortExchange n s _) (.refl s))
    · rfl
  clear_value abandoned
  have htaken : s.EventsMove taken := .after (t := abandoned.endAll n .aborted (abandoned.listed n)) (.of_eq rfl)
    (.settling (settling_endAll n _ .aborted _) habandoned)
  exact .settleHeld (.settling (settling_drainCache n taken) htaken)

theorem eventsMove_lineReset (s : State) (rec : List Byte) : s.EventsMove (s.lineReset rec) := by
  unfold State.lineReset
  exact .ite (eventsMove_resetTaken s _ _) (.of_eq rfl)

theorem eventsMove_afterResetComplete (s : State) : s.EventsMove s.afterResetComplete := by
  unfold State.afterResetComplete
  split
  · exact .ite (.settleHeld (.completeAdmin (eventsMove_startPollTimer _ s))) (.refl s)
  · rfl

theorem eventsMove_cancelNow (s : State) (n : LineNo) (k : SlotNo) (r : Request) (tag : Half) :
    s.EventsMove (s.cancelNow n k r tag) := by
  unfold State.cancelNow
  dsimp only
  have hdone : s.EventsMove (if (s.line n).retryServes k then s.giveUpRetry n .cancelled true
      else s.makeDone n k .cancelled id) :=
    .ite (.settling (settling_giveUpRetry n s .cancelled true) (.refl s)) (.makeDone (.refl s))
  exact .settleHeld (.completeAdmin (.settling (settling_flushOffline n _ _) hdone))

theorem eventsMove_cancel (s : State) (rec : List Byte) : s.EventsMove (s.cancel rec) := by
  unfold State.cancel
  dsimp only
  split
  · unfold State.cancelFound
    exact .ite (.of_eq rfl) (.ite (.of_eq rfl) (eventsMove_cancelNow s _ _ _ _))
  · exact .ite (.of_eq rfl) (.of_eq rfl)

/-! ### The Posting Path and the line requests (Sections 2, 5 and 8) -/

theorem eventsMove_afterSlotEnters (s : State) (n : LineNo) : s.EventsMove (s.afterSlotEnters n) := by
  unfold State.afterSlotEnters
  split
  · split
    · exact .settleHeld (.of_eq rfl)
    · rfl
  · rfl

theorem eventsMove_afterRecordWriteStart (s : State) (n : LineNo) : s.EventsMove (s.afterRecordWriteStart n) := by
  unfold State.afterRecordWriteStart
  split
  · rfl
  · exact .ite (.of_eq rfl) (.refl s)

theorem eventsMove_recordWritten (n : LineNo) (s : State) : s.EventsMove (s.recordWritten n) := by
  unfold State.recordWritten
  exact .ite (.settleHeld (.classPending (.of_eq rfl))) (.refl s)

theorem eventsMove_afterRecordWrite (s : State) : s.EventsMove s.afterRecordWrite := by
  unfold State.afterRecordWrite
  split
  · split
    · exact eventsMove_recordCompleted (eventsMove_recordWritten _) _
    · rfl
  · rfl

theorem eventsMove_afterFetchClaim (s : State) (n : LineNo) : s.EventsMove (s.afterFetchClaim n) := by
  unfold State.afterFetchClaim
  split
  · exact .of_eq rfl
  · rfl

theorem events_noteMade (s : State) (n : LineNo) (k : SlotNo) : (s.noteMade n k).events = s.events := by
  unfold State.noteMade
  split
  · split <;> rfl
  · split <;> rfl
  · rfl

theorem eventsMove_examineRequest (s : State) (n : LineNo) (k : SlotNo) (urgent : Bool) (rec : List Byte) :
    s.EventsMove (s.examineRequest n k urgent rec) := by
  unfold State.examineRequest
  refine .ite ?_ (.ite (.of_eq rfl) ?_)
  · exact .offer (.after (.of_eq rfl) (.makeDone (.refl s)))
  · split
    · exact .makeDone (.refl s)
    · unfold State.placeForStation
      exact .ite (.makeDone (.refl s)) (.of_eq rfl)

theorem eventsMove_requestArrived (n : LineNo) (rec : List Byte) (s : State) : s.EventsMove (s.requestArrived n rec) := by
  unfold State.requestArrived
  split
  · rfl
  · next f _ =>
    have hfilled : s.EventsMove (s.fillSlot n f rec) := .of_eq rfl
    exact .settleHeld (.ite (.after (.of_eq (events_noteMade _ _ _)) (.makeDone hfilled))
      (.after (eventsMove_examineRequest _ n f.slot f.urgent rec) hfilled))

theorem eventsMove_afterTakeLineRequest (s : State) (rec : List Byte) : s.EventsMove (s.afterTakeLineRequest rec) := by
  unfold State.afterTakeLineRequest
  split
  · split
    · exact .ite (eventsMove_completed (eventsMove_requestArrived _ rec) _) (.refl s)
    · rfl
  · rfl

/-! ### Buffers (Section 7) -/

theorem eventsMove_afterDescriptorClaim (s : State) (n : LineNo) : s.EventsMove (s.afterDescriptorClaim n) := by
  unfold State.afterDescriptorClaim
  exact .ite (.of_eq rfl) (.refl s)

theorem eventsMove_descriptorArrived (n : LineNo) (rec : List Byte) (s : State) :
    s.EventsMove (s.descriptorArrived n rec) := by
  unfold State.descriptorArrived
  exact .settling (settling_drainCache n _) (.of_eq rfl)

theorem eventsMove_afterDescriptorRead (s : State) (rec : List Byte) : s.EventsMove (s.afterDescriptorRead rec) := by
  unfold State.afterDescriptorRead
  split
  · split
    · exact .ite (eventsMove_completed (eventsMove_descriptorArrived _ rec) _) (.refl s)
    · rfl
  · rfl

theorem eventsMove_bufferStored (n : LineNo) (s : State) : s.EventsMove (s.bufferStored n) := by
  unfold State.bufferStored
  split
  · split
    · exact .finishTurn (.of_eq rfl)
    · rfl
  · rfl

theorem eventsMove_afterBufferWrite (s : State) : s.EventsMove s.afterBufferWrite := by
  unfold State.afterBufferWrite
  split
  · split
    · exact eventsMove_completed (eventsMove_bufferStored _) _
    · rfl
  · rfl

theorem eventsMove_answerStored (n : LineNo) (s : State) : s.EventsMove (s.answerStored n) := by
  unfold State.answerStored
  split
  · split
    · exact .finishTurn (.makeDone (.refl s))
    · rfl
  · rfl

theorem eventsMove_afterAnswerWrite (s : State) : s.EventsMove s.afterAnswerWrite := by
  unfold State.afterAnswerWrite
  split
  · split
    · exact eventsMove_completed (eventsMove_answerStored _) _
    · rfl
  · rfl

/-! ### Starting a turn (5.5, 5.6, 6.2) -/

theorem eventsMove_noteExhausted (s : State) (n : LineNo) (address : Byte) (before : BufferUnit) :
    s.EventsMove (s.noteExhausted n address before) := by
  unfold State.noteExhausted
  exact .ite (.offer (.refl s)) (.refl s)

theorem eventsMove_startPoll (s : State) (n : LineNo) (kind : TurnKind) (e : Station) :
    s.EventsMove (s.startPoll n kind e) := by
  unfold State.startPoll
  dsimp only
  split
  · exact .of_eq rfl
  · exact .after (eventsMove_noteExhausted _ n e.address _) (.of_eq rfl)

theorem eventsMove_startRequest (s : State) (n : LineNo) (e : Station) (k : SlotNo) :
    s.EventsMove (s.startRequest n e k) := by
  unfold State.startRequest
  split
  · rfl
  · exact .ite (.of_eq rfl) (.of_eq rfl)

theorem eventsMove_startBroadcast (s : State) (n : LineNo) (k : SlotNo) : s.EventsMove (s.startBroadcast n k) := by
  unfold State.startBroadcast
  split
  · rfl
  · exact .of_eq rfl

theorem eventsMove_startChoice (s : State) (n : LineNo) (c : Choice) : s.EventsMove (s.startChoice n c) := by
  unfold State.startChoice
  cases c with
  | sync e => exact .of_eq rfl
  | queryPoll e => exact eventsMove_startPoll s n .queryPoll e
  | poll e due wrapped => exact .after (eventsMove_startPoll _ n .poll e) (.of_eq rfl)
  | request e k => exact eventsMove_startRequest s n e k
  | broadcast k => exact eventsMove_startBroadcast s n k
  | slow e => exact .of_eq rfl

theorem eventsMove_afterSelection (s : State) (n : LineNo) : s.EventsMove (s.afterSelection n) := by
  unfold State.afterSelection
  refine .ite ?_ (.refl s)
  split
  · exact eventsMove_startChoice s n _
  · rfl

theorem eventsMove_startRetry (s : State) (n : LineNo) (x : Exchange) : s.EventsMove (s.startRetry n x) := by
  unfold State.startRetry
  cases x.slot <;> exact .of_eq rfl

theorem eventsMove_afterRetryStart (s : State) (n : LineNo) : s.EventsMove (s.afterRetryStart n) := by
  unfold State.afterRetryStart
  split
  · exact eventsMove_startRetry s n _
  · rfl

theorem eventsMove_payloadLoaded (n : LineNo) (payload : List Byte) (s : State) :
    s.EventsMove (s.payloadLoaded n payload) := by
  unfold State.payloadLoaded
  split
  · exact .ite (.of_eq rfl) (.refl s)
  · rfl

theorem eventsMove_afterPayloadRead (s : State) (payload : List Byte) : s.EventsMove (s.afterPayloadRead payload) := by
  unfold State.afterPayloadRead
  split
  · split
    · exact .ite (eventsMove_completed (eventsMove_payloadLoaded _ payload) _) (.refl s)
    · rfl
  · rfl

theorem eventsMove_afterGuardEnd (s : State) (n : LineNo) : s.EventsMove (s.afterGuardEnd n) := by
  unfold State.afterGuardEnd
  split
  · split
    · exact .of_eq rfl
    · rfl
  · rfl

/-! ### The end of a turn (6.3, 6.4) -/

theorem settling_noteFailedTurn (n : LineNo) (s : State) (x : Exchange) : State.Settling n s (s.noteFailedTurn n x) := by
  unfold State.noteFailedTurn
  split
  · split
    · exact .refl n s
    · exact settling_countFailedTurn n s _
  · exact .refl n s

theorem settling_noteProtocolError (n : LineNo) (s : State) (x : Exchange) (control : Byte) :
    State.Settling n s (s.noteProtocolError n x control) := by
  unfold State.noteProtocolError
  split
  · split
    · exact .refl n s
    · exact settling_reportProtocolError n s _ _
  · exact .refl n s

theorem settling_settleFailure (n : LineNo) (s : State) (x : Exchange) : State.Settling n s (s.settleFailure n x) := by
  unfold State.settleFailure
  split
  · exact .refl n s
  · split
    · split
      · exact settling_makeDone n s _ _ _
      · exact .refl n s
    · exact settling_makeDone n s _ _ _

theorem settling_settlePrevented (n : LineNo) (s : State) (x : Exchange) : State.Settling n s (s.settlePrevented n x) := by
  unfold State.settlePrevented
  split_ifs
  · exact .refl n s
  · exact settling_settleContinuing n s x _ _

theorem eventsMove_failTurn (n : LineNo) (x : Exchange) (s : State) : s.EventsMove (s.failTurn n x) := by
  unfold State.failTurn
  have hnoted : s.EventsMove (s.noteFailedTurn n x) := .settling (settling_noteFailedTurn n s x) (.refl s)
  refine .ite (.ite ?_ (.ite ?_ ?_)) ?_
  · exact .finishTurn (.settling (settling_settlePrevented n _ x) hnoted)
  · exact .finishTurn hnoted
  · exact .finishTurn hnoted
  · exact .finishTurn (.settling (settling_settleFailure n _ x) hnoted)

theorem eventsMove_onAccept (s : State) (n : LineNo) (x : Exchange) : s.EventsMove (s.onAccept n x) := by
  unfold State.onAccept
  dsimp only
  split
  · exact .finishTurn (.refl s)
  · split
    · exact .finishTurn (.refl s)
    · refine .ite ?_ ?_
      · exact .finishTurn (.settling (settling_settleContinuing n s x _ _) (.refl s))
      · exact .finishTurn (.makeDone (.refl s))

theorem eventsMove_onBusy (s : State) (n : LineNo) (x : Exchange) : s.EventsMove (s.onBusy n x) := by
  unfold State.onBusy
  dsimp only
  split
  · split
    · exact .finishTurn (.refl s)
    · refine .ite ?_ ?_
      · exact .finishTurn (.settling (settling_settleContinuing n s x _ _) (.refl s))
      · exact .finishTurn (.makeDone (.refl s))
  · exact .finishTurn (.refl s)

theorem eventsMove_onSelectReject (s : State) (n : LineNo) (x : Exchange) (expected : Option Byte) :
    s.EventsMove (s.onSelectReject n x expected) :=
  .finishTurn (.settling (settling_settleContinuing n s x _ _) (.refl s))

theorem eventsMove_onReady (s : State) (n : LineNo) (x : Exchange) : s.EventsMove (s.onReady n x) := by
  unfold State.onReady
  cases x.slot with
  | none => exact .finishTurn (.refl s)
  | some k => exact .finishTurn (.makeDone (.refl s))

theorem eventsMove_onPollPlain (s : State) (n : LineNo) (x : Exchange) (eff : ReplyEffect) :
    s.EventsMove (s.onPollPlain n x eff) :=
  .finishTurn (.ite (.settling (settling_settleContinuing n s x id id) (.refl s)) (.refl s))

theorem eventsMove_beginStore (s : State) (n : LineNo) (t : Turn) (seq : Seq) (payload : List Byte) :
    s.EventsMove (s.beginStore n t seq payload) := by
  unfold State.beginStore
  dsimp only
  split
  · exact .of_eq rfl
  · split
    · exact .of_eq rfl
    · exact eventsMove_onPollPlain s n t.exch .plain

theorem eventsMove_onPollData (s : State) (n : LineNo) (t : Turn) (control : Byte) (seq : Seq) (payload : List Byte) :
    s.EventsMove (s.onPollData n t control seq payload) := by
  unfold State.onPollData
  dsimp only
  have hplain := eventsMove_onPollPlain s n t.exch
  split
  · exact hplain .plain
  · refine .ite ?_ (.ite (.ite (hplain .plain) (eventsMove_beginStore s n t seq payload)) (.ite (hplain .plain) (hplain _)))
    exact .after (eventsMove_onPollPlain _ n t.exch .plain)
      (.settling (settling_noteProtocolError n s t.exch control) (.refl s))

theorem eventsMove_onReply (s : State) (n : LineNo) (t : Turn) (control : Byte) (reply : Reply) :
    s.EventsMove (s.onReply n t control reply) := by
  cases reply with
  | accept => exact eventsMove_onAccept s n t.exch
  | busy => exact eventsMove_onBusy s n t.exch
  | ready => exact eventsMove_onReady s n t.exch
  | idle => exact eventsMove_onPollPlain s n t.exch .plain
  | data seq payload => exact eventsMove_onPollData s n t control seq payload
  | reject expected =>
    unfold State.onReply
    dsimp only
    split
    · exact eventsMove_onPollPlain s n t.exch _
    · exact eventsMove_onSelectReject s n t.exch expected
    · exact eventsMove_onSelectReject s n t.exch expected
    · exact eventsMove_onSelectReject s n t.exch expected

theorem eventsMove_onFrame (s : State) (n : LineNo) (t : Turn) (control : Byte) (payload : List Byte) :
    s.EventsMove (s.onFrame n t control payload) := by
  unfold State.onFrame
  split
  · exact eventsMove_onReply s n t control _
  · exact eventsMove_failTurn n t.exch s
  · exact .after (eventsMove_failTurn n t.exch _) (.settling (settling_noteProtocolError n s t.exch _) (.refl s))

theorem eventsMove_jamTurn (n : LineNo) (x : Exchange) (s : State) : s.EventsMove (s.jamTurn n x) := by
  unfold State.jamTurn
  exact .finishTurn (.offer (.ite (.settling (settling_settleContinuing n s x _ _) (.refl s)) (.refl s)))

/-! ### SEND, the characters and the timers (6.2, Sections 4 and 5) -/

theorem eventsMove_broadcastSent (s : State) (n : LineNo) (x : Exchange) : s.EventsMove (s.broadcastSent n x) := by
  unfold State.broadcastSent
  cases x.slot with
  | none => exact .finishTurn (.refl s)
  | some k => exact .finishTurn (.makeDone (.refl s))

theorem eventsMove_sendEnded (s : State) (n : LineNo) (t : Turn) : s.EventsMove (s.sendEnded n t) := by
  unfold State.sendEnded
  dsimp only
  split
  · exact .after (eventsMove_broadcastSent _ n t.exch) (.of_eq rfl)
  · exact .of_eq rfl
  · exact .of_eq rfl

/-- A moment is reached and `f` follows (log entry 3). -/
theorem eventsMove_reach {f : State → State} (hf : ∀ u : State, u.EventsMove (f u)) (s : State) (d : Nat) :
    s.EventsMove (f (s.reach d)) := .after (hf _) (.of_eq rfl)

theorem eventsMove_afterSendDone (s : State) (n : LineNo) : s.EventsMove (s.afterSendDone n) := by
  unfold State.afterSendDone
  split
  · split
    · exact eventsMove_reach (fun u => eventsMove_sendEnded u n _) s _
    · rfl
  · rfl

theorem eventsMove_collectCharacter (s : State) (n : LineNo) (t : Turn) (c : Collector) (ch : Byte) (framing : Bool) :
    s.EventsMove (s.collectCharacter n t c ch framing) := by
  unfold State.collectCharacter
  split
  · exact .ite (.of_eq rfl) (.refl s)
  · exact eventsMove_failTurn n t.exch s
  · exact eventsMove_onFrame s n t _ _

theorem eventsMove_afterCharacter (s : State) (n : LineNo) (ch : Byte) (framing underDe : Bool) :
    s.EventsMove (s.afterCharacter n ch framing underDe) := by
  unfold State.afterCharacter
  split
  · unfold State.characterInTurn
    split
    · exact .of_eq rfl
    · exact eventsMove_collectCharacter s n _ _ ch framing
    · exact eventsMove_collectCharacter s n _ _ ch framing
    · rfl
  · rfl

theorem eventsMove_afterJamExpiry (s : State) (n : LineNo) : s.EventsMove (s.afterJamExpiry n) := by
  unfold State.afterJamExpiry
  split
  · split
    · exact eventsMove_reach (eventsMove_jamTurn n _) s _
    · rfl
  · rfl

theorem eventsMove_afterReplyExpiry (s : State) (n : LineNo) : s.EventsMove (s.afterReplyExpiry n) := by
  unfold State.afterReplyExpiry
  split
  · split
    · exact eventsMove_reach (eventsMove_failTurn n _) s _
    · rfl
  · rfl

theorem eventsMove_afterGapExpiry (s : State) (n : LineNo) : s.EventsMove (s.afterGapExpiry n) := by
  unfold State.afterGapExpiry
  split
  · split
    · exact eventsMove_reach (eventsMove_failTurn n _) s _
    · rfl
  · rfl

theorem eventsMove_afterPollExpiry (s : State) (n : LineNo) : s.EventsMove (s.afterPollExpiry n) := by
  unfold State.afterPollExpiry
  split
  · exact .settleHeld (.of_eq rfl)
  · rfl

theorem eventsMove_afterHoldoff (s : State) (n : LineNo) (address : Byte) : s.EventsMove (s.afterHoldoff n address) := by
  unfold State.afterHoldoff
  split
  · exact .settleHeld (.of_eq rfl)
  · rfl

theorem eventsMove_afterQueryPollDue (s : State) (n : LineNo) (address : Byte) :
    s.EventsMove (s.afterQueryPollDue n address) := by
  unfold State.afterQueryPollDue
  split
  · exact .settleHeld (.of_eq rfl)
  · rfl

theorem eventsMove_afterAnswerDeadline (s : State) (n : LineNo) (address : Byte) :
    s.EventsMove (s.afterAnswerDeadline n address) := by
  unfold State.afterAnswerDeadline
  split
  · split
    · exact .ite (.of_eq rfl) (.settleHeld (.makeDone (.of_eq rfl)))
    · rfl
  · rfl

/-! ### Every command and every step -/

/-- What each command can do to the Event Unit; no command faults or is refused. -/
theorem exec_eventsMove (s : State) : ∀ c : Instr, ∃ t, exec c s = .next t ∧ s.EventsMove t
  | .post w => ⟨_, rfl, eventsMove_afterPost s w⟩
  | .baseWrite _ _ => ⟨_, rfl, .ite (.of_eq rfl) (.refl s)⟩
  | .start => ⟨_, rfl, eventsMove_onCommand s _ (.of_eq rfl)⟩
  | .stop => ⟨_, rfl, eventsMove_onCommand s _ (eventsMove_stopTaken s)⟩
  | .resumeAdmin => ⟨_, rfl, eventsMove_onCommand s _ (.of_eq rfl)⟩
  | .deviceReset => ⟨_, rfl, .ite (.refl s) (eventsMove_deviceReset s)⟩
  | .commandInvalid _ => ⟨_, rfl, .ite (.refl s) (eventsMove_onCommand s _ (.refl s))⟩
  | .resetInput => ⟨_, rfl, .ite (.refl s) (.after (.of_eq rfl) (eventsMove_deviceReset s))⟩
  | .resetInputRelease => ⟨_, rfl, .of_eq rfl⟩
  | .take => ⟨_, rfl, eventsMove_afterTake s⟩
  | .release => ⟨_, rfl, eventsMove_afterRelease s⟩
  | .setMask w => ⟨_, rfl, eventsMove_afterSetMask s w⟩
  | .registerWriteIgnored _ _ _ => ⟨_, rfl, .refl s⟩
  | .hostPortAccessStart => ⟨_, rfl, .ite (.refl s) (.of_eq rfl)⟩
  | .busError words startFirst => ⟨_, rfl, eventsMove_afterBusError s words startFirst⟩
  | .controlBlockReadDone block => ⟨_, rfl, eventsMove_afterControlBlock s block⟩
  | .fetchClaim n => ⟨_, rfl, eventsMove_afterFetchClaim s n⟩
  | .takeLineRequest rec => ⟨_, rfl, eventsMove_afterTakeLineRequest s rec⟩
  | .adminClaim => ⟨_, rfl, eventsMove_afterAdminClaim s⟩
  | .adminMalformed rec => ⟨_, rfl, eventsMove_onAdminRecord s _ fun t => eventsMove_malformedAdmin t rec⟩
  | .lineSetup rec => ⟨_, rfl, eventsMove_adminRequest s _ rec _ _ fun t => eventsMove_lineSetup t rec⟩
  | .lineDisable rec => ⟨_, rfl, eventsMove_adminRequest s _ rec _ _ fun t => eventsMove_lineDisable t rec⟩
  | .lineDisableComplete => ⟨_, rfl, eventsMove_afterDisableComplete s⟩
  | .lineReset rec => ⟨_, rfl, eventsMove_adminRequest s _ rec _ _ fun t => eventsMove_lineReset t rec⟩
  | .lineResetComplete => ⟨_, rfl, eventsMove_afterResetComplete s⟩
  | .attach rec => ⟨_, rfl, eventsMove_adminRequest s _ rec _ _ fun t => eventsMove_attach t rec⟩
  | .detach rec => ⟨_, rfl, eventsMove_adminRequest s _ rec _ _ fun t => eventsMove_detach t rec⟩
  | .stationSet rec => ⟨_, rfl, eventsMove_adminRequest s _ rec _ _ fun t => eventsMove_stationSet t rec⟩
  | .stationRead rec => ⟨_, rfl, eventsMove_adminRequest s _ rec _ _ fun t => eventsMove_stationRead t rec⟩
  | .snapshotWriteDone => ⟨_, rfl, eventsMove_afterSnapshotWrite s⟩
  | .cancel rec => ⟨_, rfl, eventsMove_adminRequest s _ rec _ _ fun t => eventsMove_cancel t rec⟩
  | .queueResume rec => ⟨_, rfl, eventsMove_adminRequest s _ rec _ _ fun t => eventsMove_queueResume t rec⟩
  | .adminCompletionWriteDone => ⟨_, rfl, eventsMove_afterAdminWrite s⟩
  | .descriptorClaim n => ⟨_, rfl, eventsMove_afterDescriptorClaim s n⟩
  | .descriptorReadDone rec => ⟨_, rfl, eventsMove_afterDescriptorRead s rec⟩
  | .turnSelection n => ⟨_, rfl, eventsMove_afterSelection s n⟩
  | .retryTurnStart n => ⟨_, rfl, eventsMove_afterRetryStart s n⟩
  | .payloadReadDone payload => ⟨_, rfl, eventsMove_afterPayloadRead s payload⟩
  | .guardEnd n => ⟨_, rfl, eventsMove_afterGuardEnd s n⟩
  | .jamTimerExpiry n => ⟨_, rfl, eventsMove_afterJamExpiry s n⟩
  | .sendDone n => ⟨_, rfl, eventsMove_afterSendDone s n⟩
  | .characterReceived n ch framing underDe => ⟨_, rfl, eventsMove_afterCharacter s n ch framing underDe⟩
  | .replyTimerExpiry n => ⟨_, rfl, eventsMove_afterReplyExpiry s n⟩
  | .gapTimerExpiry n => ⟨_, rfl, eventsMove_afterGapExpiry s n⟩
  | .bufferWriteDone => ⟨_, rfl, eventsMove_afterBufferWrite s⟩
  | .answerWriteDone => ⟨_, rfl, eventsMove_afterAnswerWrite s⟩
  | .pollTimerExpiry n => ⟨_, rfl, eventsMove_afterPollExpiry s n⟩
  | .holdoffDeadlineReached n address => ⟨_, rfl, eventsMove_afterHoldoff s n address⟩
  | .queryPollDue n address => ⟨_, rfl, eventsMove_afterQueryPollDue s n address⟩
  | .answerDeadline n address => ⟨_, rfl, eventsMove_afterAnswerDeadline s n address⟩
  | .slotEntersQueue n => ⟨_, rfl, eventsMove_afterSlotEnters s n⟩
  | .recordWriteStart n => ⟨_, rfl, eventsMove_afterRecordWriteStart s n⟩
  | .recordWriteDone => ⟨_, rfl, eventsMove_afterRecordWrite s⟩
  | .eventWriteStart => ⟨_, rfl, eventsMove_afterEventWriteStart s⟩
  | .eventWriteDone => ⟨_, rfl, eventsMove_afterEventWriteDone s⟩
  | .drainComplete => ⟨_, rfl, .ite (.of_eq rfl) (.refl s)⟩

theorem step_eventsMove {s t : State} (h : step s = .next t) : s.EventsMove t := by
  unfold step at h
  split at h
  · cases h
    exact .of_eq rfl
  · next c rest _ =>
    obtain ⟨u, hexec, hmove⟩ := exec_eventsMove { s with pending := rest } c
    rw [hexec] at h
    cases h
    exact hmove

/-! ### The interrupt output (R156) -/

theorem irqCorrect_drop (e : EventUnit) (r : EventRecord) : (e.drop r).irqCorrect := irqCorrect_reevaluate _

theorem irqCorrect_stage {e : EventUnit} (h : e.irqCorrect) (r : EventRecord) : (e.stage r).irqCorrect := by
  unfold EventUnit.stage
  split
  · exact h
  · exact irqCorrect_drop e r

theorem irqCorrect_foldl_drop : ∀ (rs : List EventRecord) {e : EventUnit}, e.irqCorrect →
    (rs.foldl EventUnit.drop e).irqCorrect
  | [], _, h => h
  | r :: rs, e, _ => irqCorrect_foldl_drop rs (irqCorrect_drop e r)

theorem irqCorrect_settle {e : EventUnit} (h : e.irqCorrect) (room : Bool) : (e.settle room).irqCorrect := by
  unfold EventUnit.settle
  split
  · exact irqCorrect_foldl_drop e.fifo (e := { e with fifo := [] }) h
  · exact h

theorem irqCorrect_taken {e : EventUnit} (h : e.irqCorrect) : e.taken.irqCorrect := by
  unfold EventUnit.taken
  split
  · exact irqCorrect_reevaluate _
  · exact h

/-- With no class pending the output is not asserted. -/
theorem interruptFor_none_pending (inService mask : BitVec 4) : interruptFor 0 inService mask = false := by
  rw [← Bool.not_eq_true, interruptFor_iff]
  simp

/-- R156: every update changes flags and output together, or neither. -/
theorem irqCorrect_of_update {e e' : EventUnit} (h : EventUnit.Update e e') (he : e.irqCorrect) : e'.irqCorrect := by
  cases h with
  | offered r room => exact irqCorrect_settle (irqCorrect_stage he r) room
  | classPending k => exact irqCorrect_reevaluate _
  | taken => exact irqCorrect_taken he
  | released => exact irqCorrect_reevaluate _
  | masked w => exact irqCorrect_reevaluate _
  | writeBegun r rest lap _ => exact he
  | written r rest room _ _ => exact irqCorrect_settle (irqCorrect_reevaluate _) room
  | started block => exact (interruptFor_none_pending 0 (blockMask block)).symm
  | reset => exact (interruptFor_none_pending 0 0).symm

/-- Settles O57 (R156): a step moves the Event Unit by updates, and each keeps the output equal to its condition. -/
theorem interruptFollowsFlags : Obligations.InterruptFollowsFlags := by
  intro s t hfollows hstep
  rw [irqFollows_iff] at hfollows ⊢
  exact (step_eventsMove hstep).keeps (fun _ _ => irqCorrect_of_update) hfollows

end Sys2Proof.Machine

/-! What every step keeps of the bounds: the part-fed rings, the posting queues, the caches, the station table and host
memory (Sections 1, 4, 7, 8). -/

namespace Sys2Proof.Machine

/-! ### A line's own bounds -/

/-- From `l` to `l'` a line keeps its bounds (R126, R137, R138) and begins no record write. -/
structure Line.BoundsKept (l l' : Line) : Prop where
  posting : l.postingBounded → l'.postingBounded
  cache : l.cacheBounded → l'.cacheBounded
  writing : l'.post.writing = true → l.post.writing = true

theorem Line.BoundsKept.refl (l : Line) : l.BoundsKept l := ⟨id, id, id⟩

/-- A line that keeps its turn or has none, its places and its cache. -/
theorem Line.BoundsKept.of_same {l l' : Line} (turn : l'.turn?.isSome = true → l.turn?.isSome = true)
    (queue : l'.post.queue = l.post.queue) (reservation : l'.post.reservation = l.post.reservation)
    (writing : l'.post.writing = l.post.writing) (cache : l'.buf.cache = l.buf.cache ∨ l'.buf.cache = [])
    (reading : l'.buf.reading.isSome = l.buf.reading.isSome) : l.BoundsKept l' where
  posting h := by
    simp only [Line.postingBounded, PostingPath.taken, queue, reservation] at h ⊢
    exact ⟨h.1, fun hturn => h.2 (turn hturn)⟩
  cache h := by
    simp only [Line.cacheBounded, reading] at h ⊢
    rcases cache with hcache | hcache <;> simp only [hcache, List.length_nil] <;> omega
  writing h := writing ▸ h

theorem Line.BoundsKept.of_settled {l l' : Line} (h : Line.Settled l l') : l.BoundsKept l' :=
  .of_same (by simp [Line.turn?, h.state]) h.queue h.reservation h.writing h.cache (by rw [h.reading])

/-- A line without a turn and without a reservation. -/
theorem Line.BoundsKept.of_turnOver {l l' : Line} (turn : l'.turn? = none) (queue : l'.post.queue = l.post.queue)
    (reservation : l'.post.reservation = false) (writing : l'.post.writing = true → l.post.writing = true)
    (cache : l'.buf.cache = l.buf.cache ∨ l'.buf.cache = []) (reading : l'.buf.reading.isSome = l.buf.reading.isSome) :
    l.BoundsKept l' where
  posting h := by
    simp only [Line.postingBounded, PostingPath.taken, queue, reservation, turn] at h ⊢
    refine ⟨?_, by simp⟩
    have := h.1
    simp only [Bool.false_eq_true, if_false]
    omega
  cache h := by
    simp only [Line.cacheBounded, reading] at h ⊢
    rcases cache with hcache | hcache <;> simp only [hcache, List.length_nil] <;> omega
  writing := writing

/-! ### The state's bounds -/

/-- The parts of a line the bounds speak of, its turn apart. -/
def Line.boundParts (l : Line) : List PostRecord × Bool × Bool × List Descriptor × Bool :=
  (l.post.queue, l.post.reservation, l.post.writing, l.buf.cache, l.buf.reading.isSome)

/-- The parts of the state the bounds speak of. -/
def State.boundParts (s : State) :=
  (s.control, s.cq, s.er, s.lines, s.events, s.admin.reservation, s.stations, s.hostMem, s.resetHeld)

/-- From `s` to `t` every bound is kept, and the reset input is not asserted (R174). -/
structure State.BoundsKept (s t : State) : Prop where
  rings : s.ringsBounded → t.ringsBounded
  posting : s.postingBounded → t.postingBounded
  cache : s.cacheBounded → t.cacheBounded
  stations : s.stationsDistinct → t.stationsDistinct
  memory : s.memoryCanonical → t.memoryCanonical
  held : t.resetHeld = true → s.resetHeld = true

/-- A ring that has released records or stands as it was. -/
def PartRing.Eased (r r' : PartRing) : Prop := r'.count = r.count ∧ r'.unconsumed ≤ r.unconsumed

theorem PartRing.Eased.refl (r : PartRing) : r.Eased r := ⟨rfl, le_rfl⟩

theorem PartRing.Eased.bounded {r r' : PartRing} (h : r.Eased r') (hb : r.unconsumed ≤ r.count) :
    r'.unconsumed ≤ r'.count := by
  obtain ⟨hcount, hless⟩ := h; omega

theorem PartRing.room_iff (r : PartRing) : r.room = true ↔ r.unconsumed < r.count := by simp [PartRing.room]

theorem PartRing.Eased.room {r r' : PartRing} (h : r.Eased r') (hr : r.room = true) : r'.room = true := by
  obtain ⟨hcount, hless⟩ := h
  rw [PartRing.room_iff] at hr ⊢
  omega

theorem PartRing.eased_release (r : PartRing) (i : Nat) : r.Eased (r.release i) := ⟨rfl, Nat.sub_le _ _⟩

/-- R4: a ring with room stays within its count when a record's write completes. -/
theorem PartRing.advance_bounded {r : PartRing} (h : r.room = true) : r.advance.unconsumed ≤ r.advance.count := by
  rw [PartRing.room_iff] at h
  exact h

@[simp] theorem writing_drop (e : EventUnit) (r : EventRecord) : (e.drop r).writing = e.writing := rfl

theorem writing_foldl_drop : ∀ (rs : List EventRecord) (e : EventUnit), (rs.foldl EventUnit.drop e).writing = e.writing
  | [], _ => rfl
  | r :: rs, e => writing_foldl_drop rs (e.drop r)

@[simp] theorem writing_stage (e : EventUnit) (r : EventRecord) : (e.stage r).writing = e.writing := by
  unfold EventUnit.stage
  split <;> rfl

@[simp] theorem writing_settle (e : EventUnit) (room : Bool) : (e.settle room).writing = e.writing := by
  unfold EventUnit.settle
  split
  · exact writing_foldl_drop e.fifo _
  · rfl

/-- An offer begins and ends no write. -/
theorem offerKeeps_writing {p : Prop} : OfferKeeps fun e => e.writing = true → p := by
  intro e r room h
  rw [writing_settle, writing_stage]
  exact h

namespace State.BoundsKept

variable {s t u : State}

@[refl] theorem refl (s : State) : s.BoundsKept s := ⟨id, id, id, id, id, id⟩

/-- Transitivity, the later part first. -/
theorem after (k : t.BoundsKept u) (h : s.BoundsKept t) : s.BoundsKept u :=
  ⟨k.rings ∘ h.rings, k.posting ∘ h.posting, k.cache ∘ h.cache, k.stations ∘ h.stations, k.memory ∘ h.memory,
    h.held ∘ k.held⟩

theorem ite {c : Prop} [Decidable c] (h : c → s.BoundsKept t) (k : ¬ c → s.BoundsKept u) :
    s.BoundsKept (if c then t else u) := by
  split
  · next hc => exact h hc
  · next hc => exact k hc

theorem foldl {α : Type} {f : State → α → State} (hf : ∀ (u : State) x, u.BoundsKept (f u x)) :
    ∀ (xs : List α) (s : State), s.BoundsKept (xs.foldl f s)
  | [], s => refl s
  | x :: xs, s => after (foldl hf xs (f s x)) (hf s x)

theorem forLines {f : LineNo → State → State} (hf : ∀ n (u : State), u.BoundsKept (f n u)) :
    s.BoundsKept (s.forLines f) := foldl (fun u n => hf n u) allLines s

theorem distinct_of_sublist (h : (t.stations.map Station.key).Sublist (s.stations.map Station.key))
    (hs : s.stationsDistinct) : t.stationsDistinct := by
  obtain ⟨hlength, hnodup⟩ := hs
  refine ⟨?_, hnodup.sublist h⟩
  have := h.length_le
  simp only [List.length_map] at this
  omega

/-- Every line keeps its bounds, every ring is eased, no write begins and no reservation is made; the entries' keys and
host memory keep their form. -/
theorem of_parts (active : t.active = true → s.active = true) (cq : ∀ k, (s.cqRing k).Eased (t.cqRing k))
    (er : s.er.Eased t.er) (lines : ∀ n, (s.line n).BoundsKept (t.line n))
    (writing : t.events.writing = true → s.events.writing = true)
    (reservation : t.admin.reservation = true → s.admin.reservation = true)
    (keys : (t.stations.map Station.key).Sublist (s.stations.map Station.key))
    (memory : s.memoryCanonical → t.memoryCanonical) (held : t.resetHeld = true → s.resetHeld = true) :
    s.BoundsKept t where
  rings h := by
    obtain ⟨hcq, her, hrooms⟩ := h
    refine ⟨fun k => (cq k).bounded (hcq k), er.bounded her, fun hactive => ?_⟩
    obtain ⟨hlines, hevents, hadmin⟩ := hrooms (active hactive)
    exact ⟨fun n hn => (cq _).room (hlines n ((lines n).writing hn)), fun h => er.room (hevents (writing h)),
      fun h => (cq 0).room (hadmin (reservation h))⟩
  posting h n := (lines n).posting (h n)
  cache h n := (lines n).cache (h n)
  stations := distinct_of_sublist keys
  memory := memory
  held := held

/-- None of the parts the bounds speak of has changed. -/
theorem of_same (h : t.boundParts = s.boundParts) : s.BoundsKept t := by
  simp only [State.boundParts, Prod.mk.injEq] at h
  obtain ⟨control, cq, er, lines, events, reservation, stations, memory, held⟩ := h
  exact of_parts (by simp [State.active, State.running, State.stopping, control])
    (fun k => by rw [State.cqRing, State.cqRing, cq]; exact .refl _) (by rw [er]; exact .refl _)
    (fun n => by rw [State.line, State.line, lines]; exact .refl _) (by rw [events]; exact id)
    (by rw [reservation]; exact id) (by rw [stations])
    (by rw [State.memoryCanonical, State.memoryCanonical, memory]; exact id) (by rw [held]; exact id)

/-- A change outside the parts the bounds speak of. -/
theorem then_same (h : s.BoundsKept t) (k : u.boundParts = t.boundParts) : s.BoundsKept u := after (of_same k) h

theorem onLine {n : LineNo} {f : Line → Line} (h : (s.line n).BoundsKept (f (s.line n))) : s.BoundsKept (s.onLine n f) :=
  of_parts id (fun _ => .refl _) (.refl _)
    (fun m => by
      rw [line_onLine]
      split
      · next hm => subst hm; exact h
      · exact .refl _)
    id id (.refl _) id id

/-- An operation of line `n`. -/
theorem of_settling {n : LineNo} (h : State.Settling n s t) : s.BoundsKept t := by
  obtain ⟨hcontrol, _, hcq, _, her, hheld, _, _, hmem, _⟩ := h.device
  refine of_parts (by simp [State.active, State.running, State.stopping, hcontrol])
    (fun k => by rw [State.cqRing, State.cqRing, hcq]; exact .refl _) (by rw [her]; exact .refl _) (fun m => ?_) ?_
    (by rw [h.reservation]; exact id) h.keys (by rw [State.memoryCanonical, State.memoryCanonical, hmem]; exact id)
    (by rw [hheld]; exact id)
  · by_cases hm : m = n
    · subst hm; exact .of_settled h.line
    · rw [(h.others m hm).1]; exact .refl _
  · exact h.events (fun e => e.writing = true → s.events.writing = true) offerKeeps_writing id


theorem settleHeld {n : LineNo} (h : s.BoundsKept t) : s.BoundsKept (t.settleHeld n) :=
  after (of_settling (settling_settleHeld n t)) h

theorem makeDone {n : LineNo} {k : SlotNo} {st : LineStatus} {f : Request → Request} (h : s.BoundsKept t) :
    s.BoundsKept (t.makeDone n k st f) := after (of_settling (settling_makeDone n t k st f)) h

theorem offer {r : EventRecord} (h : s.BoundsKept t) : s.BoundsKept (t.offer r) :=
  after (of_settling (settling_offer 0 t r)) h

theorem completeAdmin {tag : Half} {st : AdminStatus} {station length : Byte} (h : s.BoundsKept t) :
    s.BoundsKept (t.completeAdmin tag st station length) := then_same h rfl

theorem request {a : Access} (h : s.BoundsKept t) : s.BoundsKept (t.request a) := then_same h rfl

/-- A turn ends (R112). -/
theorem of_turnEnded {n : LineNo} {after : LineState} (hafter : ∀ x, after ≠ .turn x)
    (h : State.TurnEnded n after s t) : s.BoundsKept t := by
  obtain ⟨hcontrol, _, hcq, _, her, hheld, _, _, hmem, _⟩ := h.device
  refine of_parts (by simp [State.active, State.running, State.stopping, hcontrol])
    (fun k => by rw [State.cqRing, State.cqRing, hcq]; exact .refl _) (by rw [her]; exact .refl _) (fun m => ?_)
    (h.events (fun e => e.writing = true → s.events.writing = true) offerKeeps_writing id)
    (by rw [h.adminReservation]; exact id) h.keys (by rw [State.memoryCanonical, State.memoryCanonical, hmem]; exact id)
    (by rw [hheld]; exact id)
  by_cases hm : m = n
  · subst hm
    have hturn : (t.line m).turn? = none := by
      unfold Line.turn?
      rw [h.state]
      cases after with
      | turn x => exact absurd rfl (hafter x)
      | disabled => rfl
      | idle => rfl
      | jammed => rfl
    exact .of_turnOver hturn h.queue h.reservation (by rw [h.writing]; exact id) h.cache (by rw [h.reading])
  · rw [(h.others m hm).1]; exact .refl _

theorem finishTurn {n : LineNo} {x : Exchange} {continues : Bool} {rep : Report} {retry : Option Exchange}
    (h : s.BoundsKept t) : s.BoundsKept (t.finishTurn n x continues rep retry .idle) :=
  after (of_turnEnded (by simp) (turnEnded_finishTurn n t x continues rep retry .idle)) h

/-- A line keeps its turn or has none, and everything the bounds speak of. -/
theorem onLine_same {n : LineNo} {f : Line → Line}
    (turn : (f (s.line n)).turn?.isSome = true → (s.line n).turn?.isSome = true)
    (places : (f (s.line n)).boundParts = (s.line n).boundParts) : s.BoundsKept (s.onLine n f) := by
  simp only [Line.boundParts, Prod.mk.injEq] at places
  obtain ⟨queue, reservation, writing, cache, reading⟩ := places
  exact onLine (.of_same turn queue reservation writing (.inl cache) reading)

/-- On a device that is neither RUNNING nor STOPPING only the rings' own bound is left of R4. -/
theorem of_inactive (active : t.active = false) (cq : ∀ k, (t.cqRing k).unconsumed ≤ (t.cqRing k).count)
    (er : t.er.unconsumed ≤ t.er.count) (lines : ∀ n, (s.line n).BoundsKept (t.line n))
    (keys : (t.stations.map Station.key).Sublist (s.stations.map Station.key))
    (memory : s.memoryCanonical → t.memoryCanonical) (held : t.resetHeld = true → s.resetHeld = true) :
    s.BoundsKept t where
  rings _ := ⟨cq, er, by simp [active]⟩
  posting h n := (lines n).posting (h n)
  cache h n := (lines n).cache (h n)
  stations := distinct_of_sublist keys
  memory := memory
  held := held

/-- The access in flight completes and its requester acts by `f`, or it is only taken off the Host Port. -/
theorem finishAccess (s : State) (a : Access) : s.BoundsKept (s.finishAccess a) :=
  of_parts id (fun _ => .refl _) (.refl _) (fun _ => .refl _) id id (.refl _) (wf_afterAccess a) id

theorem dropRecord (s : State) (a : Access) : s.BoundsKept (s.dropRecord a) :=
  of_parts id (fun _ => .refl _) (.refl _) (fun _ => .refl _) id id (.refl _) (wf_dropRecord a) id

theorem active_of_heeds {s : State} {a : Access} (h : s.heeds a = true) : s.active = true := by
  simp only [State.heeds, Bool.and_eq_true] at h
  exact h.2

theorem completed {f : State → State} (hf : ∀ u : State, u.active = true → u.BoundsKept (f u)) (a : Access) :
    s.BoundsKept (if s.heeds a then f (s.finishAccess a) else s.finishAccess a) :=
  ite (fun h => after (hf _ (active_of_heeds h)) (finishAccess s a)) fun _ => finishAccess s a

theorem recordCompleted {f : State → State} (hf : ∀ u : State, u.active = true → u.BoundsKept (f u)) (a : Access) :
    s.BoundsKept (if s.heeds a then f (s.finishAccess a) else s.dropRecord a) :=
  ite (fun h => after (hf _ (active_of_heeds h)) (finishAccess s a)) fun _ => dropRecord s a

end State.BoundsKept

/-! ### The register window and the resets (1.3, 10.1 to 10.4, 10.8) -/

theorem boundsKept_setCq {s : State} {k : Fin 5} {r : PartRing} (h : (s.cqRing k).Eased r) : s.BoundsKept (s.setCq k r) :=
  .of_parts id
    (fun j => by
      rw [cqRing_setCq]
      split
      · next hj => subst hj; exact h
      · exact .refl _)
    (.refl _) (fun _ => .refl _) id id (.refl _) id id

theorem boundsKept_postTaken {s t : State} {ring i : Nat} (h : s.postTaken ring i = some t) : s.BoundsKept t := by
  unfold State.postTaken at h
  split_ifs at h <;> cases h
  · exact .of_same rfl
  · exact boundsKept_setCq (PartRing.eased_release _ i)
  · exact .of_same rfl
  · exact .of_parts id (fun _ => .refl _) (PartRing.eased_release _ i) (fun _ => .refl _) id id (.refl _) id id

theorem boundsKept_afterPost (s : State) (w : Word) : s.BoundsKept (s.afterPost w) := by
  unfold State.afterPost
  split
  · split
    · next h => exact boundsKept_postTaken h
    · exact .offer (.refl s)
  · rfl

theorem boundsKept_onCommand (s : State) {taken : Bool} {f : State → State} (hf : taken = true → s.BoundsKept (f s)) :
    s.BoundsKept (s.onCommand taken f) := by
  unfold State.onCommand
  exact .ite (fun _ => .refl s) fun _ => .ite hf fun _ =>
    .of_parts id (fun _ => .refl _) (.refl _) (fun _ => .refl _) id id (.refl _) id id

/-- The Control Unit changes and the device is RUNNING or STOPPING only if it was. -/
theorem boundsKept_control {s : State} {c : Control}
    (h : ({ s with control := c } : State).active = true → s.active = true) : s.BoundsKept { s with control := c } :=
  .of_parts h (fun _ => .refl _) (.refl _) (fun _ => .refl _) id id (.refl _) id id

theorem boundsKept_setSq (s : State) (k : Fin 9) (r : HostRing) : s.BoundsKept (s.setSq k r) := .of_same rfl

theorem boundsKept_starting (s : State) : s.BoundsKept s.starting :=
  .request (boundsKept_control (by simp [State.active, State.running, State.stopping]))

theorem settling_stopSlots (n : LineNo) (s : State) : State.Settling n s (s.stopSlots n) := by
  unfold State.stopSlots
  dsimp only
  have hstations : State.Settling n s ((s.ring n).foldl (fun t e =>
      if t.leftToTurn n e.pending ((t.line n).storingAnswer e.address) then t else t.endAll n .aborted e.pending) s) := by
    refine settling_foldl n _ (fun t e => ?_) _ s
    split
    · exact .refl n t
    · exact settling_endAll n t .aborted e.pending
  split
  · exact hstations
  · exact hstations.trans (settling_endAll n _ .aborted _)

theorem boundsKept_stopLine (n : LineNo) (s : State) : s.BoundsKept (s.stopLine n) := by
  unfold State.stopLine
  have hline : s.BoundsKept (s.onLine n fun l => { l with
      fetch := l.fetch.map fun f => { f with overtaken := true }
      buf := { l.buf with reading := l.buf.reading.map fun _ => true }
      sched := { l.sched with pollTimer := none } }) := .onLine_same id (by simp [Line.boundParts])
  exact .after (.of_settling (((settling_giveUpRetry n _ .aborted true).trans (settling_stopSlots n _)).trans
    (settling_drainCache n _))) hline

theorem boundsKept_stopTaken {s : State} (h : s.running = true) : s.BoundsKept s.stopTaken := by
  unfold State.stopTaken
  exact .after (.forLines boundsKept_stopLine) (boundsKept_control fun _ => by simp [State.active, h])

theorem wf_cutAccess {s : State} (h : s.hostMem.wf = true) : s.cutAccess.hostMem.wf = true := by
  unfold State.cutAccess
  split
  · exact wf_afterCut _ _ h
  · exact h

@[simp] theorem line_reset (n : LineNo) : State.reset.line n = Line.reset := by
  simp [State.line, State.reset]

@[simp] theorem cqRing_reset (k : Fin 5) : State.reset.cqRing k = PartRing.reset := by
  simp [State.cqRing, State.reset]

theorem lineReset_boundsKept (l : Line) : l.BoundsKept Line.reset :=
  ⟨fun _ => ⟨by decide, by decide⟩, fun _ => by unfold Line.cacheBounded; decide, by simp [Line.reset, PostingPath.reset]⟩

theorem resetHeld_deviceReset (s : State) : s.deviceReset.resetHeld = s.resetHeld := by
  simp only [State.deviceReset, State.cutAccess]
  split <;> rfl

theorem boundsKept_deviceReset (s : State) : s.BoundsKept s.deviceReset := by
  refine .of_inactive rfl (fun k => ?_) le_rfl (fun n => ?_) (List.nil_sublist _) wf_cutAccess ?_
  · show (State.reset.cqRing k).unconsumed ≤ _
    simp [PartRing.reset]
  · show (s.line n).BoundsKept (State.reset.line n)
    rw [line_reset]
    exact lineReset_boundsKept _
  · rw [resetHeld_deviceReset]
    exact id

theorem boundsKept_startPollTimer (n : LineNo) (s : State) : s.BoundsKept (s.startPollTimer n) := by
  unfold State.startPollTimer
  exact .ite (fun _ => .onLine_same id rfl) fun _ => .refl s

/-- A ring as START sets it up is empty. -/
theorem partRingFrom_unconsumed (block : List Byte) (k : Nat) : (partRingFrom block k).unconsumed = 0 := by
  unfold partRingFrom
  split <;> rfl

theorem turn?_started (l : Line) : l.started.turn? = none := by
  by_cases h : l.state = .disabled <;> simp [Line.turn?, Line.started, h]

theorem Line.boundsKept_started (l : Line) : l.BoundsKept l.started where
  posting _ := ⟨by simp [Line.started, PostingPath.reset, PostingPath.taken], by simp [turn?_started]⟩
  cache _ := by simp [Line.cacheBounded, Line.started, BufferUnit.reset]
  writing := by simp [Line.started, PostingPath.reset]

theorem keys_map_resync (es : List Station) : (es.map Station.resync).map Station.key = es.map Station.key := by
  rw [List.map_map]
  rfl

theorem boundsKept_started (s : State) (block : List Byte) : s.BoundsKept (s.started block) := by
  unfold State.started
  refine .after (.forLines fun n u => .ite (fun _ => boundsKept_startPollTimer n u) fun _ => .refl u) ?_
  have hlines : ∀ n : LineNo, (s.line n).BoundsKept ((s.lines.map Line.started)[n]) := by
    intro n
    simp only [Fin.getElem_fin, Vector.getElem_map]
    exact Line.boundsKept_started (s.line n)
  constructor
  · intro _
    refine ⟨fun k => ?_, ?_, fun _ => ⟨fun n hn => ?_, by simp [EventUnit.reset], by simp [AdminUnit.reset]⟩⟩
    · simp [State.cqRing, partRingFrom_unconsumed]
    · simp [partRingFrom_unconsumed]
    · simp [State.line, Line.started, PostingPath.reset] at hn
  · exact fun h n => (hlines n).posting (h n)
  · exact fun h n => (hlines n).cache (h n)
  · exact State.BoundsKept.distinct_of_sublist (by rw [keys_map_resync])
  · exact id
  · exact id

theorem boundsKept_startRefused (s : State) (k : Nat) : s.BoundsKept (s.startRefused k) :=
  .of_inactive rfl (fun k => by simp [State.cqRing, State.startRefused, State.ringsAbsent, PartRing.reset])
    le_rfl (fun _ => .refl _) (.refl _) id id

theorem boundsKept_afterControlBlock (s : State) (block : List Byte) : s.BoundsKept (s.afterControlBlock block) := by
  unfold State.afterControlBlock
  split
  · refine .ite (fun _ => .ite (fun _ => ?_) fun _ => .finishAccess s _) fun _ => .refl s
    split
    · exact .after (boundsKept_startRefused _ _) (.finishAccess s _)
    · exact .after (boundsKept_started _ block) (.finishAccess s _)
  · rfl

theorem turn?_idled (l : Line) : l.idled.turn? = none := by
  by_cases h : l.state = .disabled <;> simp [Line.turn?, Line.idled, h]

theorem Line.boundsKept_idled (l : Line) : l.BoundsKept l.idled :=
  .of_same (by simp [turn?_idled]) rfl rfl rfl (.inl rfl) rfl

theorem boundsKept_idled (s : State) : s.BoundsKept s.idled :=
  .of_parts (by simp [State.idled, State.active, State.running, State.stopping]) (fun _ => .refl _) (.refl _)
    (fun n => by
      simp only [State.line, State.idled, Fin.getElem_fin, Vector.getElem_map]
      exact Line.boundsKept_idled _)
    id id (by rw [State.idled, keys_map_resync]) id id

/-! ### The Host Port and the event ring (9.2, 10.6, 10.7) -/

theorem turn?_freeze (l : Line) : l.freeze.turn?.isSome = l.turn?.isSome := by
  unfold Line.turn? Line.freeze
  cases l.state <;> rfl

theorem Line.boundsKept_freeze (l : Line) : l.BoundsKept l.freeze :=
  .of_same (by simp [turn?_freeze]) rfl rfl rfl (.inl rfl) rfl

/-- The entry into FAULTED keeps the bounds of a device whose rings are within theirs. -/
theorem boundsKept_enterFaulted (s : State) (kind : AccessKind) : s.BoundsKept (s.enterFaulted kind) := by
  have hlines : ∀ n, (s.line n).BoundsKept ((s.enterFaulted kind).line n) := by
    intro n
    have : (s.enterFaulted kind).line n = (s.line n).freeze := by
      unfold State.enterFaulted
      dsimp only
      split <;> simp [State.line, State.ringsAbsent]
    rw [this]
    exact Line.boundsKept_freeze _
  have hactive : (s.enterFaulted kind).active = false := rfl
  constructor
  · rintro ⟨hcq, her, -⟩
    refine ⟨?_, ?_, by simp [hactive]⟩ <;> unfold State.enterFaulted <;> dsimp only <;> split
    · simp [State.cqRing, State.ringsAbsent, PartRing.reset]
    · exact hcq
    · simp [State.ringsAbsent, PartRing.reset]
    · exact her
  · exact fun h n => (hlines n).posting (h n)
  · exact fun h n => (hlines n).cache (h n)
  · apply State.BoundsKept.distinct_of_sublist
    unfold State.enterFaulted
    dsimp only
    split <;> exact .refl _
  · intro h
    unfold State.enterFaulted
    dsimp only
    split <;> exact h
  · unfold State.enterFaulted
    dsimp only
    split <;> exact id

theorem boundsKept_afterBusError (s : State) (words : Nat) (startFirst : Bool) :
    s.BoundsKept (s.afterBusError words startFirst) := by
  unfold State.afterBusError
  split
  · rfl
  · next a _ =>
    dsimp only
    have hcut : s.BoundsKept { s with port := { s.port with inFlight := none }, hostMem := s.hostMem.afterCut a words } :=
      .of_parts id (fun _ => .refl _) (.refl _) (fun _ => .refl _) id id (.refl _) (wf_afterCut a words) id
    split
    · exact hcut
    · exact .after (boundsKept_control (s := { s with port := { s.port with inFlight := none }, hostMem := _ }) id) hcut
    · refine .after (boundsKept_enterFaulted _ _) ?_
      split
      · exact .then_same hcut rfl
      · exact hcut

theorem boundsKept_afterEventWriteStart (s : State) : s.BoundsKept s.afterEventWriteStart := by
  unfold State.afterEventWriteStart
  split
  · rfl
  · refine .ite (fun hguard => .request ⟨fun h => ?_, id, id, id, id, id⟩) fun _ => .refl s
    obtain ⟨_, _, hroom⟩ := hguard
    obtain ⟨hcq, her, hrooms⟩ := h
    exact ⟨hcq, her, fun hactive => ⟨(hrooms hactive).1, fun _ => hroom, (hrooms hactive).2.2⟩⟩

theorem boundsKept_eventWritten {s : State} (hactive : s.active = true) : s.BoundsKept s.eventWritten := by
  unfold State.eventWritten
  split
  · next r rest hwriting hfifo =>
    refine ⟨fun h => ?_, id, id, id, id, id⟩
    obtain ⟨hcq, her, hrooms⟩ := h
    obtain ⟨hlines, hevents, hadmin⟩ := hrooms hactive
    refine ⟨hcq, PartRing.advance_bounded (hevents hwriting), fun _ => ⟨hlines, fun h => ?_, hadmin⟩⟩
    simp [EventUnit.setPending, EventUnit.reevaluate] at h
  · rfl

theorem boundsKept_afterEventWriteDone (s : State) : s.BoundsKept s.afterEventWriteDone := by
  unfold State.afterEventWriteDone
  split
  · exact .ite (fun _ => .recordCompleted (fun _ => boundsKept_eventWritten) _) fun _ => .refl s
  · rfl

/-! ### Admin requests (Sections 2, 4, 10.5 and 11) -/

theorem boundsKept_onAdminRecord (s : State) (ok : Bool) {f : State → State} (hf : ∀ u : State, u.BoundsKept (f u)) :
    s.BoundsKept (s.onAdminRecord ok f) := by
  unfold State.onAdminRecord
  split
  · exact .ite (fun _ => .completed (fun u _ => hf u) _) fun _ => .refl s
  · rfl

/-- R28: a record of an admin request that is checked and executed by `f`. -/
theorem boundsKept_adminRequest (s : State) (ok : Bool) (rec : List Byte) (station : Byte) (passes : State → Bool)
    {f : State → State} (hf : ∀ u : State, u.BoundsKept (f u)) :
    s.BoundsKept (s.onAdminRecord ok fun t => t.checked rec station (passes t) f) :=
  boundsKept_onAdminRecord s ok fun u => .ite (fun _ => hf u) fun _ => .of_same rfl

theorem boundsKept_work {s : State} (w : AdminWork) : s.BoundsKept { s with admin := { s.admin with work := w } } :=
  .of_same rfl

theorem boundsKept_afterAdminClaim (s : State) : s.BoundsKept s.afterAdminClaim := by
  unfold State.afterAdminClaim
  refine .ite (fun hguard => .request ⟨fun h => ?_, id, id, id, id, id⟩) fun _ => .refl s
  obtain ⟨hcq, her, hrooms⟩ := h
  simp only [State.mayClaimAdmin, Bool.and_eq_true] at hguard
  obtain ⟨_, hroom⟩ := hguard
  exact ⟨hcq, her, fun hactive => ⟨(hrooms hactive).1, (hrooms hactive).2.1, fun _ => hroom⟩⟩

theorem boundsKept_malformedAdmin (s : State) (rec : List Byte) : s.BoundsKept (s.malformedAdmin rec) := by
  unfold State.malformedAdmin
  exact .completeAdmin (.offer (.of_same rfl))

/-- R58, R74: the table has room and the line has no entry with the new one's address. -/
theorem boundsKept_attached {s : State} {e : Station} (hnew : s.station? e.line e.address = none)
    (hroom : s.stations.length < 64) : s.BoundsKept { s with stations := s.stations ++ [e] } := by
  refine ⟨id, id, id, fun h => ?_, id, id⟩
  obtain ⟨hlength, hnodup⟩ := h
  refine ⟨by simp; omega, ?_⟩
  rw [List.map_append, List.nodup_append]
  refine ⟨hnodup, by simp, ?_⟩
  intro key hkey key' hkey' heq
  obtain ⟨x, hx, rfl⟩ := List.mem_map.1 hkey
  simp only [List.map_cons, List.map_nil, List.mem_singleton] at hkey'
  rw [hkey', Prod.mk.injEq] at heq
  have := List.find?_eq_none.1 hnew x hx
  simp [heq] at this

theorem boundsKept_attach (s : State) (rec : List Byte) : s.BoundsKept (s.attach rec) := by
  unfold State.attach
  dsimp only
  refine .ite (fun _ => .of_same rfl) fun hnew => .ite (fun _ => .of_same rfl) fun hroom => ?_
  exact .settleHeld (.completeAdmin (boundsKept_attached (Option.not_isSome_iff_eq_none.1 hnew) (by omega)))

theorem boundsKept_onStation (s : State) (n : LineNo) (a : Byte) (f : Station → Station)
    (hk : ∀ e, (f e).key = e.key) : s.BoundsKept (s.onStation n a f) := .of_settling (settling_onStation n s a f hk)

theorem boundsKept_detach (s : State) (rec : List Byte) : s.BoundsKept (s.detach rec) := by
  unfold State.detach
  dsimp only
  refine .ite (fun _ => .of_same rfl) fun _ => .ite (fun _ => .after (boundsKept_work _) ?_) fun _ => ?_
  · exact boundsKept_onStation s _ _ _ fun _ => rfl
  · refine .settleHeld (.completeAdmin (.after (.of_settling (settling_freeStation _ _ _)) ?_))
    exact .ite (fun _ => .of_settling (settling_giveUpRetry _ s .detached false)) fun _ => .refl s

theorem boundsKept_stationSet (s : State) (rec : List Byte) : s.BoundsKept (s.stationSet rec) := by
  unfold State.stationSet
  exact .ite (fun _ => .of_same rfl) fun _ => .completeAdmin (boundsKept_onStation s _ _ _ fun _ => rfl)

theorem boundsKept_stationRead (s : State) (rec : List Byte) : s.BoundsKept (s.stationRead rec) := by
  unfold State.stationRead
  dsimp only
  split
  · exact .of_same rfl
  · exact .request (.after (boundsKept_work _)
      (.ite (fun _ => boundsKept_onStation s _ _ _ fun _ => rfl) fun _ => .refl s))

theorem boundsKept_snapshotWritten (s : State) : s.BoundsKept s.snapshotWritten := by
  unfold State.snapshotWritten
  split
  · exact .of_same rfl
  · rfl

theorem boundsKept_afterSnapshotWrite (s : State) : s.BoundsKept s.afterSnapshotWrite := by
  unfold State.afterSnapshotWrite
  split
  · exact .ite (fun _ => .completed (fun u _ => boundsKept_snapshotWritten u) _) fun _ => .refl s
  · rfl

theorem boundsKept_queueResume (s : State) (rec : List Byte) : s.BoundsKept (s.queueResume rec) := by
  unfold State.queueResume
  exact .ite (fun _ => .of_same rfl) fun _ => .of_same rfl

/-- R4: a record's write into ring `k` has completed; what was written is no longer being written. -/
theorem ringsBounded_advance {s t : State} {k : Fin 5} (h : s.ringsBounded) (hactive : s.active = true)
    (hroom : (s.cqRing k).room = true) (hcq : ∀ j, t.cqRing j = if j = k then (s.cqRing k).advance else s.cqRing j)
    (her : t.er = s.er) (hevents : t.events.writing = s.events.writing)
    (hlines : ∀ n, (t.line n).post.writing = true → (s.line n).post.writing = true ∧ cqIndex n ≠ k)
    (hadmin : t.admin.reservation = true → s.admin.reservation = true ∧ 0 ≠ k) : t.ringsBounded := by
  obtain ⟨hbounded, herBounded, hrooms⟩ := h
  obtain ⟨hlineRooms, heventRoom, hadminRoom⟩ := hrooms hactive
  refine ⟨fun j => ?_, by rw [her]; exact herBounded, fun _ => ⟨fun n hn => ?_, ?_, fun h => ?_⟩⟩
  · rw [hcq]
    split
    · exact PartRing.advance_bounded hroom
    · exact hbounded j
  · obtain ⟨hwriting, hne⟩ := hlines n hn
    rw [State.cqOf, hcq, if_neg hne]
    exact hlineRooms n hwriting
  · rw [hevents, her]; exact heventRoom
  · obtain ⟨hreserved, hne⟩ := hadmin h
    rw [hcq, if_neg hne]
    exact hadminRoom hreserved

theorem cqIndex_ne_zero (n : LineNo) : cqIndex n ≠ 0 := by
  intro h
  simpa [cqIndex] using congrArg Fin.val h

theorem cqIndex_injective {n m : LineNo} (h : cqIndex n = cqIndex m) : n = m := by
  have := congrArg Fin.val h
  simp only [cqIndex] at this
  exact Fin.ext (by omega)

theorem boundsKept_adminWritten {s : State} (hactive : s.active = true) : s.BoundsKept s.adminWritten := by
  unfold State.adminWritten
  refine .ite (fun hreserved => ⟨fun h => ?_, id, id, id, id, id⟩) fun _ => .refl s
  refine ringsBounded_advance h hactive ((h.2.2 hactive).2.2 hreserved) (fun j => ?_) rfl rfl (fun n hn => ?_) ?_
  · exact cqRing_setCq s 0 j _
  · exact ⟨hn, cqIndex_ne_zero n⟩
  · simp

theorem boundsKept_afterAdminWrite (s : State) : s.BoundsKept s.afterAdminWrite := by
  unfold State.afterAdminWrite
  split
  · exact .ite (fun _ => .recordCompleted (fun _ => boundsKept_adminWritten) _) fun _ => .refl s
  · rfl

theorem boundsKept_lineSetup (s : State) (rec : List Byte) : s.BoundsKept (s.lineSetup rec) := by
  unfold State.lineSetup
  refine .ite (fun _ => .of_same rfl) fun _ => .settleHeld (.completeAdmin (.after (boundsKept_startPollTimer _ _) ?_))
  exact .onLine_same (f := fun l => l.setUp _) (by simp [Line.setUp, Line.turn?]) rfl

theorem boundsKept_disableTaken (s : State) (n : LineNo) (tag : Half) : s.BoundsKept (s.disableTaken n tag) := by
  unfold State.disableTaken
  dsimp only
  have hretry : s.BoundsKept ((s.onLine n fun l =>
      { l.overtakeFetch with buf := { l.buf with reading := l.buf.reading.map fun _ => true } }).giveUpRetry
      n .aborted true) :=
    .after (.of_settling (settling_giveUpRetry n _ .aborted true))
      (.onLine_same id (by simp [Line.boundParts, Line.overtakeFetch]))
  exact .ite (fun _ => .after (boundsKept_work _) hretry)
    fun _ => .after (.of_settling (settling_disableEnded n _ tag .ok _)) hretry

theorem boundsKept_lineDisable (s : State) (rec : List Byte) : s.BoundsKept (s.lineDisable rec) := by
  unfold State.lineDisable
  exact .ite (fun _ => boundsKept_disableTaken s _ _) fun _ => .of_same rfl

theorem boundsKept_disableLine (s : State) (n : LineNo) : s.BoundsKept (s.disableLine n) := by
  unfold State.disableLine
  exact .ite (fun _ => .onLine (.of_same (by simp [Line.turn?]) rfl rfl rfl (.inr rfl) rfl)) fun _ => .refl s

theorem boundsKept_afterDisableComplete (s : State) : s.BoundsKept s.afterDisableComplete := by
  unfold State.afterDisableComplete
  split
  · exact .ite (fun _ => .completeAdmin (boundsKept_disableLine s _)) fun _ => boundsKept_disableLine s _
  · rfl

theorem Line.boundsKept_resetTaken (l : Line) : l.BoundsKept l.resetTaken :=
  .of_turnOver rfl rfl rfl id (.inl rfl) rfl

theorem boundsKept_resetTaken (s : State) (n : LineNo) (tag : Half) : s.BoundsKept (s.resetTaken n tag) := by
  unfold State.resetTaken
  extract_lets _ abandoned _ _ _ taken
  have habandoned : s.BoundsKept abandoned := by
    unfold abandoned
    split
    · exact .of_settling ((settling_abortExchange n s _).trans (settling_reportAbandoned n _ _))
    · rfl
  clear_value abandoned
  have hended : s.BoundsKept (((abandoned.endAll n .aborted (abandoned.listed n)).resyncLine n).onLine n Line.resetTaken) :=
    .after (.onLine (Line.boundsKept_resetTaken _))
      (.after (.of_settling ((settling_endAll n _ .aborted _).trans (settling_resyncLine n _))) habandoned)
  exact .settleHeld (.after (.of_settling (settling_drainCache n taken)) (.then_same hended rfl))

theorem boundsKept_lineReset (s : State) (rec : List Byte) : s.BoundsKept (s.lineReset rec) := by
  unfold State.lineReset
  exact .ite (fun _ => boundsKept_resetTaken s _ _) fun _ => .of_same rfl

theorem boundsKept_afterResetComplete (s : State) : s.BoundsKept s.afterResetComplete := by
  unfold State.afterResetComplete
  split
  · exact .ite (fun _ => .settleHeld (.completeAdmin (boundsKept_startPollTimer _ s))) fun _ => .refl s
  · rfl

theorem boundsKept_cancelNow (s : State) (n : LineNo) (k : SlotNo) (r : Request) (tag : Half) :
    s.BoundsKept (s.cancelNow n k r tag) := by
  unfold State.cancelNow
  dsimp only
  refine .settleHeld (.completeAdmin (.after (.of_settling (settling_flushOffline n _ _)) ?_))
  exact .ite (fun _ => .of_settling (settling_giveUpRetry n s .cancelled true)) fun _ => .makeDone (.refl s)

theorem boundsKept_cancelWaits (s : State) (n : LineNo) (k : SlotNo) (tag : Half) :
    s.BoundsKept (s.cancelWaits n k tag) := .after (boundsKept_work _) (.of_settling (settling_onRequest n s k _))

theorem boundsKept_cancel (s : State) (rec : List Byte) : s.BoundsKept (s.cancel rec) := by
  unfold State.cancel
  dsimp only
  split
  · unfold State.cancelFound
    exact .ite (fun _ => boundsKept_cancelWaits s _ _ _)
      fun _ => .ite (fun _ => boundsKept_cancelWaits s _ _ _) fun _ => boundsKept_cancelNow s _ _ _ _
  · exact .ite (fun _ => .of_same rfl) fun _ => .of_same rfl

/-! ### The Posting Path and the line requests (Sections 2, 5 and 8) -/

/-- R137, R140: a free place of the queue takes a record. -/
theorem Line.boundsKept_enterQueue {l : Line} (h : l.post.taken < 6) (k : SlotNo) (rest : List SlotNo) (r : PostRecord) :
    l.BoundsKept (l.enterQueue k rest r) where
  posting hl := by
    have hplaces : (l.enterQueue k rest r).post.taken = l.post.taken + 1 := by
      simp only [PostingPath.taken, Line.enterQueue, List.length_append, List.length_singleton]
      exact Nat.add_right_comm _ _ _
    exact ⟨by omega, hl.2⟩
  cache := id
  writing := id

theorem boundsKept_afterSlotEnters (s : State) (n : LineNo) : s.BoundsKept (s.afterSlotEnters n) := by
  unfold State.afterSlotEnters
  split
  · next hguard _ =>
    simp only [Bool.and_eq_true, decide_eq_true_eq] at hguard
    split
    · exact .settleHeld (.onLine (Line.boundsKept_enterQueue hguard.2 _ _ _))
    · rfl
  · rfl

theorem boundsKept_afterRecordWriteStart (s : State) (n : LineNo) : s.BoundsKept (s.afterRecordWriteStart n) := by
  unfold State.afterRecordWriteStart
  split
  · rfl
  · refine .ite (fun hguard => .request ⟨fun h => ?_, fun h m => ?_, fun h m => ?_, id, id, id⟩) fun _ => .refl s
    · obtain ⟨_, _, hroom⟩ := hguard
      obtain ⟨hcq, her, hrooms⟩ := h
      refine ⟨hcq, her, fun hactive => ⟨fun m hm => ?_, (hrooms hactive).2⟩⟩
      rw [line_onLine] at hm
      split at hm
      · next hmn => subst hmn; exact hroom
      · exact (hrooms hactive).1 m hm
    · rw [line_onLine]
      split
      · next hmn => subst hmn; exact h m
      · exact h m
    · rw [line_onLine]
      split
      · next hmn => subst hmn; exact h m
      · exact h m

/-- R142: the record written leaves its place. -/
theorem Line.boundsKept_recordWritten (l : Line) :
    l.BoundsKept { l with post := { l.post with queue := l.post.queue.tail, writing := false } } where
  posting h := by
    simp only [Line.postingBounded, PostingPath.taken, List.length_tail] at h ⊢
    exact ⟨by omega, h.2⟩
  cache := id
  writing := by simp

theorem boundsKept_recordWritten (n : LineNo) {s : State} (hactive : s.active = true) :
    s.BoundsKept (s.recordWritten n) := by
  unfold State.recordWritten
  refine .ite (fun hwriting => .settleHeld ?_) fun _ => .refl s
  have hline : s.BoundsKept (s.onLine n fun l => { l with
      post := { l.post with queue := l.post.queue.tail, writing := false } }) :=
    .onLine (Line.boundsKept_recordWritten (s.line n))
  refine ⟨fun h => ?_, hline.posting, hline.cache, hline.stations, hline.memory, hline.held⟩
  refine ringsBounded_advance h hactive ((h.2.2 hactive).1 n hwriting) (fun j => ?_) rfl rfl (fun m hm => ?_) ?_
  · exact cqRing_setCq _ _ j _
  · simp only [line_classPending, line_setCq, line_onLine] at hm
    split at hm
    · simp at hm
    · next hne => exact ⟨hm, fun heq => hne (cqIndex_injective heq)⟩
  · exact fun hreserved => ⟨hreserved, (cqIndex_ne_zero n).symm⟩

theorem boundsKept_afterRecordWrite (s : State) : s.BoundsKept s.afterRecordWrite := by
  unfold State.afterRecordWrite
  split
  · split
    · exact .recordCompleted (fun _ => boundsKept_recordWritten _) _
    · rfl
  · rfl

theorem boundsKept_afterFetchClaim (s : State) (n : LineNo) : s.BoundsKept (s.afterFetchClaim n) := by
  unfold State.afterFetchClaim
  split
  · exact .request (.after (.onLine_same id rfl) (.of_same rfl))
  · rfl

theorem boundsKept_noteMade (s : State) (n : LineNo) (k : SlotNo) : s.BoundsKept (s.noteMade n k) := by
  unfold State.noteMade
  split
  · exact .ite (fun _ => boundsKept_work _) fun _ => .refl s
  · exact .ite (fun _ => boundsKept_work _) fun _ => .refl s
  · rfl

theorem boundsKept_examineRequest (s : State) (n : LineNo) (k : SlotNo) (urgent : Bool) (rec : List Byte) :
    s.BoundsKept (s.examineRequest n k urgent rec) := by
  unfold State.examineRequest
  refine .ite (fun _ => .offer (.then_same (.makeDone (.refl s)) rfl)) fun _ =>
    .ite (fun _ => .onLine_same id rfl) fun _ => ?_
  split
  · exact .makeDone (.refl s)
  · unfold State.placeForStation
    exact .ite (fun _ => .makeDone (.refl s)) fun _ => boundsKept_onStation s _ _ _ fun _ => rfl

theorem boundsKept_requestArrived (n : LineNo) (rec : List Byte) (s : State) : s.BoundsKept (s.requestArrived n rec) := by
  unfold State.requestArrived
  split
  · rfl
  · next f _ =>
    have hfilled : s.BoundsKept (s.fillSlot n f rec) := .onLine_same id rfl
    exact .settleHeld (.ite (fun _ => .after (boundsKept_noteMade _ _ _) (.makeDone hfilled))
      fun _ => .after (boundsKept_examineRequest _ n f.slot f.urgent rec) hfilled)

theorem boundsKept_afterTakeLineRequest (s : State) (rec : List Byte) : s.BoundsKept (s.afterTakeLineRequest rec) := by
  unfold State.afterTakeLineRequest
  split
  · split
    · exact .ite (fun _ => .completed (fun u _ => boundsKept_requestArrived _ rec u) _) fun _ => .refl s
    · rfl
  · rfl

/-! ### Buffers (Section 7) -/

theorem boundsKept_afterDescriptorClaim (s : State) (n : LineNo) : s.BoundsKept (s.afterDescriptorClaim n) := by
  unfold State.afterDescriptorClaim
  refine .ite (fun hguard => .request (.after (.onLine ⟨id, fun _ => ?_, id⟩) (.of_same rfl))) fun _ => .refl s
  simp only [State.mayClaimDescriptor, Bool.and_eq_true, decide_eq_true_eq] at hguard
  have hroom := hguard.1.2
  simp only [Line.cacheBounded, line_setBq, Option.isSome_some, if_true]
  omega

theorem boundsKept_descriptorArrived (n : LineNo) (rec : List Byte) (s : State) :
    s.BoundsKept (s.descriptorArrived n rec) := by
  unfold State.descriptorArrived
  refine .after (.of_settling (settling_drainCache n _)) (.onLine ⟨id, fun h => ?_, id⟩)
  simp only [Line.cacheBounded] at h ⊢
  split
  · next hreading => simp [hreading] at h ⊢; omega
  · simp; omega

theorem boundsKept_afterDescriptorRead (s : State) (rec : List Byte) : s.BoundsKept (s.afterDescriptorRead rec) := by
  unfold State.afterDescriptorRead
  split
  · split
    · exact .ite (fun _ => .completed (fun u _ => boundsKept_descriptorArrived _ rec u) _) fun _ => .refl s
    · rfl
  · rfl

/-- R130: the arrival record takes the place the turn had reserved. -/
theorem boundsKept_bufferStored (n : LineNo) (s : State) : s.BoundsKept (s.bufferStored n) := by
  unfold State.bufferStored
  split
  · next t d rest hturn hcache =>
    split
    · next st _ =>
      have hended := turnEnded_finishTurn n (s.postArrival n d t.exch.address st) t.exch false
        (.success (.stored st.seq)) none .idle
      set u := (s.postArrival n d t.exch.address st).finishTurn n t.exch false (.success (.stored st.seq)) none .idle
      have hposted : (s.postArrival n d t.exch.address st).line n = _ := (line_onLine s n n _).trans (if_pos rfl)
      obtain ⟨hcontrol, _, hcq, _, her, hheld, _, _, hmem, _⟩ := hended.device
      refine .of_parts (by simp [State.active, State.running, State.stopping, hcontrol, State.postArrival])
        (fun k => by rw [State.cqRing, State.cqRing, hcq]; exact .refl _) (by rw [her]; exact .refl _) (fun m => ?_)
        (hended.events (fun e => e.writing = true → s.events.writing = true) offerKeeps_writing id)
        (by rw [hended.adminReservation]; exact id) hended.keys
        (by rw [State.memoryCanonical, State.memoryCanonical, hmem]; exact id) (by rw [hheld]; exact id)
      by_cases hm : m = n
      · subst hm
        refine ⟨fun h => ⟨?_, ?_⟩, fun h => ?_, ?_⟩
        · obtain ⟨hplaces, hreserved⟩ := h
          have hreserved := hreserved (by rw [hturn]; rfl)
          simp only [PostingPath.taken, hreserved, if_true] at hplaces
          simp only [PostingPath.taken, hended.queue, hended.reservation, hposted, List.length_append,
            List.length_singleton, Bool.false_eq_true, if_false]
          omega
        · simp [Line.turn?, hended.state]
        · simp only [Line.cacheBounded, hended.reading, hposted] at h ⊢
          rcases hended.cache with hkept | hnone
          · rw [hkept, hposted]; simp only [List.length_tail]; omega
          · rw [hnone]; simp only [List.length_nil]; omega
        · rw [hended.writing, hposted]; exact id
      · rw [(hended.others m hm).1]
        simp only [State.postArrival, line_onLine, hm, if_false]
        exact .refl _
    · rfl
  · rfl

theorem boundsKept_afterBufferWrite (s : State) : s.BoundsKept s.afterBufferWrite := by
  unfold State.afterBufferWrite
  split
  · split
    · exact .completed (fun u _ => boundsKept_bufferStored _ u) _
    · rfl
  · rfl

theorem boundsKept_answerStored (n : LineNo) (s : State) : s.BoundsKept (s.answerStored n) := by
  unfold State.answerStored
  split
  · split
    · exact .finishTurn (.makeDone (.refl s))
    · rfl
  · rfl

theorem boundsKept_afterAnswerWrite (s : State) : s.BoundsKept s.afterAnswerWrite := by
  unfold State.afterAnswerWrite
  split
  · split
    · exact .completed (fun u _ => boundsKept_answerStored _ u) _
    · rfl
  · rfl

/-! ### Starting a turn (5.5, 5.6, 6.2) -/

/-- R137, R138: a turn begins with a place of the queue reserved, one being free (R91). -/
theorem boundsKept_beginTurn {s : State} {n : LineNo} (h : (s.line n).post.taken < 6) (t : Turn) :
    s.BoundsKept (s.beginTurn n t) := by
  refine .onLine ⟨fun _ => ⟨?_, fun _ => rfl⟩, id, id⟩
  simp only [PostingPath.taken, if_true] at h ⊢
  omega

theorem boundsKept_beginGuard {s : State} {n : LineNo} (h : (s.line n).post.taken < 6) (x : Exchange)
    (payload : List Byte) : s.BoundsKept (s.beginGuard n x payload) :=
  .after (.onLine_same id rfl) (boundsKept_beginTurn h _)

theorem boundsKept_beginLoad {s : State} {n : LineNo} (h : (s.line n).post.taken < 6) (x : Exchange) (r : Request) :
    s.BoundsKept (s.beginLoad n x r) := .request (boundsKept_beginTurn h _)

theorem boundsKept_onScheduler (s : State) (n : LineNo) (f : Scheduler → Scheduler) :
    s.BoundsKept (s.onScheduler n f) := .onLine_same id rfl

theorem taken_onScheduler (s : State) (n : LineNo) (f : Scheduler → Scheduler) :
    ((s.onScheduler n f).line n).post.taken = (s.line n).post.taken := by simp [State.onScheduler]

theorem boundsKept_noteExhausted (s : State) (n : LineNo) (address : Byte) (before : BufferUnit) :
    s.BoundsKept (s.noteExhausted n address before) := by
  unfold State.noteExhausted
  exact .ite (fun _ => .offer (.refl s)) fun _ => .refl s

theorem Line.boundsKept_reserve (l : Line) : l.BoundsKept { l with buf := l.buf.reserve } := by
  refine .of_same id rfl rfl rfl (.inl ?_) ?_ <;> simp only [BufferUnit.reserve] <;> split <;> rfl

theorem boundsKept_startPoll {s : State} {n : LineNo} (h : (s.line n).post.taken < 6) (kind : TurnKind) (e : Station) :
    s.BoundsKept (s.startPoll n kind e) := by
  unfold State.startPoll
  dsimp only
  split
  · exact boundsKept_beginGuard h _ _
  · exact .after (boundsKept_noteExhausted _ n e.address _)
      (.after (boundsKept_beginGuard (by simpa using h) _ _) (.onLine (Line.boundsKept_reserve _)))

/-- R95, R99: the head slot becomes ACTIVE and the request cursor moves. -/
theorem settling_requestChosen (n : LineNo) (s : State) (k : SlotNo) (f : Scheduler → Scheduler) :
    State.Settling n s ((s.activate n k).onScheduler n f) :=
  .trans (settling_onRequest n s k _)
    (settling_onLine ⟨rfl, rfl, rfl, rfl, rfl, rfl, rfl, rfl, rfl, rfl, rfl, .inl rfl⟩)

theorem taken_of_settling {s t : State} {n : LineNo} (h : State.Settling n s t) :
    (t.line n).post.taken = (s.line n).post.taken := by
  simp only [PostingPath.taken, h.line.queue, h.line.reservation]

theorem boundsKept_startRequest {s : State} {n : LineNo} (h : (s.line n).post.taken < 6) (e : Station) (k : SlotNo) :
    s.BoundsKept (s.startRequest n e k) := by
  unfold State.startRequest
  split
  · rfl
  · have hchosen := settling_requestChosen n s k fun sc => { sc with requestCursor := .station e.address }
    rw [← taken_of_settling hchosen] at h
    exact .ite (fun _ => .after (boundsKept_beginGuard h _ _) (.of_settling hchosen))
      fun _ => .after (boundsKept_beginLoad h _ _) (.of_settling hchosen)

theorem boundsKept_startBroadcast {s : State} {n : LineNo} (h : (s.line n).post.taken < 6) (k : SlotNo) :
    s.BoundsKept (s.startBroadcast n k) := by
  unfold State.startBroadcast
  split
  · rfl
  · have hchosen := settling_requestChosen n s k fun sc => { sc with requestCursor := .broadcast }
    rw [← taken_of_settling hchosen] at h
    exact .after (boundsKept_beginLoad h _ _) (.of_settling hchosen)

theorem boundsKept_startReset {s : State} {n : LineNo} (h : (s.line n).post.taken < 6) (f : Scheduler → Scheduler)
    (kind : TurnKind) (e : Station) (slot : Option SlotNo) :
    s.BoundsKept ((s.onScheduler n f).startReset n kind e slot) :=
  .after (boundsKept_beginGuard (by rw [taken_onScheduler]; exact h) _ _) (boundsKept_onScheduler s n f)

theorem boundsKept_startChoice {s : State} {n : LineNo} (h : (s.line n).post.taken < 6) (c : Choice) :
    s.BoundsKept (s.startChoice n c) := by
  unfold State.startChoice
  cases c with
  | sync e => exact boundsKept_startReset h _ .sync e none
  | queryPoll e => exact boundsKept_startPoll h .queryPoll e
  | poll e due wrapped =>
    exact .after (boundsKept_startPoll (by rw [taken_onScheduler]; exact h) .poll e) (boundsKept_onScheduler s n _)
  | request e k => exact boundsKept_startRequest h e k
  | broadcast k => exact boundsKept_startBroadcast h k
  | slow e => exact boundsKept_startReset h _ .slow e none

theorem taken_of_canStart {s : State} {n : LineNo} (h : s.canStart n = true) : (s.line n).post.taken < 6 := by
  simp only [State.canStart, Line.gateOpen, Bool.and_eq_true, decide_eq_true_eq] at h
  exact h.2.2

theorem boundsKept_afterSelection (s : State) (n : LineNo) : s.BoundsKept (s.afterSelection n) := by
  unfold State.afterSelection
  refine .ite (fun hguard => ?_) fun _ => .refl s
  split
  · exact boundsKept_startChoice (taken_of_canStart hguard.1) _
  · rfl

/-- R93: the slot's retries are counted. -/
theorem settling_countRetry (n : LineNo) (s : State) (slot : Option SlotNo) (f : Request → Request) :
    State.Settling n s (match slot with
      | some k => s.onRequest n k f
      | none => s) := by
  cases slot with
  | none => exact .refl n s
  | some k => exact settling_onRequest n s k f

theorem boundsKept_startRetry {s : State} {n : LineNo} (h : (s.line n).post.taken < 6) (x : Exchange) :
    s.BoundsKept (s.startRetry n x) := by
  unfold State.startRetry
  have hcounted := settling_countRetry n s x.slot fun r => { r with retriesUsed := min (r.retriesUsed + 1) 255 }
  rw [← taken_of_settling hcounted] at h
  exact .after (boundsKept_onScheduler _ n _) (.after (boundsKept_beginTurn h _) (.of_settling hcounted))

theorem boundsKept_afterRetryStart (s : State) (n : LineNo) : s.BoundsKept (s.afterRetryStart n) := by
  unfold State.afterRetryStart
  split
  · next hguard _ => exact boundsKept_startRetry (taken_of_canStart hguard) _
  · rfl

/-- The turn in flight is replaced by another form of it. -/
theorem boundsKept_setTurn {s : State} {n : LineNo} (h : (s.line n).turn?.isSome = true) (t : Turn) :
    s.BoundsKept (s.setTurn n t) := .onLine_same (fun _ => h) rfl

theorem boundsKept_payloadLoaded (n : LineNo) (payload : List Byte) (s : State) :
    s.BoundsKept (s.payloadLoaded n payload) := by
  unfold State.payloadLoaded
  split
  · next t hturn => exact .ite (fun _ => .onLine_same (fun _ => by rw [hturn]; rfl) rfl) fun _ => .refl s
  · rfl

theorem boundsKept_afterPayloadRead (s : State) (payload : List Byte) : s.BoundsKept (s.afterPayloadRead payload) := by
  unfold State.afterPayloadRead
  split
  · split
    · exact .ite (fun _ => .completed (fun u _ => boundsKept_payloadLoaded _ payload u) _) fun _ => .refl s
    · rfl
  · rfl

theorem turn?_of_liveTurn {s : State} {n : LineNo} {t : Turn} (h : s.liveTurn n = some t) :
    (s.line n).turn?.isSome = true := by
  unfold State.liveTurn at h
  split at h
  · rw [h]; rfl
  · cases h

theorem boundsKept_afterGuardEnd (s : State) (n : LineNo) : s.BoundsKept (s.afterGuardEnd n) := by
  unfold State.afterGuardEnd
  split
  · next hturn =>
    split
    · exact .after (.onLine_same (fun _ => turn?_of_liveTurn hturn) rfl) (.of_same rfl)
    · rfl
  · rfl

/-! ### The end of a turn (6.3, 6.4) -/

theorem boundsKept_failTurn (n : LineNo) (x : Exchange) (s : State) : s.BoundsKept (s.failTurn n x) := by
  unfold State.failTurn
  have hnoted : s.BoundsKept (s.noteFailedTurn n x) := .of_settling (settling_noteFailedTurn n s x)
  refine .ite (fun _ => .ite (fun _ => ?_) fun _ => .ite (fun _ => .finishTurn hnoted) fun _ => .finishTurn hnoted)
    fun _ => ?_
  · exact .finishTurn (.after (.of_settling (settling_settlePrevented n _ x)) hnoted)
  · exact .finishTurn (.after (.of_settling (settling_settleFailure n _ x)) hnoted)

theorem boundsKept_settleContinuing (s : State) (n : LineNo) (x : Exchange) (f g : Request → Request) :
    s.BoundsKept (s.settleContinuing n x f g) := .of_settling (settling_settleContinuing n s x f g)

theorem boundsKept_onAccept (s : State) (n : LineNo) (x : Exchange) : s.BoundsKept (s.onAccept n x) := by
  unfold State.onAccept
  dsimp only
  split
  · exact .finishTurn (.refl s)
  · split
    · exact .finishTurn (.refl s)
    · exact .ite (fun _ => .finishTurn (boundsKept_settleContinuing s n x _ _))
        fun _ => .finishTurn (.makeDone (.refl s))

theorem boundsKept_onBusy (s : State) (n : LineNo) (x : Exchange) : s.BoundsKept (s.onBusy n x) := by
  unfold State.onBusy
  dsimp only
  split
  · split
    · exact .finishTurn (.refl s)
    · exact .ite (fun _ => .finishTurn (boundsKept_settleContinuing s n x _ _))
        fun _ => .finishTurn (.makeDone (.refl s))
  · exact .finishTurn (.refl s)

theorem boundsKept_onSelectReject (s : State) (n : LineNo) (x : Exchange) (expected : Option Byte) :
    s.BoundsKept (s.onSelectReject n x expected) := .finishTurn (boundsKept_settleContinuing s n x _ _)

theorem boundsKept_onReady (s : State) (n : LineNo) (x : Exchange) : s.BoundsKept (s.onReady n x) := by
  unfold State.onReady
  cases x.slot with
  | none => exact .finishTurn (.refl s)
  | some k => exact .finishTurn (.makeDone (.refl s))

theorem boundsKept_onPollPlain (s : State) (n : LineNo) (x : Exchange) (eff : ReplyEffect) :
    s.BoundsKept (s.onPollPlain n x eff) :=
  .finishTurn (.ite (fun _ => boundsKept_settleContinuing s n x id id) fun _ => .refl s)

theorem boundsKept_beginStore {s : State} {n : LineNo} (h : (s.line n).turn?.isSome = true) (t : Turn) (seq : Seq)
    (payload : List Byte) : s.BoundsKept (s.beginStore n t seq payload) := by
  unfold State.beginStore
  dsimp only
  split
  · exact .request (boundsKept_setTurn h _)
  · split
    · exact .request (boundsKept_setTurn h _)
    · exact boundsKept_onPollPlain s n t.exch .plain

theorem boundsKept_onPollData {s : State} {n : LineNo} (h : (s.line n).turn?.isSome = true) (t : Turn) (control : Byte)
    (seq : Seq) (payload : List Byte) : s.BoundsKept (s.onPollData n t control seq payload) := by
  unfold State.onPollData
  dsimp only
  have hplain := boundsKept_onPollPlain s n t.exch
  split
  · exact hplain .plain
  · refine .ite (fun _ => ?_) fun _ => .ite (fun _ => .ite (fun _ => hplain .plain)
      fun _ => boundsKept_beginStore h t seq payload) fun _ => .ite (fun _ => hplain .plain) fun _ => hplain _
    exact .after (boundsKept_onPollPlain _ n t.exch .plain) (.of_settling (settling_noteProtocolError n s t.exch control))

theorem boundsKept_onReply {s : State} {n : LineNo} (h : (s.line n).turn?.isSome = true) (t : Turn) (control : Byte)
    (reply : Reply) : s.BoundsKept (s.onReply n t control reply) := by
  cases reply with
  | accept => exact boundsKept_onAccept s n t.exch
  | busy => exact boundsKept_onBusy s n t.exch
  | ready => exact boundsKept_onReady s n t.exch
  | idle => exact boundsKept_onPollPlain s n t.exch .plain
  | data seq payload => exact boundsKept_onPollData h t control seq payload
  | reject expected =>
    unfold State.onReply
    dsimp only
    split
    · exact boundsKept_onPollPlain s n t.exch _
    · exact boundsKept_onSelectReject s n t.exch expected
    · exact boundsKept_onSelectReject s n t.exch expected
    · exact boundsKept_onSelectReject s n t.exch expected

theorem boundsKept_onFrame {s : State} {n : LineNo} (h : (s.line n).turn?.isSome = true) (t : Turn) (control : Byte)
    (payload : List Byte) : s.BoundsKept (s.onFrame n t control payload) := by
  unfold State.onFrame
  split
  · exact boundsKept_onReply h t control _
  · exact boundsKept_failTurn n t.exch s
  · exact .after (boundsKept_failTurn n t.exch _) (.of_settling (settling_noteProtocolError n s t.exch _))

theorem boundsKept_jamTurn (n : LineNo) (x : Exchange) (s : State) : s.BoundsKept (s.jamTurn n x) := by
  unfold State.jamTurn
  exact .after (.of_turnEnded (by simp) (turnEnded_finishTurn n _ x true .silent none .jammed))
    (.offer (.ite (fun _ => boundsKept_settleContinuing s n x _ _) fun _ => .refl s))

/-! ### SEND, the characters and the timers (6.2, Sections 4 and 5) -/

theorem boundsKept_broadcastSent (s : State) (n : LineNo) (x : Exchange) : s.BoundsKept (s.broadcastSent n x) := by
  unfold State.broadcastSent
  cases x.slot with
  | none => exact .finishTurn (.refl s)
  | some k => exact .finishTurn (.makeDone (.refl s))

theorem boundsKept_sendEnded {s : State} {n : LineNo} (h : (s.line n).turn?.isSome = true) (t : Turn) :
    s.BoundsKept (s.sendEnded n t) := by
  unfold State.sendEnded
  dsimp only
  have hreleased : s.BoundsKept (s.releaseDe n) := .onLine_same id rfl
  split
  · exact .after (boundsKept_broadcastSent _ n t.exch) hreleased
  · refine .after (boundsKept_setTurn ?_ _) hreleased
    rw [State.releaseDe, line_onLine, if_pos rfl]
    exact h
  · exact hreleased

/-- A moment is reached and `f` follows (log entry 3). -/
theorem boundsKept_reach {f : State → State} (hf : ∀ u : State, u.BoundsKept (f u)) (s : State) (d : Nat) :
    s.BoundsKept (f (s.reach d)) := .after (hf _) (.of_same rfl)

theorem boundsKept_afterSendDone (s : State) (n : LineNo) : s.BoundsKept (s.afterSendDone n) := by
  unfold State.afterSendDone
  split
  · next hturn =>
    split
    · exact .after (boundsKept_sendEnded (s := s.reach _) (turn?_of_liveTurn hturn) _) (.of_same rfl)
    · rfl
  · rfl

theorem boundsKept_collectCharacter {s : State} {n : LineNo} (h : (s.line n).turn?.isSome = true) (t : Turn)
    (c : Collector) (ch : Byte) (framing : Bool) : s.BoundsKept (s.collectCharacter n t c ch framing) := by
  unfold State.collectCharacter
  split
  · exact .ite (fun _ => boundsKept_setTurn h _) fun _ => .refl s
  · exact boundsKept_failTurn n t.exch s
  · exact boundsKept_onFrame h t _ _

theorem boundsKept_afterCharacter (s : State) (n : LineNo) (ch : Byte) (framing underDe : Bool) :
    s.BoundsKept (s.afterCharacter n ch framing underDe) := by
  unfold State.afterCharacter
  split
  · next hlive =>
    have hturn := turn?_of_liveTurn hlive
    unfold State.characterInTurn
    split
    · exact boundsKept_setTurn hturn _
    · exact boundsKept_collectCharacter hturn _ _ ch framing
    · exact boundsKept_collectCharacter hturn _ _ ch framing
    · rfl
  · rfl

theorem boundsKept_afterJamExpiry (s : State) (n : LineNo) : s.BoundsKept (s.afterJamExpiry n) := by
  unfold State.afterJamExpiry
  split
  · split
    · exact boundsKept_reach (boundsKept_jamTurn n _) s _
    · rfl
  · rfl

theorem boundsKept_afterReplyExpiry (s : State) (n : LineNo) : s.BoundsKept (s.afterReplyExpiry n) := by
  unfold State.afterReplyExpiry
  split
  · split
    · exact boundsKept_reach (boundsKept_failTurn n _) s _
    · rfl
  · rfl

theorem boundsKept_afterGapExpiry (s : State) (n : LineNo) : s.BoundsKept (s.afterGapExpiry n) := by
  unfold State.afterGapExpiry
  split
  · split
    · exact boundsKept_reach (boundsKept_failTurn n _) s _
    · rfl
  · rfl

theorem boundsKept_afterPollExpiry (s : State) (n : LineNo) : s.BoundsKept (s.afterPollExpiry n) := by
  unfold State.afterPollExpiry
  split
  · exact .settleHeld (.after (boundsKept_onScheduler _ n _) (.of_same rfl))
  · rfl

theorem boundsKept_afterHoldoff (s : State) (n : LineNo) (address : Byte) : s.BoundsKept (s.afterHoldoff n address) := by
  unfold State.afterHoldoff
  split
  · exact .settleHeld (.after (boundsKept_onStation _ n address _ fun _ => rfl) (.of_same rfl))
  · rfl

theorem boundsKept_afterQueryPollDue (s : State) (n : LineNo) (address : Byte) :
    s.BoundsKept (s.afterQueryPollDue n address) := by
  unfold State.afterQueryPollDue
  split
  · exact .settleHeld (.of_same rfl)
  · rfl

theorem boundsKept_afterAnswerDeadline (s : State) (n : LineNo) (address : Byte) :
    s.BoundsKept (s.afterAnswerDeadline n address) := by
  unfold State.afterAnswerDeadline
  split
  · split
    · exact .ite (fun _ => .of_same rfl) fun _ => .settleHeld (.makeDone (.of_same rfl))
    · rfl
  · rfl

/-! ### Every command and every step -/

/-- Only the flags of the Event Unit and the value last read change. -/
theorem boundsKept_flags {s : State} {e : EventUnit} {w : Word} (h : e.writing = s.events.writing) :
    s.BoundsKept { s with events := e, eventRead := w } :=
  .of_parts id (fun _ => .refl _) (.refl _) (fun _ => .refl _) (by rw [← h]; exact id) id (.refl _) id id

theorem writing_taken (e : EventUnit) : e.taken.writing = e.writing := by
  unfold EventUnit.taken
  split <;> rfl

theorem boundsKept_afterTake (s : State) : s.BoundsKept s.afterTake := by
  unfold State.afterTake
  exact .ite (fun _ => .of_same rfl) fun _ => boundsKept_flags (writing_taken s.events)

theorem boundsKept_released (s : State) : s.BoundsKept { s with resetHeld := false } :=
  .of_parts id (fun _ => .refl _) (.refl _) (fun _ => .refl _) id id (.refl _) id fun h => nomatch h

/-- What each command but the assertion of the reset input keeps; no command faults or is refused. -/
theorem exec_boundsKept (s : State) : ∀ c : Instr, c ≠ .resetInput → ∃ t, exec c s = .next t ∧ s.BoundsKept t
  | .post w, _ => ⟨_, rfl, boundsKept_afterPost s w⟩
  | .baseWrite _ _, _ => ⟨_, rfl, .ite (fun _ => boundsKept_control id) fun _ => .refl s⟩
  | .start, _ => ⟨_, rfl, boundsKept_onCommand s fun _ => boundsKept_starting s⟩
  | .stop, _ => ⟨_, rfl, boundsKept_onCommand s boundsKept_stopTaken⟩
  | .resumeAdmin, _ => ⟨_, rfl, boundsKept_onCommand s fun _ => .after (boundsKept_setSq _ 0 _) (boundsKept_control id)⟩
  | .deviceReset, _ => ⟨_, rfl, .ite (fun _ => .refl s) fun _ => boundsKept_deviceReset s⟩
  | .commandInvalid _, _ => ⟨_, rfl, .ite (fun _ => .refl s) fun _ => boundsKept_onCommand s fun _ => .refl s⟩
  | .resetInput, h => absurd rfl h
  | .resetInputRelease, _ => ⟨_, rfl, boundsKept_released s⟩
  | .take, _ => ⟨_, rfl, boundsKept_afterTake s⟩
  | .release, _ => ⟨_, rfl, .ite (fun _ => .refl s) fun _ => boundsKept_flags rfl⟩
  | .setMask _, _ => ⟨_, rfl, .ite (fun _ => .refl s) fun _ => boundsKept_flags rfl⟩
  | .registerWriteIgnored _ _ _, _ => ⟨_, rfl, .refl s⟩
  | .hostPortAccessStart, _ => ⟨_, rfl, .ite (fun _ => .refl s) fun _ => .of_same rfl⟩
  | .busError words startFirst, _ => ⟨_, rfl, boundsKept_afterBusError s words startFirst⟩
  | .controlBlockReadDone block, _ => ⟨_, rfl, boundsKept_afterControlBlock s block⟩
  | .fetchClaim n, _ => ⟨_, rfl, boundsKept_afterFetchClaim s n⟩
  | .takeLineRequest rec, _ => ⟨_, rfl, boundsKept_afterTakeLineRequest s rec⟩
  | .adminClaim, _ => ⟨_, rfl, boundsKept_afterAdminClaim s⟩
  | .adminMalformed rec, _ => ⟨_, rfl, boundsKept_onAdminRecord s _ fun t => boundsKept_malformedAdmin t rec⟩
  | .lineSetup rec, _ => ⟨_, rfl, boundsKept_adminRequest s _ rec _ _ fun t => boundsKept_lineSetup t rec⟩
  | .lineDisable rec, _ => ⟨_, rfl, boundsKept_adminRequest s _ rec _ _ fun t => boundsKept_lineDisable t rec⟩
  | .lineDisableComplete, _ => ⟨_, rfl, boundsKept_afterDisableComplete s⟩
  | .lineReset rec, _ => ⟨_, rfl, boundsKept_adminRequest s _ rec _ _ fun t => boundsKept_lineReset t rec⟩
  | .lineResetComplete, _ => ⟨_, rfl, boundsKept_afterResetComplete s⟩
  | .attach rec, _ => ⟨_, rfl, boundsKept_adminRequest s _ rec _ _ fun t => boundsKept_attach t rec⟩
  | .detach rec, _ => ⟨_, rfl, boundsKept_adminRequest s _ rec _ _ fun t => boundsKept_detach t rec⟩
  | .stationSet rec, _ => ⟨_, rfl, boundsKept_adminRequest s _ rec _ _ fun t => boundsKept_stationSet t rec⟩
  | .stationRead rec, _ => ⟨_, rfl, boundsKept_adminRequest s _ rec _ _ fun t => boundsKept_stationRead t rec⟩
  | .snapshotWriteDone, _ => ⟨_, rfl, boundsKept_afterSnapshotWrite s⟩
  | .cancel rec, _ => ⟨_, rfl, boundsKept_adminRequest s _ rec _ _ fun t => boundsKept_cancel t rec⟩
  | .queueResume rec, _ => ⟨_, rfl, boundsKept_adminRequest s _ rec _ _ fun t => boundsKept_queueResume t rec⟩
  | .adminCompletionWriteDone, _ => ⟨_, rfl, boundsKept_afterAdminWrite s⟩
  | .descriptorClaim n, _ => ⟨_, rfl, boundsKept_afterDescriptorClaim s n⟩
  | .descriptorReadDone rec, _ => ⟨_, rfl, boundsKept_afterDescriptorRead s rec⟩
  | .turnSelection n, _ => ⟨_, rfl, boundsKept_afterSelection s n⟩
  | .retryTurnStart n, _ => ⟨_, rfl, boundsKept_afterRetryStart s n⟩
  | .payloadReadDone payload, _ => ⟨_, rfl, boundsKept_afterPayloadRead s payload⟩
  | .guardEnd n, _ => ⟨_, rfl, boundsKept_afterGuardEnd s n⟩
  | .jamTimerExpiry n, _ => ⟨_, rfl, boundsKept_afterJamExpiry s n⟩
  | .sendDone n, _ => ⟨_, rfl, boundsKept_afterSendDone s n⟩
  | .characterReceived n ch framing underDe, _ => ⟨_, rfl, boundsKept_afterCharacter s n ch framing underDe⟩
  | .replyTimerExpiry n, _ => ⟨_, rfl, boundsKept_afterReplyExpiry s n⟩
  | .gapTimerExpiry n, _ => ⟨_, rfl, boundsKept_afterGapExpiry s n⟩
  | .bufferWriteDone, _ => ⟨_, rfl, boundsKept_afterBufferWrite s⟩
  | .answerWriteDone, _ => ⟨_, rfl, boundsKept_afterAnswerWrite s⟩
  | .pollTimerExpiry n, _ => ⟨_, rfl, boundsKept_afterPollExpiry s n⟩
  | .holdoffDeadlineReached n address, _ => ⟨_, rfl, boundsKept_afterHoldoff s n address⟩
  | .queryPollDue n address, _ => ⟨_, rfl, boundsKept_afterQueryPollDue s n address⟩
  | .answerDeadline n address, _ => ⟨_, rfl, boundsKept_afterAnswerDeadline s n address⟩
  | .slotEntersQueue n, _ => ⟨_, rfl, boundsKept_afterSlotEnters s n⟩
  | .recordWriteStart n, _ => ⟨_, rfl, boundsKept_afterRecordWriteStart s n⟩
  | .recordWriteDone, _ => ⟨_, rfl, boundsKept_afterRecordWrite s⟩
  | .eventWriteStart, _ => ⟨_, rfl, boundsKept_afterEventWriteStart s⟩
  | .eventWriteDone, _ => ⟨_, rfl, boundsKept_afterEventWriteDone s⟩
  | .drainComplete, _ => ⟨_, rfl, .ite (fun _ => boundsKept_idled s) fun _ => .refl s⟩

/-! ### The reset input (R174) -/

theorem lineAtReset_reset : Line.reset.AtReset :=
  ⟨rfl, rfl, rfl, rfl, rfl, rfl, rfl, by simp [Line.reset, Pool.reset], rfl, rfl, rfl, rfl, rfl, rfl⟩

/-- R174: a state whose blocks are those of `State.reset` stands at its reset values. -/
theorem atReset_of_blocks {s : State} (control : s.control = .reset) (sq : s.sq = State.reset.sq)
    (cq : s.cq = State.reset.cq) (bq : s.bq = State.reset.bq) (er : s.er = .reset) (admin : s.admin = .reset)
    (port : s.port = .reset) (stations : s.stations = []) (lines : s.lines = State.reset.lines)
    (events : s.events = .reset) : s.AtReset := by
  refine ⟨control, fun k => ?_, fun k => ?_, fun n => ?_, er, admin, port, stations, fun n => ?_, events⟩
  · simp [State.sqRing, sq, State.reset, HostRing.reset]
  · simp [State.cqRing, cq, State.reset, PartRing.reset]
  · simp [State.bqRing, bq, State.reset, HostRing.reset]
  · have hline : s.line n = Line.reset := by rw [State.line, lines]; exact line_reset n
    rw [hline]
    exact lineAtReset_reset

theorem atReset_deviceReset (s : State) : s.deviceReset.AtReset :=
  atReset_of_blocks rfl rfl rfl rfl rfl rfl rfl rfl rfl rfl

/-- With no access in flight, as at reset, no completion does anything. -/
theorem exec_of_noneInFlight {s : State} (h : s.port.inFlight = none) :
    (∀ words first, exec (.busError words first) s = .next s)
      ∧ (∀ rec, exec (.controlBlockReadDone rec) s = .next s ∧ exec (.takeLineRequest rec) s = .next s
        ∧ exec (.descriptorReadDone rec) s = .next s ∧ exec (.payloadReadDone rec) s = .next s)
      ∧ exec .bufferWriteDone s = .next s ∧ exec .answerWriteDone s = .next s ∧ exec .recordWriteDone s = .next s
      ∧ exec .eventWriteDone s = .next s ∧ exec .snapshotWriteDone s = .next s
      ∧ exec .adminCompletionWriteDone s = .next s ∧ ∀ ok f, s.onAdminRecord ok f = s := by
  refine ⟨fun words first => congrArg Host.Outcome.next (?_ : s.afterBusError words first = s),
    fun rec => ⟨congrArg Host.Outcome.next (?_ : s.afterControlBlock rec = s),
      congrArg Host.Outcome.next (?_ : s.afterTakeLineRequest rec = s),
      congrArg Host.Outcome.next (?_ : s.afterDescriptorRead rec = s),
      congrArg Host.Outcome.next (?_ : s.afterPayloadRead rec = s)⟩,
    congrArg Host.Outcome.next (?_ : s.afterBufferWrite = s), congrArg Host.Outcome.next (?_ : s.afterAnswerWrite = s),
    congrArg Host.Outcome.next (?_ : s.afterRecordWrite = s), congrArg Host.Outcome.next (?_ : s.afterEventWriteDone = s),
    congrArg Host.Outcome.next (?_ : s.afterSnapshotWrite = s), congrArg Host.Outcome.next (?_ : s.afterAdminWrite = s),
    fun ok f => ?_⟩
  · simp [State.afterBusError, h]
  · simp [State.afterControlBlock, h]
  · simp [State.afterTakeLineRequest, h]
  · simp [State.afterDescriptorRead, h]
  · simp [State.afterPayloadRead, h]
  · simp [State.afterBufferWrite, h]
  · simp [State.afterAnswerWrite, h]
  · simp [State.afterRecordWrite, h]
  · simp [State.afterEventWriteDone, h]
  · simp [State.afterSnapshotWrite, h]
  · simp [State.afterAdminWrite, h]
  · simp [State.onAdminRecord, h]

/-- On a device that is neither RUNNING nor STOPPING no turn of a line goes on. -/
theorem liveTurn_of_inactive {s : State} (h : s.active = false) (n : LineNo) : s.liveTurn n = none := by
  simp [State.liveTurn, h]

theorem running_of_inactive {s : State} (h : s.active = false) : s.running = false := by
  simp only [State.active, Bool.or_eq_false_iff] at h
  exact h.1

theorem stopping_of_inactive {s : State} (h : s.active = false) : s.stopping = false := by
  simp only [State.active, Bool.or_eq_false_iff] at h
  exact h.2

theorem afterFetchClaim_of_inactive {s : State} (h : s.active = false) (n : LineNo) : s.afterFetchClaim n = s := by
  simp [State.afterFetchClaim, State.mayFetch, running_of_inactive h]

theorem canStart_of_inactive {s : State} (h : s.active = false) (n : LineNo) : s.canStart n = false := by
  simp [State.canStart, State.mayStart, running_of_inactive h]

theorem startNext_of_noneWaiting {p : HostPort} (h : p.waiting = []) : p.startNext = p := by
  have hnone : p.choose = none := by simp [HostPort.choose, h]
  unfold HostPort.startNext
  rw [hnone]
  split <;> simp_all

/-- R174: while the reset input is asserted every block stays at its reset value, whatever command comes. -/
theorem exec_atReset {s : State} (hheld : s.resetHeld = true) (h : s.AtReset) (c : Instr) :
    ∃ t, exec c s = .next t ∧ t.AtReset := by
  have ⟨hcontrol, _, _, _, _, hadmin, hport, _, _, hevents⟩ := h
  have hactive : s.active = false := by simp [State.active, State.running, State.stopping, hcontrol]
  have hturn := liveTurn_of_inactive hactive
  have hnone : s.port.inFlight = none := by rw [hport]
  obtain ⟨hbusError, hreads, hbuffer, hanswer, hrecord, hevent, hsnapshot, hadminWrite, hrequest⟩ :=
    exec_of_noneInFlight hnone
  have same {u : State} (hu : u = s) : ∃ t, Host.Outcome.next u = (.next t : Host.Outcome State Fault Refusal) ∧ t.AtReset :=
    ⟨u, rfl, hu.symm ▸ h⟩
  have refused {taken : Bool} {f : State → State} : s.onCommand taken f = s := by simp [State.onCommand, hheld]
  cases c with
  | post w => exact same (by simp [State.afterPost, hheld])
  | baseWrite high w => exact same (by simp [State.afterBaseWrite, hheld])
  | start => exact same refused
  | stop => exact same refused
  | resumeAdmin => exact same refused
  | deviceReset => exact same (by simp [hheld])
  | commandInvalid w => exact same (by simp [refused])
  | resetInput => exact same (by simp [hheld])
  | resetInputRelease => exact ⟨_, rfl, h⟩
  | take =>
    refine ⟨{ s with eventRead := eventWord 7 .reset }, ?_, h⟩
    change Host.Outcome.next s.afterTake = _
    rw [State.afterTake, if_pos hheld]
  | release => exact same (by simp [State.afterRelease, hheld])
  | setMask w => exact same (by simp [State.afterSetMask, hheld])
  | registerWriteIgnored offset size w => exact same rfl
  | hostPortAccessStart =>
    refine same ?_
    rw [State.afterAccessStart, startNext_of_noneWaiting (by rw [hport]), ite_self]
  | busError words startFirst => exact ⟨s, hbusError _ _, h⟩
  | controlBlockReadDone block => exact ⟨s, (hreads _).1, h⟩
  | fetchClaim n => exact same (afterFetchClaim_of_inactive hactive n)
  | takeLineRequest rec => exact ⟨s, (hreads _).2.1, h⟩
  | adminClaim => exact same (by simp [State.afterAdminClaim, State.mayClaimAdmin, running_of_inactive hactive])
  | adminMalformed rec => exact same (hrequest _ _)
  | lineSetup rec => exact same (hrequest _ _)
  | lineDisable rec => exact same (hrequest _ _)
  | lineDisableComplete => exact same (by simp [State.afterDisableComplete, hactive])
  | lineReset rec => exact same (hrequest _ _)
  | lineResetComplete => exact same (by simp [State.afterResetComplete, hactive])
  | attach rec => exact same (hrequest _ _)
  | detach rec => exact same (hrequest _ _)
  | stationSet rec => exact same (hrequest _ _)
  | stationRead rec => exact same (hrequest _ _)
  | snapshotWriteDone => exact ⟨s, hsnapshot, h⟩
  | cancel rec => exact same (hrequest _ _)
  | queueResume rec => exact same (hrequest _ _)
  | adminCompletionWriteDone => exact ⟨s, hadminWrite, h⟩
  | descriptorClaim n =>
    exact same (by simp [State.afterDescriptorClaim, State.mayClaimDescriptor, running_of_inactive hactive])
  | descriptorReadDone rec => exact ⟨s, (hreads _).2.2.1, h⟩
  | turnSelection n => exact same (by simp [State.afterSelection, canStart_of_inactive hactive])
  | retryTurnStart n => exact same (by simp [State.afterRetryStart, canStart_of_inactive hactive])
  | payloadReadDone payload => exact ⟨s, (hreads _).2.2.2, h⟩
  | guardEnd n => exact same (by simp [State.afterGuardEnd, hturn])
  | jamTimerExpiry n => exact same (by simp [State.afterJamExpiry, hturn])
  | sendDone n => exact same (by simp [State.afterSendDone, hturn])
  | characterReceived n ch framing underDe => exact same (by simp [State.afterCharacter, hturn])
  | replyTimerExpiry n => exact same (by simp [State.afterReplyExpiry, hturn])
  | gapTimerExpiry n => exact same (by simp [State.afterGapExpiry, hturn])
  | bufferWriteDone => exact ⟨s, hbuffer, h⟩
  | answerWriteDone => exact ⟨s, hanswer, h⟩
  | pollTimerExpiry n => exact same (by simp [State.afterPollExpiry, running_of_inactive hactive])
  | holdoffDeadlineReached n address => exact same (by simp [State.afterHoldoff, hactive])
  | queryPollDue n address => exact same (by simp [State.afterQueryPollDue, running_of_inactive hactive])
  | answerDeadline n address => exact same (by simp [State.afterAnswerDeadline, running_of_inactive hactive])
  | slotEntersQueue n => exact same (by simp [State.afterSlotEnters, hactive])
  | recordWriteStart n =>
    refine same ?_
    unfold State.afterRecordWriteStart
    split <;> simp [hactive]
  | recordWriteDone => exact ⟨s, hrecord, h⟩
  | eventWriteStart => exact same (by simp [State.afterEventWriteStart, hevents])
  | eventWriteDone => exact ⟨s, hevent, h⟩
  | drainComplete => exact same (by simp [State.drained, stopping_of_inactive hactive])

/-! ### Every step -/

/-- A step keeps every bound; the assertion of the reset input does so too, and puts every block at its reset value. -/
theorem step_boundsKept {s t : State} (h : step s = .next t) :
    s.BoundsKept t ∨ ∃ u, s.BoundsKept u ∧ t = { u with resetHeld := true } ∧ t.AtReset := by
  unfold step at h
  split at h
  · cases h
    exact .inl (.of_same rfl)
  · next c rest _ =>
    obtain ⟨s', hs'⟩ : ∃ s' : State, { s with pending := rest } = s' := ⟨_, rfl⟩
    have hrest : s.BoundsKept s' := hs' ▸ (.of_same rfl)
    rw [hs'] at h
    clear hs'
    by_cases hc : c = .resetInput
    · subst hc
      have hexec : exec .resetInput s' =
          .next (if s'.resetHeld then s' else { s'.deviceReset with resetHeld := true }) := rfl
      rw [hexec] at h
      split_ifs at h <;> cases h
      · exact .inl hrest
      · exact .inr ⟨_, .after (boundsKept_deviceReset s') hrest, rfl, atReset_deviceReset s'⟩
    · obtain ⟨u, hexec, hkept⟩ := exec_boundsKept s' c hc
      rw [hexec] at h
      cases h
      exact .inl (.after hkept hrest)

/-- R174: a step of a state held at reset leaves it there, or releases it. -/
theorem step_atReset {s t : State} (h : step s = .next t) (hheld : s.resetHeld = true) (hs : s.AtReset) : t.AtReset := by
  unfold step at h
  split at h
  · cases h
    exact hs
  · next c rest _ =>
    obtain ⟨u, hexec, hu⟩ := exec_atReset (s := { s with pending := rest }) hheld hs c
    rw [hexec] at h
    cases h
    exact hu

/-! ### The Event Unit's own bounds (R151, 9.1) -/

/-- R151, 9.1. -/
def EventUnit.stagingBounded (e : EventUnit) : Prop := e.fifo.length ≤ 8 ∧ e.missed ≤ 255 ∧ e.mask.getLsbD 0 = false

theorem stagingBounded_iff (s : State) : s.stagingBounded ↔ s.events.stagingBounded := Iff.rfl

theorem stagingBounded_drop {e : EventUnit} (h : e.stagingBounded) (r : EventRecord) : (e.drop r).stagingBounded := by
  obtain ⟨hfifo, _, hmask⟩ := h
  exact ⟨hfifo, Nat.min_le_right _ _, hmask⟩

theorem stagingBounded_foldl_drop : ∀ (rs : List EventRecord) {e : EventUnit}, e.stagingBounded →
    (rs.foldl EventUnit.drop e).stagingBounded
  | [], _, h => h
  | r :: rs, _, h => stagingBounded_foldl_drop rs (stagingBounded_drop h r)

theorem stagingBounded_stage {e : EventUnit} (h : e.stagingBounded) (r : EventRecord) : (e.stage r).stagingBounded := by
  unfold EventUnit.stage
  split
  · next hroom =>
    obtain ⟨_, hmissed, hmask⟩ := h
    exact ⟨by simp; omega, hmissed, hmask⟩
  · exact stagingBounded_drop h r

theorem stagingBounded_settle {e : EventUnit} (h : e.stagingBounded) (room : Bool) : (e.settle room).stagingBounded := by
  unfold EventUnit.settle
  split
  · obtain ⟨_, hmissed, hmask⟩ := h
    exact stagingBounded_foldl_drop e.fifo (e := { e with fifo := [] }) ⟨by simp, hmissed, hmask⟩
  · exact h

theorem stagingBounded_taken {e : EventUnit} (h : e.stagingBounded) : e.taken.stagingBounded := by
  unfold EventUnit.taken
  split
  · exact h
  · exact h

theorem maskBits_zero (w : Word) : (maskBits w).getLsbD 0 = false := by simp [maskBits]

theorem blockMask_zero (block : List Byte) : (blockMask block).getLsbD 0 = false := by simp [blockMask]

theorem stagingBounded_of_update {e e' : EventUnit} (h : EventUnit.Update e e') (he : e.stagingBounded) :
    e'.stagingBounded := by
  have ⟨hfifo, hmissed, hmask⟩ := he
  cases h with
  | offered r room => exact stagingBounded_settle (stagingBounded_stage he r) room
  | classPending k => exact he
  | taken => exact stagingBounded_taken he
  | released => exact he
  | masked w => exact ⟨hfifo, hmissed, maskBits_zero w⟩
  | writeBegun r rest lap hhead => exact ⟨by rw [hhead] at hfifo; exact hfifo, Nat.zero_le _, hmask⟩
  | written r rest room hhead _ =>
    rw [hhead, List.length_cons] at hfifo
    exact stagingBounded_settle (e := { e with fifo := rest, writing := false }.setPending r.kind.eventClass)
      ⟨Nat.le_of_succ_le hfifo, hmissed, hmask⟩ room
  | started block => exact ⟨Nat.zero_le _, Nat.zero_le _, blockMask_zero block⟩
  | reset => exact ⟨Nat.zero_le _, Nat.zero_le _, rfl⟩

/-! ### The statements -/

/-- Settles O58 (R4, R151, 9.1): the Event Unit moves by updates that keep its bounds, and every command keeps the rings'. -/
theorem eventUnitAndRingsBounded : Obligations.EventUnitAndRingsBounded := by
  intro s t hstep
  refine ⟨(step_eventsMove hstep).keeps fun _ _ => stagingBounded_of_update, ?_⟩
  obtain hkept | ⟨u, hkept, rfl, -⟩ := step_boundsKept hstep
  · exact hkept.rings
  · exact hkept.rings

/-- Settles O59 (R126, R137, R138): every command keeps every line's bounds. -/
theorem postingAndCacheBounded : Obligations.PostingAndCacheBounded := by
  intro s t hstep
  obtain hkept | ⟨u, hkept, rfl, -⟩ := step_boundsKept hstep
  · exact ⟨hkept.posting, hkept.cache⟩
  · exact ⟨hkept.posting, hkept.cache⟩

/-- Settles O60 (R58, R174): the table and host memory by the bounds every command keeps; the held reset because no command
but the release acts on a part at its reset values. -/
theorem tableMemoryAndResetKept : Obligations.TableMemoryAndResetKept := by
  intro s t hstep
  obtain hkept | ⟨u, hkept, rfl, hreset⟩ := step_boundsKept hstep
  · exact ⟨hkept.stations, hkept.memory, fun h hheld => step_atReset hstep (hkept.held hheld) (h (hkept.held hheld))⟩
  · exact ⟨hkept.stations, hkept.memory, fun _ _ => hreset⟩

/-- Settles O56 (R174): at reset the FIFO, the queues, the caches, the rings, the table and host memory are empty,
and nothing is pending. -/
theorem invariantsHoldAtReset : Obligations.InvariantsHoldAtReset := by
  refine ⟨?_, ?_, ?_, fun n => ?_, fun n => ?_, ?_, rfl, ?_⟩
  · exact (irqFollows_iff _).2 (interruptFor_none_pending 0 0).symm
  · exact ⟨Nat.zero_le _, Nat.zero_le _, rfl⟩
  · exact ⟨fun k => by simp [PartRing.reset], le_rfl, fun h => nomatch h⟩
  · rw [line_reset]
    exact ⟨Nat.zero_le _, fun h => nomatch h⟩
  · rw [line_reset]
    exact Nat.zero_le _
  · exact ⟨Nat.zero_le _, List.nodup_nil⟩
  · exact fun h => nomatch h

end Sys2Proof.Machine

/-! The queue, the register window and the Event Unit (9.2, 9.4, 10.1, 10.2, 10.8, 1.3). -/

namespace Sys2Proof.Machine

/-- Settles O1: `step` reads the front of the queue. -/
theorem stepRunsFrontCommand : Obligations.StepRunsFrontCommand := by
  intro c rest s hpending
  rw [step, hpending]

/-! ### The resets (10.8) -/

theorem exec_deviceReset (s : State) (hopen : s.resetHeld = false) : exec .deviceReset s = .next s.deviceReset := by
  change Host.Outcome.next (if s.resetHeld then s else s.deviceReset) = _
  rw [hopen]; rfl

theorem exec_resetInput (s : State) (hopen : s.resetHeld = false) :
    exec .resetInput s = .next { s.deviceReset with resetHeld := true } := by
  change Host.Outcome.next (if s.resetHeld then s else { s.deviceReset with resetHeld := true }) = _
  rw [hopen]; rfl

/-- R174: what a device reset cuts is the access in flight; without one it cuts nothing. -/
theorem cutAccess_of_noneInFlight {s : State} (h : s.port.inFlight = none) : s.cutAccess = s := by
  rw [State.cutAccess, h]

theorem pending_deviceReset (s : State) : s.deviceReset.pending = s.pending := by
  change s.cutAccess.pending = _
  unfold State.cutAccess
  split <;> rfl

theorem now_deviceReset (s : State) : s.deviceReset.now = s.now := by
  change s.cutAccess.now = _
  unfold State.cutAccess
  split <;> rfl

theorem hostMem_deviceReset (s : State) : s.deviceReset.hostMem = s.cutAccess.hostMem := rfl

/-- Settles O2 (R174): the device reset's blocks are those of `State.reset`, whatever the access it cuts. -/
theorem deviceResetSetsEveryBlock : Obligations.DeviceResetSetsEveryBlock := by
  have hreset : State.reset.AtReset := atReset_of_blocks rfl rfl rfl rfl rfl rfl rfl rfl rfl rfl
  refine ⟨⟨hreset, rfl, rfl, rfl⟩, fun s => ⟨fun hopen => ⟨?_, ?_⟩, fun hheld => ?_, rfl⟩⟩
  · refine ⟨_, exec_deviceReset s hopen, atReset_deviceReset s, (resetHeld_deviceReset s).trans hopen, pending_deviceReset s,
      now_deviceReset s, fun hnone => ?_⟩
    rw [hostMem_deviceReset, cutAccess_of_noneInFlight hnone]
  · refine ⟨_, exec_resetInput s hopen, atReset_deviceReset s, rfl, pending_deviceReset s, now_deviceReset s, fun hnone => ?_⟩
    exact (hostMem_deviceReset s).trans (by rw [cutAccess_of_noneInFlight hnone])
  · change Host.Outcome.next (if s.resetHeld then s else _) = _
    rw [if_pos hheld]

/-! ### Writes of the window (R162, R164) -/

/-- R164: with the window open a command is taken or refused. -/
theorem onCommand_of_open {s : State} (hopen : s.resetHeld = false) (taken : Bool) (f : State → State) :
    s.onCommand taken f = if taken then f s else s.refuseCommand := by
  rw [State.onCommand, hopen, if_neg Bool.false_ne_true]

/-- R162: while the reset input is asserted the window ignores a command. -/
theorem onCommand_of_held {s : State} (hheld : s.resetHeld = true) (taken : Bool) (f : State → State) :
    s.onCommand taken f = s := by
  rw [State.onCommand, if_pos hheld]

theorem afterPost_of_closed {s : State} (w : Word) (h : s.resetHeld = true ∨ s.active = false) : s.afterPost w = s := by
  rw [State.afterPost, if_neg]
  rintro ⟨hopen, hactive⟩
  rcases h with h | h <;> simp [h] at hopen hactive

theorem afterBaseWrite_of_closed {s : State} (high : Bool) (w : Word)
    (h : s.resetHeld = true ∨ s.control.device ≠ .idle) : s.afterBaseWrite high w = s := by
  rw [State.afterBaseWrite, if_neg]
  rintro ⟨hopen, hidle⟩
  rcases h with h | h
  · simp [h] at hopen
  · exact h hidle

/-- Settles O3 (R162, R164): each write's guard fails. -/
theorem writesWithoutEffect : Obligations.WritesWithoutEffect := by
  refine ⟨fun s w high => ⟨fun _ _ => rfl, fun hactive => ?_, fun hdevice => ?_, fun hheld => ?_⟩, fun s w hopen => ?_⟩
  · exact congrArg Host.Outcome.next (afterPost_of_closed w (.inr hactive))
  · exact congrArg Host.Outcome.next (afterBaseWrite_of_closed high w (.inr hdevice))
  · refine ⟨congrArg Host.Outcome.next (afterPost_of_closed w (.inl hheld)),
      congrArg Host.Outcome.next (afterBaseWrite_of_closed high w (.inl hheld)),
      congrArg Host.Outcome.next (onCommand_of_held hheld _ _), congrArg Host.Outcome.next (onCommand_of_held hheld _ _),
      congrArg Host.Outcome.next (onCommand_of_held hheld _ _), congrArg Host.Outcome.next (if_pos hheld),
      congrArg Host.Outcome.next ?_, congrArg Host.Outcome.next (if_pos hheld), congrArg Host.Outcome.next (if_pos hheld),
      congrArg Host.Outcome.next (if_pos hheld)⟩
    rw [onCommand_of_held hheld, ite_self]
  · refine ⟨fun hdevice => congrArg Host.Outcome.next ?_, fun hdevice => congrArg Host.Outcome.next ?_,
      fun hcode => congrArg Host.Outcome.next ?_⟩
    · rw [onCommand_of_open hopen, if_neg (by simpa using hdevice)]; rfl
    · rw [onCommand_of_open hopen, if_neg (by simpa [State.running] using hdevice)]; rfl
    · have hnot : ¬ (1 ≤ commandCode w ∧ commandCode w ≤ 4) := by unfold commandCode; omega
      rw [if_neg hnot, onCommand_of_open hopen, if_neg Bool.false_ne_true]; rfl

/-- Settles O7 (R162, R165): the guards of BASE and START hold in IDLE. -/
theorem baseWritesAndStartInIdle : Obligations.BaseWritesAndStartInIdle := by
  refine ⟨fun s w hopen hidle => ⟨?_, ?_⟩, fun s hopen hidle => congrArg Host.Outcome.next ?_⟩
  · exact congrArg Host.Outcome.next (if_pos ⟨hopen, hidle⟩)
  · exact congrArg Host.Outcome.next (if_pos ⟨hopen, hidle⟩)
  · rw [onCommand_of_open hopen, if_pos (by simpa using hidle)]; rfl

/-! ### Rejected POSTs (R9) -/

/-- Figure 9-2: the line field of a ring's event, as the statement words it. -/
theorem ringLineByte_toNat (id : Nat) :
    (ringLineByte id).toNat = (if 1 ≤ id ∧ id ≤ 8 then (id - 1) / 2 else if 10 ≤ id ∧ id ≤ 13 then id - 10
      else if 14 ≤ id ∧ id ≤ 17 then id - 14 else 255) := by
  unfold ringLineByte sqLine
  split_ifs
  · rw [BitVec.toNat_ofNat]; omega
  · rw [BitVec.toNat_ofNat]; omega
  · rw [BitVec.toNat_ofNat]; omega
  · rfl

theorem HostRing.not_accepts {r : HostRing} {i : Nat}
    (h : r.state = .absent ∨ r.count ≤ i ∨ (i + r.count - r.c) % r.count < (r.p + r.count - r.c) % r.count) :
    ¬ r.accepts i = true := by
  rw [HostRing.accepts_iff, HostRing.posted]
  rintro ⟨hpresent, hbelow, hahead⟩
  rcases h with h | h | h
  · exact hpresent h
  · omega
  · omega

theorem PartRing.not_accepts {r : PartRing} {i : Nat}
    (h : r.state = .absent ∨ r.count ≤ i ∨ r.unconsumed < (i + r.count - r.consumer) % r.count) :
    ¬ r.accepts i = true := by
  rw [PartRing.accepts_iff, PartRing.distance]
  rintro ⟨hpresent, hbelow, hcount⟩
  rcases h with h | h | h
  · exact hpresent h
  · omega
  · omega

/-- R6: an identifier above 18 names no ring. -/
theorem postTaken_of_large (s : State) {id : Nat} (i : Nat) (h : 18 < id) : s.postTaken id i = none := by
  rw [State.postTaken, dif_neg (by omega), dif_neg (by omega), dif_neg (by omega), if_neg (by omega)]

/-- Settles O6 (R9): whichever way the POST fails, `postTaken` finds nothing to take. -/
theorem rejectedPostOffersEvent : Obligations.RejectedPostOffersEvent := by
  intro s w id i hopen hactive hid hindex hrejected
  have hnone : s.postTaken id i = none := by
    rcases hrejected with hlarge | ⟨k, rfl, hfails⟩ | ⟨n, rfl, hfails⟩ | ⟨k, rfl, hfails⟩ | ⟨rfl, hfails⟩
    · exact postTaken_of_large s i hlarge
    · rw [postTaken_sq, if_neg (HostRing.not_accepts hfails)]
    · rw [postTaken_bq, if_neg (HostRing.not_accepts hfails)]
    · rw [postTaken_cq, if_neg (PartRing.not_accepts hfails)]
    · rw [postTaken_er, if_neg (PartRing.not_accepts hfails)]
  have hpost := exec_post s w hopen hactive
  rw [postRing, postIndex, hindex, hid, hnone, Option.getD_none] at hpost
  have hbyte : id < 65536 := by have := (w.extractLsb' 0 8).isLt; omega
  exact ⟨_, hpost, rfl, rfl, rfl, by simpa [postRejected, eventOf] using hbyte, ringLineByte_toNat id⟩

/-! ### SET_MASK (R159) -/

/-- R159: bit `k` of the masks a word gives. -/
theorem getLsbD_maskBits (w : Word) (k : Nat) (hk : k < 4) :
    (maskBits w).getLsbD k = (decide (1 ≤ k) && w.getLsbD (4 + k)) := by
  unfold maskBits
  interval_cases k <;> simp

/-- Settles O11 (R159). -/
theorem setMaskSetsThreeFlags : Obligations.SetMaskSetsThreeFlags := by
  intro s w hopen
  refine ⟨{ s with events := s.events.masked (maskBits w) }, congrArg Host.Outcome.next ?_, rfl, ?_, fun k hlow hhigh => ?_,
    (irqFollows_iff _).2 (irqCorrect_reevaluate _)⟩
  · rw [State.afterSetMask, hopen, if_neg Bool.false_ne_true]
  · exact getLsbD_maskBits w 0 (by decide)
  · exact (getLsbD_maskBits w k hhigh).trans (by simp [hlow])

/-! ### A record offered (R150, R151, R153) -/

theorem offer_of_inactive {s : State} (h : s.active = false) (r : EventRecord) : s.offer r = s := by
  rw [State.offer, h, if_neg Bool.false_ne_true]

theorem offer_of_active {s : State} (h : s.active = true) (r : EventRecord) :
    s.offer r = { s with events := (s.events.stage r).settle s.er.room } := by
  rw [State.offer, if_pos h]

/-- R153: with room in ER, or a write in flight, the staging FIFO stands. -/
theorem settle_of_open {e : EventUnit} {room : Bool} (h : room = true ∨ e.writing = true) : e.settle room = e := by
  rw [EventUnit.settle, if_neg]
  rcases h with h | h <;> simp [h]

theorem stage_of_room {e : EventUnit} (r : EventRecord) (h : e.fifo.length < 8) :
    e.stage r = { e with fifo := e.fifo ++ [r] } := if_pos h

theorem stage_of_full {e : EventUnit} (r : EventRecord) (h : 8 ≤ e.fifo.length) : e.stage r = e.drop r :=
  if_neg (by omega)

/-- R153: dropping records counts them and makes their classes pending; the FIFO, the write and the other flags stand. -/
theorem foldl_drop_eq : ∀ (rs : List EventRecord) (e : EventUnit), rs.foldl EventUnit.drop e = { e with
      missed := (rs.foldl EventUnit.drop e).missed
      pending := rs.foldl (fun p x => p ||| (1#4 <<< x.kind.eventClass)) e.pending
      irq := (rs.foldl EventUnit.drop e).irq }
  | [], _ => rfl
  | r :: rs, e => (foldl_drop_eq rs (e.drop r)).trans rfl

/-- R151: the missed count saturates at 255. -/
theorem missed_foldl_drop : ∀ (rs : List EventRecord) {e : EventUnit}, e.missed ≤ 255 ∨ rs ≠ [] →
    (rs.foldl EventUnit.drop e).missed = min (e.missed + rs.length) 255
  | [], e, h => by
    have hbound : e.missed ≤ 255 := h.resolve_right fun hne => hne rfl
    simp [hbound]
  | r :: rs, e, _ => by
    have hrest := missed_foldl_drop rs (e := e.drop r) (.inl (min_le_right _ _))
    have hfirst : (e.drop r).missed = min (e.missed + 1) 255 := rfl
    rw [List.foldl_cons, hrest, hfirst, List.length_cons]
    omega

/-- Pending flags gathered from a run of records take another flag before or after. -/
theorem foldl_pending_or (rs : List EventRecord) (p q : BitVec 4) :
    rs.foldl (fun p x => p ||| (1#4 <<< x.kind.eventClass)) (p ||| q)
      = rs.foldl (fun p x => p ||| (1#4 <<< x.kind.eventClass)) p ||| q := by
  induction rs generalizing p with
  | nil => rfl
  | cons r rs ih => rw [List.foldl_cons, List.foldl_cons, ← ih, BitVec.or_assoc, BitVec.or_comm q, ← BitVec.or_assoc]

theorem irqCorrect_foldl_drop_of_ne_nil {rs : List EventRecord} (h : rs ≠ []) (e : EventUnit) :
    (rs.foldl EventUnit.drop e).irqCorrect := by
  cases rs with
  | nil => exact absurd rfl h
  | cons r rs => exact irqCorrect_foldl_drop rs (irqCorrect_drop e r)

/-- R153: with ER full and no write in flight the staged records go, from the head. -/
theorem settle_of_full {e : EventUnit} (hwriting : e.writing = false) :
    e.settle false = e.fifo.foldl EventUnit.drop { e with fifo := [] } :=
  if_pos (by simp [hwriting])

/-- R151, R153: with ER full and no write in flight an offered record goes with all that is staged. -/
theorem stage_settle_of_full {e : EventUnit} (r : EventRecord) (hwriting : e.writing = false) :
    (e.stage r).settle false = { e with
        fifo := [], missed := min (e.missed + e.fifo.length + 1) 255
        pending := (e.fifo ++ [r]).foldl (fun p x => p ||| (1#4 <<< x.kind.eventClass)) e.pending
        irq := ((e.stage r).settle false).irq }
      ∧ ((e.stage r).settle false).irqCorrect := by
  rw [settle_of_full (by rw [writing_stage, hwriting])]
  by_cases hroom : e.fifo.length < 8
  · rw [stage_of_room r hroom]
    have hcount := missed_foldl_drop (e.fifo ++ [r]) (e := { e with fifo := [] }) (.inr (by simp))
    refine ⟨(foldl_drop_eq _ _).trans ?_, irqCorrect_foldl_drop_of_ne_nil (by simp) _⟩
    simp only [hcount, List.length_append, List.length_singleton, Nat.add_assoc]
  · have hne : e.fifo ≠ [] := by rintro hnil; simp [hnil] at hroom
    rw [stage_of_full r (Nat.le_of_not_lt hroom)]
    have hcount := missed_foldl_drop e.fifo (e := { e.drop r with fifo := [] }) (.inr hne)
    have hfirst : (e.drop r).missed = min (e.missed + 1) 255 := rfl
    have hsum : min (min (e.missed + 1) 255 + e.fifo.length) 255 = min (e.missed + e.fifo.length + 1) 255 := by omega
    refine ⟨(foldl_drop_eq _ _).trans ?_, irqCorrect_foldl_drop_of_ne_nil hne _⟩
    have hpending : (e.fifo ++ [r]).foldl (fun p x => p ||| (1#4 <<< x.kind.eventClass)) e.pending
        = e.fifo.foldl (fun p x => p ||| (1#4 <<< x.kind.eventClass)) (e.drop r).pending :=
      List.foldl_append.trans (foldl_pending_or e.fifo e.pending _).symm
    rw [hfirst, hsum] at hcount
    rw [hpending]
    exact congrArg (fun m => EventUnit.mk [] e.writing m _ e.inService e.mask _) hcount

/-- Settles O12 (R151, R153): the offer in its four situations. -/
theorem offeredRecordStagedOrDropped : Obligations.OfferedRecordStagedOrDropped := by
  refine fun s r => ⟨fun hinactive => offer_of_inactive hinactive r, fun hactive hopen hroom => ?staged,
    fun hactive hopen hfull => ?dropped, fun hactive hringFull hwriting => ?allDropped⟩
  case staged =>
    have hsettle : (s.events.stage r).settle s.er.room = s.events.stage r :=
      settle_of_open (hopen.imp (PartRing.room_iff _).2 (writing_stage s.events r).trans)
    rw [offer_of_active hactive, hsettle, stage_of_room r hroom]
  case dropped =>
    have hoffer : s.offer r = { s with events := s.events.drop r } := by
      have hsettle : (s.events.stage r).settle s.er.room = s.events.stage r :=
        settle_of_open (hopen.imp (PartRing.room_iff _).2 (writing_stage s.events r).trans)
      rw [offer_of_active hactive, hsettle, stage_of_full r hfull]
    rw [hoffer]
    exact ⟨rfl, (irqFollows_iff _).2 (irqCorrect_drop s.events r)⟩
  case allDropped =>
    have hnoRoom : s.er.room = false := by simpa [PartRing.room] using hringFull
    have hoffer := offer_of_active hactive r
    obtain ⟨hevents, hirq⟩ := stage_settle_of_full (e := s.events) r hwriting
    rw [hnoRoom] at hoffer
    rw [hoffer]
    exact ⟨congrArg (fun e => { s with events := e }) hevents, (irqFollows_iff _).2 hirq⟩

/-! ### The writes into ER (R152) -/

/-- R152: an event record's bytes are sixteen. -/
theorem length_eventBytes (r : EventRecord) : r.bytes.length = 16 := rfl

/-- R4: what a completed record write does to a part-fed ring, as the statements spell it. -/
theorem advance_eq (r : PartRing) : r.advance = { r with
    unconsumed := r.unconsumed + 1
    producer := if r.producer + 1 = r.count then 0 else r.producer + 1
    lap := if r.producer + 1 = r.count then !r.lap else r.lap } := rfl

theorem exec_eventWriteDone {s : State} {a : Access} (h : s.Awaits .eventWrite a) :
    exec .eventWriteDone s = .next (s.finishAccess a).eventWritten := by
  obtain ⟨hflight, hkind, hheeds⟩ := h
  change Host.Outcome.next s.afterEventWriteDone = _
  simp [State.afterEventWriteDone, hflight, hkind, hheeds]

/-- R152: the Event Unit once the head record's write has completed, before ER's room is judged. -/
def EventUnit.headWritten (e : EventUnit) (r : EventRecord) (rest : List EventRecord) : EventUnit :=
  { e with fifo := rest, writing := false }.setPending r.kind.eventClass

theorem eventWritten_eq {s : State} {r : EventRecord} {rest : List EventRecord} (hwriting : s.events.writing = true)
    (hfifo : s.events.fifo = r :: rest) :
    s.eventWritten = { s with er := s.er.advance, events := (s.events.headWritten r rest).settle s.er.advance.room } := by
  simp [State.eventWritten, hwriting, hfifo, EventUnit.headWritten]

/-- Settles O13 (R152, R153). -/
theorem eventRecordIsWritten : Obligations.EventRecordIsWritten := by
  refine ⟨fun s r rest hactive hfifo hwriting hroom => congrArg Host.Outcome.next ?begins,
    fun s a r rest hawaits hwriting hfifo => ?completes⟩
  case begins =>
    have hguard : s.active = true ∧ s.events.writing = false ∧ s.er.room = true :=
      ⟨hactive, hwriting, (PartRing.room_iff _).2 hroom⟩
    simp only [State.afterEventWriteStart, hfifo]
    rw [if_pos hguard]
    rfl
  case completes =>
    have hdone := eventWritten_eq (s := s.finishAccess a) hwriting hfifo
    refine ⟨_, exec_eventWriteDone hawaits, ?_⟩
    rw [hdone]
    by_cases hroom : s.er.unconsumed + 1 < s.er.count
    · have hopen : (s.finishAccess a).er.advance.room = true := (PartRing.room_iff _).2 hroom
      rw [settle_of_open (.inl hopen)]
      exact ⟨rfl, rfl, rfl, rfl, (irqFollows_iff _).2 (irqCorrect_reevaluate _), fun _ => ⟨rfl, rfl, rfl⟩,
        fun hfull => absurd hroom (Nat.not_lt.2 hfull)⟩
    · have hfull : (s.finishAccess a).er.advance.room = false := 
        Bool.eq_false_iff.2 fun h => hroom ((PartRing.room_iff _).1 h)
      have hcorrect : (s.events.headWritten r rest).irqCorrect := irqCorrect_reevaluate _
      have hsettled := settle_of_full (e := s.events.headWritten r rest) rfl
      have hkept := hsettled.trans (foldl_drop_eq (s.events.headWritten r rest).fifo _)
      rw [hfull]
      refine ⟨rfl, ?_, ?_, ?_, (irqFollows_iff _).2 (irqCorrect_settle hcorrect false), fun h => absurd h hroom, fun _ => ?_⟩
      · exact (writing_settle _ _).trans rfl
      · exact (congrArg EventUnit.inService hkept).trans rfl
      · exact (congrArg EventUnit.mask hkept).trans rfl
      · refine ⟨(congrArg EventUnit.fifo hkept).trans rfl, fun hmissed => ?_,
          (congrArg EventUnit.pending hkept).trans rfl⟩
        exact (congrArg EventUnit.missed hsettled).trans (missed_foldl_drop _ (.inl hmissed))

end Sys2Proof.Machine

/-! The Host Port, FAULTED and what reaches host memory (10.6, 10.7, 8.3). -/

namespace Sys2Proof.Machine

/-! ### The rotation (R171) -/

theorem AccessKind.position_lt (k : AccessKind) : k.position < 23 := by
  cases k <;> simp only [AccessKind.position] <;> omega

/-- The first index at which a search over `0 … n - 1` finds something. -/
theorem findSome?_range_eq {α : Type} {f : Nat → Option α} {n i : Nat} {b : α} (hi : i < n) (hfound : f i = some b)
    (hbefore : ∀ j < i, f j = none) : (List.range n).findSome? f = some b := by
  have hsplit : List.range n = List.range i ++ i :: (List.range (n - i - 1)).map fun j => i + (j + 1) := by
    rw [← Nat.add_sub_cancel' hi.le, List.range_add, ← Nat.succ_pred_eq_of_pos (Nat.sub_pos_of_lt hi),
      List.range_succ_eq_map]
    simp [Function.comp_def]
  have hnone : (List.range i).findSome? f = none := by
    rw [List.findSome?_eq_none_iff]
    exact fun j hj => hbefore j (List.mem_range.1 hj)
  rw [hsplit, List.findSome?_append, hnone, Option.none_or, List.findSome?_cons, hfound]

/-- Searching for the position of the only access at it. -/
theorem find?_position {as : List Access} {a : Access} (ha : a ∈ as)
    (hunique : ∀ b ∈ as, b.kind.position = a.kind.position → b = a) :
    as.find? (fun b => b.kind.position == a.kind.position) = some a := by
  cases hfind : as.find? (fun b => b.kind.position == a.kind.position) with
  | none => exact absurd (List.find?_eq_none.1 hfind a ha) (by simp)
  | some b =>
    have hposition : b.kind.position = a.kind.position := by simpa using List.find?_some hfind
    rw [hunique b (List.mem_of_find?_eq_some hfind) hposition]

/-- R171: the port chooses the waiting access first reached by counting on from the cursor. -/
theorem choose_eq {p : HostPort} {a : Access} (ha : a ∈ p.waiting)
    (hunique : ∀ b ∈ p.waiting, b.kind.position = a.kind.position → b = a)
    (hfirst : ∀ b ∈ p.waiting, (a.kind.position + 22 - p.cursor.val) % 23 ≤ (b.kind.position + 22 - p.cursor.val) % 23) :
    p.choose = some a := by
  have hcursor := p.cursor.isLt
  have ha23 := a.kind.position_lt
  refine findSome?_range_eq (i := (a.kind.position + 22 - p.cursor.val) % 23) (Nat.mod_lt _ (by decide)) ?found ?before
  case found =>
    have hplace : (p.cursor.val + 1 + (a.kind.position + 22 - p.cursor.val) % 23) % 23 = a.kind.position := by omega
    rw [hplace]
    exact find?_position ha hunique
  case before =>
    intro j hj
    rw [List.find?_eq_none]
    intro b hb hplace
    have hb23 := b.kind.position_lt
    have hfar := hfirst b hb
    rw [beq_iff_eq] at hplace
    omega

theorem choose_of_noneWaiting {p : HostPort} (h : p.waiting = []) : p.choose = none := by
  simp [HostPort.choose, h, List.findSome?_eq_none_iff]

theorem startNext_of_choose {p : HostPort} {a : Access} (hfree : p.inFlight = none) (hchoose : p.choose = some a) :
    p.startNext = ⟨some a, p.waiting.erase a, Fin.ofNat 23 a.kind.position⟩ := by
  rw [HostPort.startNext, hfree, hchoose]

/-- Settles O14 (R171). -/
theorem hostPortServesInRotation : Obligations.HostPortServesInRotation := by
  refine fun s => ⟨fun a hdevice hfree ha hunique hfirst => ?_, fun hidle => congrArg Host.Outcome.next ?_⟩
  · have hnext := startNext_of_choose hfree (choose_eq ha hunique hfirst)
    have hstart : s.afterAccessStart
        = { s with port := ⟨some a, s.port.waiting.erase a, Fin.ofNat 23 a.kind.position⟩ } := by
      rw [State.afterAccessStart, if_neg hdevice, hnext]
    exact ⟨_, congrArg Host.Outcome.next hstart, rfl, Nat.mod_eq_of_lt a.kind.position_lt⟩
  · unfold State.afterAccessStart
    split
    · rfl
    · next hdevice =>
      have hsame : s.port.startNext = s.port := by
        rcases hidle with h | h | h
        · exact absurd h hdevice
        · obtain ⟨b, hb⟩ := Option.isSome_iff_exists.1 h
          rw [HostPort.startNext, hb]
        · rw [HostPort.startNext, choose_of_noneWaiting h]
          split <;> simp_all
      rw [hsame]

/-! ### The entry into FAULTED (R172) -/

/-- A read leaves host memory alone wherever it is cut. -/
theorem afterCut_of_read {a : Access} (h : a.data = []) (m : Memory) (words : Nat) : m.afterCut a words = m := by
  rw [Memory.afterCut, Memory.afterWords, h, Memory.writeFrom]

/-- R122: withdrawing the payload reads, as the statement words it. -/
theorem withdraw_payloadReads (p : HostPort) : p.withdraw AccessKind.isPayloadRead
    = { p with waiting := p.waiting.filter fun b => decide (∀ n, b.kind ≠ .payloadRead n) } := by
  have hkinds : ∀ k : AccessKind, (!k.isPayloadRead) = decide (∀ n, k ≠ .payloadRead n) := by
    intro k
    cases k <;> simp [AccessKind.isPayloadRead]
  rw [HostPort.withdraw]
  exact congrArg (fun w => { p with waiting := w }) (List.filter_congr fun b _ => hkinds b.kind)

/-- R172: the access in flight has failed, and the next one may have started first. -/
def State.failedAccess (s : State) (a : Access) (words : Nat) (startFirst : Bool) : State :=
  let t : State := { s with port := { s.port with inFlight := none }, hostMem := s.hostMem.afterCut a words }
  if startFirst then { t with port := t.port.startNext } else t

theorem afterBusError_of_live {s : State} {a : Access} {words : Nat} {startFirst : Bool} (hflight : s.port.inFlight = some a)
    (hdevice : s.control.device = .starting ∨ s.control.device = .running ∨ s.control.device = .stopping) :
    s.afterBusError words startFirst = (s.failedAccess a words startFirst).enterFaulted a.kind := by
  rw [State.afterBusError, hflight]
  rcases hdevice with h | h | h <;> simp only [h] <;> rfl

theorem afterBusError_of_idle {s : State} {a : Access} {words : Nat} {startFirst : Bool} (hflight : s.port.inFlight = some a)
    (hdevice : s.control.device = .idle) : s.afterBusError words startFirst
      = { s with port := { s.port with inFlight := none }, hostMem := s.hostMem.afterCut a words } := by
  simp only [State.afterBusError, hflight, hdevice]

theorem afterBusError_of_faulted {s : State} {a : Access} {words : Nat} {startFirst : Bool}
    (hflight : s.port.inFlight = some a) (hdevice : s.control.device = .faulted) : s.afterBusError words startFirst
      = { s with
          control := { s.control with furtherFault := true }, port := { s.port with inFlight := none }
          hostMem := s.hostMem.afterCut a words } := by
  simp only [State.afterBusError, hflight, hdevice]

/-- The failed access changes the Host Port and host memory alone. -/
theorem failedAccess_eq (s : State) (a : Access) (words : Nat) (startFirst : Bool) : s.failedAccess a words startFirst
    = { s with port := (s.failedAccess a words startFirst).port, hostMem := s.hostMem.afterCut a words } := by
  cases startFirst <;> rfl

theorem line_enterFaulted (s : State) (kind : AccessKind) (n : LineNo) :
    (s.enterFaulted kind).line n = (s.line n).freeze := by
  unfold State.enterFaulted State.line
  split <;> simp [State.ringsAbsent]

theorem Line.freeze_of_noTurn {l : Line} (h : l.turn? = none) : l.freeze.state = l.state := by
  unfold Line.freeze
  cases hstate : l.state with
  | turn t => simp [Line.turn?, hstate] at h
  | disabled => rfl
  | idle => rfl
  | jammed => rfl

theorem Line.freeze_of_turn {l : Line} {t : Turn} (h : l.state = .turn t) : l.freeze.state = .turn t.freeze := by
  simp [Line.freeze, h]

/-- R172: the entry into FAULTED keeps the rings of a device that had read its control block, and loses them otherwise. -/
theorem enterFaulted_of_running {s : State} {kind : AccessKind} (h : kind ≠ .controlBlockRead) :
    s.enterFaulted kind = { s with
      control := { s.control with device := .faulted, faultCode := kind.faultCode, faultLine := kind.faultLine }
      port := s.port.withdraw AccessKind.isPayloadRead
      lines := s.lines.map Line.freeze
      events := s.events.setPending 0 } := by
  rw [State.enterFaulted, if_neg h]

theorem enterFaulted_of_controlBlock (s : State) :
    s.enterFaulted .controlBlockRead = { s.ringsAbsent with
      control := { s.control with device := .faulted, faultCode := .controlBlockRead, faultLine := none }
      port := s.port.withdraw AccessKind.isPayloadRead
      lines := s.lines.map Line.freeze
      events := s.events.setPending 0 } := rfl

theorem ringsAbsent_rings (s : State) : (∀ k, s.ringsAbsent.sqRing k = .reset) ∧ (∀ k, s.ringsAbsent.cqRing k = .reset)
    ∧ ∀ n, s.ringsAbsent.bqRing n = .reset := by
  refine ⟨fun k => ?_, fun k => ?_, fun n => ?_⟩
  · simp [State.sqRing, State.ringsAbsent]
  · simp [State.cqRing, State.ringsAbsent]
  · simp [State.bqRing, State.ringsAbsent]

/-- R172: what the entry into FAULTED does to the parts that do not depend on the access that failed. -/
theorem enterFaulted_parts (s : State) (kind : AccessKind) :
    (s.enterFaulted kind).control
        = { s.control with device := .faulted, faultCode := kind.faultCode, faultLine := kind.faultLine }
      ∧ (s.enterFaulted kind).port = s.port.withdraw AccessKind.isPayloadRead
      ∧ (s.enterFaulted kind).events = s.events.setPending 0 ∧ (s.enterFaulted kind).hostMem = s.hostMem
      ∧ (s.enterFaulted kind).stations = s.stations ∧ (s.enterFaulted kind).admin = s.admin
      ∧ (s.enterFaulted kind).pending = s.pending ∧ (s.enterFaulted kind).now = s.now := by
  unfold State.enterFaulted
  split <;> exact ⟨rfl, rfl, rfl, rfl, rfl, rfl, rfl, rfl⟩

/-- R172: a line at the entry into FAULTED, as the statement words it. -/
theorem freeze_eq (l : Line) : l.freeze = { l with
    de := false, sched := { l.sched with pollTimer := none }, state := l.freeze.state } := rfl

/-- Settles O15 (R172): the failed access leaves the port and host memory, and `enterFaulted` does the rest. -/
theorem failedAccessEntersFaulted : Obligations.FailedAccessEntersFaulted := by
  refine fun s a words startFirst hflight => ⟨fun hdevice => ?live, fun hidle => ?idle⟩
  case idle =>
    exact ⟨_, congrArg Host.Outcome.next (afterBusError_of_idle hflight hidle), rfl, fun hread => afterCut_of_read hread _ _⟩
  case live =>
    have hfailed := failedAccess_eq s a words startFirst
    have hmem : (s.failedAccess a words startFirst).hostMem = s.hostMem.afterCut a words := congrArg State.hostMem hfailed
    obtain ⟨hcontrol, hport, hevents, hhostMem, hstations, hadmin, hpending, hnow⟩ :=
      enterFaulted_parts (s.failedAccess a words startFirst) a.kind
    refine ⟨_, congrArg Host.Outcome.next (afterBusError_of_live hflight hdevice), ?_, fun hfirst => ?_, ?_, fun hread => ?_,
      ?_, ?_, ?_, ?_, fun hkind => ?_, fun hkind => ?_, ?_, ?_, fun n => ⟨?_, fun hturn => ?_, fun x hx => ?_⟩⟩
    · rw [hcontrol, congrArg State.control hfailed]
    · rw [hport, withdraw_payloadReads, hfirst]; rfl
    · rintro p hfirst rfl
      rw [hport, withdraw_payloadReads, hfirst]; rfl
    · rw [hhostMem, hmem, afterCut_of_read hread]
    · rw [hstations, congrArg State.stations hfailed]
    · rw [hadmin, congrArg State.admin hfailed]
    · rw [hpending, congrArg State.pending hfailed]
    · rw [hnow, congrArg State.now hfailed]
    · rw [enterFaulted_of_running hkind]
      rw [hfailed]; exact ⟨rfl, rfl, rfl, rfl⟩
    · obtain ⟨hsq, hcq, hbq⟩ := ringsAbsent_rings (s.failedAccess a words startFirst)
      rw [hkind, enterFaulted_of_controlBlock]
      exact ⟨hsq, hcq, hbq, rfl⟩
    · rw [hevents, congrArg State.events hfailed]; rfl
    · rw [irqFollows_iff, hevents]; exact irqCorrect_reevaluate _
    · rw [line_enterFaulted, hfailed]; exact freeze_eq _
    · rw [line_enterFaulted, hfailed]; exact Line.freeze_of_noTurn hturn
    · rw [line_enterFaulted, hfailed]; exact Line.freeze_of_turn hx

/-! ### Accesses that complete or fail in FAULTED (R173) -/

/-- Settles O16: the tables are the definitions' own branches. -/
theorem fixedTables : Obligations.FixedTables := by
  refine ⟨⟨⟨rfl, rfl, rfl, rfl, rfl⟩, by decide, ⟨rfl, rfl, rfl, rfl, rfl⟩, fun n => ?_⟩, fun n => ⟨rfl, rfl, rfl⟩, fun r => ?_⟩
  · exact ⟨rfl, rfl, rfl, rfl, rfl, rfl, by simp [AccessKind.faultLine], rfl, rfl, rfl, rfl, rfl, rfl⟩
  · exact ⟨fun hactive => if_pos hactive, fun hother => if_neg hother⟩

theorem heeds_iff (s : State) (a : Access) : s.heeds a = true ↔ a.abandoned = false ∧ s.active = true := by
  simp [State.heeds]

theorem onAdminRecord_of_unheeded {s : State} {a : Access} (hflight : s.port.inFlight = some a) (hkind : a.kind = .adminRead)
    (hheeds : ¬ s.heeds a = true) {ok : Bool} (hok : ok = true) (f : State → State) :
    s.onAdminRecord ok f = s.finishAccess a := by
  rw [State.onAdminRecord, hflight]
  simp only
  rw [if_pos ⟨hkind, hok⟩, if_neg hheeds]

/-- R28 step 1: the kind of an admin record is none of the nine. -/
theorem not_adminKindKnown {rec : List Byte} (h : (byteAt rec 0).toNat = 0 ∨ 9 < (byteAt rec 0).toNat) :
    adminKindKnown rec = false := by
  have hrange : adminKind rec = 0 ∨ 9 < adminKind rec := h
  simp only [adminKindKnown, Bool.and_eq_false_iff, decide_eq_false_iff_not]
  omega

/-- Settles O17 (R173): each completion's requester does not heed it. -/
theorem accessInFaultedHasNoFurtherEffect : Obligations.AccessInFaultedHasNoFurtherEffect := by
  intro s a rec n hflight hunheeded
  have hheeds : ¬ s.heeds a = true := by
    rw [heeds_iff, active_iff]
    rintro ⟨hkept, hactive⟩
    rcases hunheeded with h | ⟨h, -⟩
    · rcases hactive with h' | h' <;> rw [h] at h' <;> cases h'
    · rw [h] at hkept; cases hkept
  have hnotStarting : s.control.device ≠ .starting := by
    rcases hunheeded with h | ⟨-, h | h⟩ <;> rw [h] <;> decide
  refine ⟨fun hfaulted words startFirst => ⟨congrArg Host.Outcome.next (afterBusError_of_faulted hflight hfaulted),
      fun hread => afterCut_of_read hread _ _⟩,
    fun hkind hlength => congrArg Host.Outcome.next ?_, fun hkind hlength => congrArg Host.Outcome.next ?_,
    fun hkind hlength => congrArg Host.Outcome.next ?_, fun hkind hlength => congrArg Host.Outcome.next ?_,
    fun hkind => congrArg Host.Outcome.next ?_, fun hkind => congrArg Host.Outcome.next ?_,
    fun hkind => congrArg Host.Outcome.next ?_, fun hkind => congrArg Host.Outcome.next ?_,
    fun hkind => congrArg Host.Outcome.next ?_, fun hkind => congrArg Host.Outcome.next ?_,
    fun hkind hlength => ⟨?_, fun hcode => congrArg Host.Outcome.next ?_⟩⟩
  · simp [State.afterControlBlock, hflight, hkind, hlength, hnotStarting]
  · simp [State.afterTakeLineRequest, hflight, hkind, hlength, hheeds]
  · simp [State.afterDescriptorRead, hflight, hkind, hlength, hheeds]
  · simp [State.afterPayloadRead, hflight, hkind, hlength, hheeds]
  · simp [State.afterBufferWrite, hflight, hkind, hheeds]
  · simp [State.afterAnswerWrite, hflight, hkind, hheeds]
  · simp [State.afterRecordWrite, hflight, hkind, hheeds]
  · simp [State.afterEventWriteDone, hflight, hkind, hheeds]
  · simp [State.afterSnapshotWrite, hflight, hkind, hheeds]
  · simp [State.afterAdminWrite, hflight, hkind, hheeds]
  · have unheeded : ∀ (k : Nat) (f : State → State), (byteAt rec 0).toNat = k →
        Host.Outcome.next (s.onAdminRecord (isKind k rec) f) = (.next (s.finishAccess a) : Host.Outcome State Fault Refusal) :=
      fun k f hk => congrArg _ (onAdminRecord_of_unheeded hflight hkind hheeds (by simp [isKind, adminKind, hlength, hk]) f)
    simp only [List.forall_mem_cons]
    exact ⟨unheeded 1 _, unheeded 2 _, unheeded 3 _, unheeded 4 _, unheeded 5 _, unheeded 6 _, unheeded 7 _, unheeded 8 _,
      unheeded 9 _, fun p hp => absurd hp List.not_mem_nil⟩
  · refine onAdminRecord_of_unheeded hflight hkind hheeds ?_ _
    simp [hlength, not_adminKindKnown hcode]

end Sys2Proof.Machine

/-! What reaches host memory (10.6, 8.3): completed, failed, cut and dropped accesses read back byte by byte. -/

namespace Sys2Proof.Machine

/-! ### Reading back a write -/

theorem byteAddr_ne {address : Addr} {i j : Nat} (hi : i < 2 ^ 64) (hj : j < 2 ^ 64) (h : i ≠ j) :
    byteAddr address i ≠ byteAddr address j := by
  intro heq
  have hsame : (BitVec.ofNat 64 i) = BitVec.ofNat 64 j :=
    (BitVec.add_right_inj address).1 (BitVec.eq_of_toNat_eq heq)
  have := congrArg BitVec.toNat hsame
  simp only [BitVec.toNat_ofNat, Nat.mod_eq_of_lt hi, Nat.mod_eq_of_lt hj] at this
  exact h this

/-- An address the write does not reach reads as before. -/
theorem read_writeFrom_of_ne (address : Addr) (keep : Nat → Bool) {x : Nat} :
    ∀ (bs : List Byte) (m : Memory) (i : Nat), (∀ j < bs.length, x ≠ byteAddr address (i + j)) →
      (Memory.writeFrom m address keep i bs).read x = m.read x
  | [], _, _, _ => rfl
  | b :: bs, m, i, h => by
    have hfirst : x ≠ byteAddr address i := h 0 (Nat.succ_pos _)
    have hrest := read_writeFrom_of_ne address keep bs (if keep i then Memory.write m (byteAddr address i) b else m) (i + 1)
      fun j hj => by have := h (j + 1) (Nat.succ_lt_succ hj); rwa [Nat.add_right_comm, Nat.add_assoc]
    rw [Memory.writeFrom, hrest]
    split
    · rw [read_write, if_neg hfirst]
    · rfl

/-- A byte the write reaches reads as written when it is kept, and as before otherwise. -/
theorem read_writeFrom (address : Addr) (keep : Nat → Bool) :
    ∀ (bs : List Byte) (m : Memory) (i j : Nat) (h : j < bs.length), i + bs.length ≤ 2 ^ 64 →
      (Memory.writeFrom m address keep i bs).read (byteAddr address (i + j))
        = if keep (i + j) then some bs[j] else m.read (byteAddr address (i + j))
  | b :: bs, m, i, 0, _, hlength => by
    rw [List.length_cons] at hlength
    have hlater : ∀ j < bs.length, byteAddr address i ≠ byteAddr address (i + 1 + j) :=
      fun j hj => byteAddr_ne (by omega) (by omega) (by omega)
    have hplace : i + 0 = i := rfl
    rw [Memory.writeFrom, hplace, read_writeFrom_of_ne address keep bs _ (i + 1) hlater]
    split
    · rw [read_write, if_pos rfl]; rfl
    · rfl
  | b :: bs, m, i, j + 1, h, hlength => by
    rw [List.length_cons] at h hlength
    have hplace : i + (j + 1) = i + 1 + j := by omega
    have hother : byteAddr address (i + 1 + j) ≠ byteAddr address i := byteAddr_ne (by omega) (by omega) (by omega)
    rw [Memory.writeFrom, hplace, read_writeFrom address keep bs _ (i + 1) j (by omega) (by omega), List.getElem_cons_succ]
    split
    · rfl
    · split
      · rw [read_write, if_neg hother]
      · rfl

theorem read_afterAccess (m : Memory) (a : Access) (hlength : a.data.length ≤ 2 ^ 64) (i : Nat) (h : i < a.data.length) :
    (m.afterAccess a).read (byteAddr a.address i) = some a.data[i] := by
  have := read_writeFrom a.address (fun _ => true) a.data m 0 i h (by omega)
  rwa [Nat.zero_add, if_pos rfl] at this

theorem read_afterAccess_of_ne (m : Memory) (a : Access) {x : Nat} (h : ∀ i < a.data.length, x ≠ byteAddr a.address i) :
    (m.afterAccess a).read x = m.read x :=
  read_writeFrom_of_ne a.address _ a.data m 0 (by simpa using h)

/-- R32: byte `i` of a cut access lies in host memory when its word was acknowledged. -/
theorem read_afterCut (m : Memory) (a : Access) (words : Nat) (hlength : a.data.length ≤ 2 ^ 64) (i : Nat)
    (h : i < a.data.length) : (m.afterCut a words).read (byteAddr a.address i)
      = if a.wordTurn i < min words (a.wordCount - 1) then some a.data[i] else m.read (byteAddr a.address i) := by
  have := read_writeFrom a.address (fun i => decide (a.wordTurn i < min words (a.wordCount - 1))) a.data m 0 i h (by omega)
  simp only [Nat.zero_add, decide_eq_true_eq] at this
  exact this

theorem read_afterCut_of_ne (m : Memory) (a : Access) (words : Nat) {x : Nat}
    (h : ∀ i < a.data.length, x ≠ byteAddr a.address i) : (m.afterCut a words).read x = m.read x :=
  read_writeFrom_of_ne a.address _ a.data m 0 (by simpa using h)

/-! ### The words of a record and of a data write (R141, R171) -/

/-- The three kinds of access that write a ring record. -/
theorem lapLast_of_record {k : AccessKind} (h : (∃ n, k = .recordWrite n) ∨ k = .adminWrite ∨ k = .eventWrite) :
    k.lapLast = true := by
  rcases h with ⟨n, rfl⟩ | rfl | rfl <;> rfl

theorem lapLast_of_data {k : AccessKind} (h : (∃ n, k = .bufferWrite n ∨ k = .answerWrite n) ∨ k = .snapshotWrite) :
    k.lapLast = false := by
  rcases h with ⟨n, rfl | rfl⟩ | rfl <;> rfl

/-- R32: of a cut record its lap word is never written, and its other words go upward. -/
theorem read_afterCut_record (m : Memory) {a : Access} (words : Nat)
    (hkind : (∃ n, a.kind = .recordWrite n) ∨ a.kind = .adminWrite ∨ a.kind = .eventWrite) (hlength : a.data.length = 16)
    (haligned : a.address.toNat % 4 = 0) :
    (∀ i < 4, (m.afterCut a words).read (byteAddr a.address i) = m.read (byteAddr a.address i))
      ∧ (∀ i (h : i < a.data.length), 4 ≤ i → (m.afterCut a words).read (byteAddr a.address i)
          = if i / 4 - 1 < words then some a.data[i] else m.read (byteAddr a.address i))
      ∧ ∀ x, (∀ i < 16, x ≠ byteAddr a.address i) → (m.afterCut a words).read x = m.read x := by
  have hcount : a.wordCount = 4 := by simp [Access.wordCount, hlength, haligned]
  have hturn : ∀ i, a.wordTurn i = (i / 4 + 3) % 4 := fun i => if_pos (lapLast_of_record hkind)
  refine ⟨fun i hi => ?_, fun i h hi => ?_, fun x hx => read_afterCut_of_ne m a words (by simpa [hlength] using hx)⟩
  · rw [read_afterCut m a words (by omega) i (by omega), hcount, hturn, if_neg (by omega)]
  · have hsame : a.wordTurn i < min words (a.wordCount - 1) ↔ i / 4 - 1 < words := by rw [hcount, hturn]; omega
    rw [read_afterCut m a words (by omega) i h]
    simp only [hsame]

/-- R171: of a cut data write the words go upward, the last never among them. -/
theorem read_afterCut_data (m : Memory) {a : Access} (words : Nat)
    (hkind : (∃ n, a.kind = .bufferWrite n ∨ a.kind = .answerWrite n) ∨ a.kind = .snapshotWrite)
    (hlength : a.data.length ≤ 240) :
    (∀ i (h : i < a.data.length), (m.afterCut a words).read (byteAddr a.address i)
        = if (a.address.toNat % 4 + i) / 4 < words
            ∧ (a.address.toNat % 4 + i) / 4 < (a.address.toNat % 4 + a.data.length - 1) / 4 then some a.data[i]
          else m.read (byteAddr a.address i))
      ∧ ∀ x, (∀ i < a.data.length, x ≠ byteAddr a.address i) → (m.afterCut a words).read x = m.read x := by
  have hturn : ∀ i, a.wordTurn i = (a.address.toNat % 4 + i) / 4 := fun i => if_neg (by simp [lapLast_of_data hkind])
  refine ⟨fun i h => ?_, fun x hx => read_afterCut_of_ne m a words hx⟩
  have hcount : a.wordCount = (a.address.toNat % 4 + a.data.length + 3) / 4 := if_neg (by omega)
  have hsame : a.wordTurn i < min words (a.wordCount - 1) ↔ (a.address.toNat % 4 + i) / 4 < words
      ∧ (a.address.toNat % 4 + i) / 4 < (a.address.toNat % 4 + a.data.length - 1) / 4 := by rw [hcount, hturn]; omega
  rw [read_afterCut m a words (by omega) i h]
  simp only [hsame]

/-! ### The four ways an access ends -/

theorem hostMem_afterBusError {s : State} {a : Access} (words : Nat) (startFirst : Bool) (hflight : s.port.inFlight = some a) :
    (s.afterBusError words startFirst).hostMem = s.hostMem.afterCut a words := by
  have hlive : s.control.device = .starting ∨ s.control.device = .running ∨ s.control.device = .stopping →
      (s.afterBusError words startFirst).hostMem = s.hostMem.afterCut a words := by
    intro hdevice
    obtain ⟨-, -, -, hmem, -⟩ := enterFaulted_parts (s.failedAccess a words startFirst) a.kind
    rw [afterBusError_of_live hflight hdevice, hmem]
    exact congrArg State.hostMem (failedAccess_eq s a words startFirst)
  cases hdevice : s.control.device with
  | idle => rw [afterBusError_of_idle hflight hdevice]
  | faulted => rw [afterBusError_of_faulted hflight hdevice]
  | starting => exact hlive (.inl hdevice)
  | running => exact hlive (.inr (.inl hdevice))
  | stopping => exact hlive (.inr (.inr hdevice))

theorem hostMem_cutAccess {s : State} {a : Access} (hflight : s.port.inFlight = some a) :
    s.cutAccess.hostMem = s.hostMem.afterCut a (Config.wordsBeforeReset s.freeDraws) := by
  rw [State.cutAccess, hflight]

/-- Settles O18 (R32, R171, R173, R174). -/
theorem writesReachHostMemory : Obligations.WritesReachHostMemory := by
  refine ⟨fun s a hlength => ⟨rfl, read_afterAccess s.hostMem a (by omega), fun x => read_afterAccess_of_ne s.hostMem a⟩,
    fun s a words startFirst hflight => ?fails, fun s a c hopen hflight hc => ?reset,
    fun s a hkind hlength haligned => ?dropped⟩
  case fails =>
    refine ⟨_, rfl, hostMem_afterBusError words startFirst hflight, fun hkind hlength haligned => ?_, fun hkind hlength => ?_⟩
    · rw [hostMem_afterBusError words startFirst hflight]
      exact read_afterCut_record s.hostMem words hkind hlength haligned
    · rw [hostMem_afterBusError words startFirst hflight]
      exact read_afterCut_data s.hostMem words hkind hlength
  case reset =>
    rcases hc with rfl | rfl
    · exact ⟨_, _, exec_deviceReset s hopen, hostMem_cutAccess hflight⟩
    · exact ⟨_, _, exec_resetInput s hopen, hostMem_cutAccess hflight⟩
  case dropped =>
    exact ⟨Config.wordsInFaulted s.freeDraws, rfl, read_afterCut_record s.hostMem _ hkind hlength haligned⟩

end Sys2Proof.Machine

/-! The bytes and words the part shows: records, snapshots and the register window (10.1, 13.1, Figures 13-2, 13-7, 13-8). -/

namespace Sys2Proof.Machine

theorem bitByte_zero (b : Bool) : bitByte b 0 = if b then 1 else 0 := rfl

/-- Figure 13-7: the flags byte of a completion or arrival record. -/
theorem flagsByte_eq (resent unknown truncated : Bool) :
    bitByte resent 0 ||| bitByte unknown 1 ||| bitByte truncated 2
      = BitVec.ofNat 8 ((if resent then 1 else 0) + (if unknown then 2 else 0) + (if truncated then 4 else 0)) := by
  revert resent unknown truncated
  decide

/-- Figure 13-2: the STATE report packed field by field. -/
def stateFields (device : BitVec 3) (command : BitVec 2) (ring : BitVec 5) (code : BitVec 4) (line : BitVec 8)
    (further halted : Bool) : BitVec (2 + 1 + 1 + 8 + 4 + 3 + 5 + 2 + 2 + 1 + 3) :=
  (0#2) ++ BitVec.ofBool halted ++ BitVec.ofBool further ++ line ++ code ++ (0#3) ++ ring ++ (0#2) ++ command ++ (0#1) ++ device

section
variable (device : BitVec 3) (command : BitVec 2) (ring : BitVec 5) (code : BitVec 4) (line : BitVec 8) (further halted : Bool)

/-- Bit `i` of the STATE report. -/
theorem getLsbD_stateFields (i : Nat) : (stateFields device command ring code line further halted).getLsbD i =
    if i < 3 then device.getLsbD i else if i < 4 then false else if i < 6 then command.getLsbD (i - 4)
    else if i < 8 then false else if i < 13 then ring.getLsbD (i - 8) else if i < 16 then false
    else if i < 20 then code.getLsbD (i - 16) else if i < 28 then line.getLsbD (i - 20)
    else if i < 29 then further else if i < 30 then halted else false := by
  unfold stateFields
  by_cases hi : i < 32
  · simp only [BitVec.getLsbD_append]
    interval_cases i <;> simp
  · rw [BitVec.getLsbD_of_ge _ _ (by omega)]
    simp only [show ¬ i < 3 by omega, show ¬ i < 4 by omega, show ¬ i < 6 by omega, show ¬ i < 8 by omega,
      show ¬ i < 13 by omega, show ¬ i < 16 by omega, show ¬ i < 20 by omega, show ¬ i < 28 by omega,
      show ¬ i < 29 by omega, show ¬ i < 30 by omega, if_false]

/-- A field of a word, bit by bit. -/
theorem extractLsb'_eq_of_bits {w n : Nat} {x : BitVec w} {y : BitVec n} {start : Nat}
    (h : ∀ i < n, x.getLsbD (start + i) = y.getLsbD i) : x.extractLsb' start n = y := by
  apply BitVec.eq_of_getLsbD_eq
  intro i hi
  rw [BitVec.getLsbD_extractLsb', h i hi, decide_eq_true hi, Bool.true_and]

/-- Figure 13-2: each field of the STATE report in its place, and 0 in the bits between. -/
theorem stateFields_parts :
    (stateFields device command ring code line further halted).extractLsb' 0 3 = device
      ∧ (stateFields device command ring code line further halted).extractLsb' 4 2 = command
      ∧ (stateFields device command ring code line further halted).extractLsb' 8 5 = ring
      ∧ (stateFields device command ring code line further halted).extractLsb' 16 4 = code
      ∧ (stateFields device command ring code line further halted).extractLsb' 20 8 = line
      ∧ (stateFields device command ring code line further halted).getLsbD 28 = further
      ∧ (stateFields device command ring code line further halted).getLsbD 29 = halted
      ∧ ∀ i ∈ [3, 6, 7, 13, 14, 15, 30, 31], (stateFields device command ring code line further halted).getLsbD i = false := by
  refine ⟨extractLsb'_eq_of_bits fun i hi => ?_, extractLsb'_eq_of_bits fun i hi => ?_,
    extractLsb'_eq_of_bits fun i hi => ?_, extractLsb'_eq_of_bits fun i hi => ?_, extractLsb'_eq_of_bits fun i hi => ?_,
    ?_, ?_, ?_⟩
  · rw [getLsbD_stateFields]; interval_cases i <;> rfl
  · rw [getLsbD_stateFields]; interval_cases i <;> rfl
  · rw [getLsbD_stateFields]; interval_cases i <;> rfl
  · rw [getLsbD_stateFields]; interval_cases i <;> rfl
  · rw [getLsbD_stateFields]; interval_cases i <;> rfl
  · rw [getLsbD_stateFields]; rfl
  · rw [getLsbD_stateFields]; rfl
  · simp only [List.forall_mem_cons, getLsbD_stateFields]
    exact ⟨rfl, rfl, rfl, rfl, rfl, rfl, rfl, rfl, fun _ h => absurd h List.not_mem_nil⟩

end

/-- The fault line as the STATE report shows it. -/
def faultLineByte : Option LineNo → Byte
  | some n => lineByte n
  | none => 255

theorem stateWord_eq (s : State) : s.stateWord = stateFields s.control.device.code s.control.lastCommand.code
    s.control.invalidRing s.control.faultCode.code (faultLineByte s.control.faultLine) s.control.furtherFault
    (decide ((s.sqRing 0).state = .halted)) := rfl

/-- R79: the bytes of a snapshot, its time left to the holdoff deadline and its last acknowledgement as they read. -/
theorem snapshot_eq (e : Station) (now : Nat) (left : Half) (h : left = BitVec.ofNat 16 (holdoffLeft e now)) :
    e.snapshot now = [BitVec.ofNat 8 e.line.val, e.address, e.liveness.code, if e.outOfStep then 1 else 0,
      e.txSeq.setWidth 8, e.rxExpect.setWidth 8, ackByte e.lastAck, BitVec.ofNat 8 e.missCount,
      BitVec.ofNat 8 e.pending.length, BitVec.ofNat 8 e.retryLimit, left.extractLsb' 0 8, left.extractLsb' 8 8,
      (BitVec.ofNat 16 e.replyTimeout).extractLsb' 0 8, (BitVec.ofNat 16 e.replyTimeout).extractLsb' 8 8,
      BitVec.ofNat 8 e.missLimit, BitVec.ofNat 8 e.busyLimit, (BitVec.ofNat 16 e.busyHoldoff).extractLsb' 0 8,
      (BitVec.ofNat 16 e.busyHoldoff).extractLsb' 8 8, 0, 0, e.exchanges.extractLsb' 0 8, e.exchanges.extractLsb' 8 8,
      e.exchanges.extractLsb' 16 8, e.exchanges.extractLsb' 24 8, (BitVec.ofNat 16 e.failedTurns).extractLsb' 0 8,
      (BitVec.ofNat 16 e.failedTurns).extractLsb' 8 8, (BitVec.ofNat 16 e.protocolErrors).extractLsb' 0 8,
      (BitVec.ofNat 16 e.protocolErrors).extractLsb' 8 8, 0, 0, 0, 0] := by
  subst h; rfl

/-- Settles O55: each record's bytes are its definition's list, and each field of the STATE report its place's bits. -/
theorem recordsAsLaidOut : Obligations.RecordsAsLaidOut := by
  refine ⟨fun r lap => ⟨_, rfl, ?_⟩, fun r => rfl, fun e now live ack left timeout holdoff failed errors => ⟨rfl, ?_⟩,
    fun s w hw => ?_⟩
  · rw [← flagsByte_eq]; rfl
  · rintro hlive hack hleft rfl rfl rfl rfl
    have hliveness : live = e.liveness.code := by rw [hlive]; cases e.liveness <;> rfl
    have hlastAck : ack = ackByte e.lastAck := by rw [hack]; cases e.lastAck <;> rfl
    have hholdoff : left = BitVec.ofNat 16 (holdoffLeft e now) := by
      rw [hleft, holdoffLeft]; cases e.holdoff <;> rfl
    rw [snapshot_eq e now left hholdoff, hliveness, hlastAck]
  · obtain ⟨hdevice, hcommand, hring, hcode, hline, hfurther, hhalted, hzero⟩ :=
      stateFields_parts s.control.device.code s.control.lastCommand.code s.control.invalidRing s.control.faultCode.code
        (faultLineByte s.control.faultLine) s.control.furtherFault (decide ((s.sqRing 0).state = .halted))
    have hword : w = stateFields s.control.device.code s.control.lastCommand.code s.control.invalidRing
        s.control.faultCode.code (faultLineByte s.control.faultLine) s.control.furtherFault
        (decide ((s.sqRing 0).state = .halted)) := hw.trans (stateWord_eq s)
    subst hword
    refine ⟨rfl, rfl, rfl, rfl, fun offset hoffset => ?_, hdevice.trans ?_, hcommand.trans ?_, hring, hcode.trans ?_,
      hline.trans ?_, hfurther, hhalted, hzero⟩
    · rw [State.readRegister, if_neg (by omega), if_neg (by omega), if_neg (by omega), if_neg (by omega)]
    · cases s.control.device <;> rfl
    · cases s.control.lastCommand <;> rfl
    · cases s.control.faultCode <;> rfl
    · cases s.control.faultLine <;> rfl

end Sys2Proof.Machine

/-! START, the end of the drain, and the claims of requests, admin records and descriptors (10.3, 10.4, 5.2, 10.5, 7.1). -/

namespace Sys2Proof.Machine

/-! ### A line changed twice -/

/-- Two changes of one line are one change. -/
theorem onLine_onLine (s : State) (n : LineNo) (f g : Line → Line) :
    (s.onLine n f).onLine n g = s.onLine n fun l => g (f l) := by
  unfold State.onLine State.setLine
  simp [State.line]

/-- A change that leaves the line as it was changes nothing. -/
theorem onLine_of_fixed {s : State} {n : LineNo} {f : Line → Line} (h : f (s.line n) = s.line n) : s.onLine n f = s := by
  have hlines : s.lines.set n (s.line n) = s.lines := Vector.set_getElem_self (xs := s.lines) n.isLt
  rw [State.onLine, h, State.setLine, hlines]

/-- Two changes that agree on the line as it stands. -/
theorem onLine_congr {s : State} {n : LineNo} {f g : Line → Line} (h : f (s.line n) = g (s.line n)) :
    s.onLine n f = s.onLine n g := by
  rw [State.onLine, State.onLine, h]

/-- Every line changed in turn, each by the same change of a line. -/
theorem forLines_onLine (s : State) (g : Line → Line) :
    s.forLines (fun n u => u.onLine n g) = { s with lines := s.lines.map g } := by
  have hlines : (s.forLines fun n u => u.onLine n g).lines = s.lines.map g := by
    apply Vector.ext
    intro i hi
    have hthis : ((s.forLines fun n u => u.onLine n g).line ⟨i, hi⟩) = g (s.line ⟨i, hi⟩) := by
      simp only [State.forLines, allLines, List.foldl_cons, List.foldl_nil, line_onLine]
      interval_cases i <;> rfl
    exact hthis.trans (Vector.getElem_map ..).symm
  exact (congrArg (fun ls => { s with lines := ls }) hlines.symm).symm

theorem forLines_congr {s : State} {f g : LineNo → State → State} (inv : State → Prop) (hs : inv s)
    (hg : ∀ n u, inv u → inv (g n u)) (h : ∀ n u, inv u → f n u = g n u) : s.forLines f = s.forLines g := by
  have hfold : ∀ (ns : List LineNo) (u : State), inv u → ns.foldl (fun t n => f n t) u = ns.foldl (fun t n => g n t) u := by
    intro ns
    induction ns with
    | nil => intro u _; rfl
    | cons n ns ih => intro u hu; rw [List.foldl_cons, List.foldl_cons, h n u hu, ih _ (hg n u hu)]
  exact hfold allLines s hs

/-! ### The end of START (R1, R166) -/

theorem descriptorOk_iff (block : List Byte) (k : Nat) : descriptorOk block k = true ↔ DescriptorGood block k := by
  unfold descriptorOk DescriptorGood
  split
  · next h => simp [h, and_assoc]
  · next h => simp [h, and_assoc]

theorem firstInvalid_eq_some {block : List Byte} {k : Nat} (hk : k < 19) (hbad : ¬ DescriptorGood block k)
    (hgood : ∀ j < k, DescriptorGood block j) : firstInvalid block = some k := by
  rw [firstInvalid, List.find?_range_eq_some]
  refine ⟨by simpa [← descriptorOk_iff] using hbad, List.mem_range.2 hk, fun j hj => ?_⟩
  simpa using (descriptorOk_iff block j).2 (hgood j hj)

theorem firstInvalid_eq_none {block : List Byte} (hgood : ∀ k < 19, DescriptorGood block k) : firstInvalid block = none := by
  rw [firstInvalid, List.find?_eq_none]
  intro k hk
  simpa using (descriptorOk_iff block k).2 (hgood k (List.mem_range.1 hk))

/-- R165: the control block read that START waits for ends in a refusal or in RUNNING. -/
theorem afterControlBlock_of_starting {s : State} {a : Access} {block : List Byte} (hflight : s.port.inFlight = some a)
    (hkind : a.kind = .controlBlockRead) (hlength : block.length = 512) (hdevice : s.control.device = .starting) :
    (∀ k, firstInvalid block = some k → s.afterControlBlock block = (s.finishAccess a).startRefused k)
      ∧ (firstInvalid block = none → s.afterControlBlock block = (s.finishAccess a).started block) := by
  unfold State.afterControlBlock
  simp only [hflight, hkind, hlength, hdevice, and_self, if_true]
  exact ⟨fun k hinvalid => by rw [hinvalid], fun hvalid => by rw [hvalid]⟩

/-- R98, R166: an enabled line at START has a fresh poll timer. -/
def Line.timed (l : Line) (now : Nat) : Line :=
  if l.enabled then { l with sched := { l.sched with pollTimer := some (now + l.config.pollInterval) } } else l

/-- R166: the state START leaves, before the poll timers start. -/
def State.startValues (s : State) (block : List Byte) : State :=
  { s with
    control := { s.control with device := .running }
    sq := Vector.ofFn fun k => hostRingFrom block k.val
    cq := Vector.ofFn fun k => partRingFrom block (9 + k.val)
    bq := Vector.ofFn fun k => hostRingFrom block (14 + k.val)
    er := partRingFrom block 18
    admin := .reset
    stations := s.stations.map Station.resync
    lines := s.lines.map Line.started
    events := { EventUnit.reset with mask := blockMask block } }

theorem started_eq (s : State) (block : List Byte) :
    s.started block = { s.startValues block with lines := s.lines.map fun l => l.started.timed s.now } := by
  have htimers : s.started block = (s.startValues block).forLines fun n u => u.onLine n fun l => l.timed s.now := by
    refine forLines_congr (fun u => u.running = true ∧ u.now = s.now) ⟨rfl, rfl⟩ (fun n u hu => hu) fun n u hu => ?_
    obtain ⟨hrunning, hnow⟩ := hu
    split
    · next henabled =>
      rw [State.startPollTimer, if_pos hrunning, hnow]
      exact onLine_congr (by rw [Line.timed, if_pos henabled])
    · next hdisabled => exact (onLine_of_fixed (by rw [Line.timed, if_neg hdisabled])).symm
  rw [htimers, forLines_onLine]
  exact congrArg (fun ls => { s.startValues block with lines := ls }) (Vector.map_map ..)

theorem line_started (s : State) (block : List Byte) (n : LineNo) :
    (s.started block).line n = (s.line n).started.timed s.now := by
  rw [started_eq]
  exact Vector.getElem_map ..

/-- R1: rings as the statement of START words them. -/
theorem hostRingFrom_eq (block : List Byte) (k : Nat) : hostRingFrom block k
    = if blockCount block k = 0 then ⟨0, 0, .absent, 0, 0⟩ else ⟨blockBase block k, blockCount block k, .active, 0, 0⟩ := rfl

theorem partRingFrom_eq (block : List Byte) (k : Nat) : partRingFrom block k
    = if blockCount block k = 0 then ⟨0, 0, .absent, 0, true, 0, 0⟩
      else ⟨blockBase block k, blockCount block k, .active, 0, true, 0, 0⟩ := rfl

/-- R1: a ring that must be present has entries. -/
theorem blockCount_of_required {block : List Byte} {k : Nat} (h : DescriptorGood block k) (hk : k = 18) :
    blockCount block k ≠ 0 := by
  rcases h with ⟨-, -, -, h⟩ | ⟨h, -⟩
  · exact absurd hk h
  · omega

/-- A line is enabled exactly when it is not DISABLED. -/
theorem Line.enabled_iff (l : Line) : l.enabled = true ↔ l.state ≠ .disabled := by simp [Line.enabled]

/-- R101, R124, R135, R149, R166: a line at START. -/
theorem started_timed_parts (l : Line) (now : Nat) :
    (l.started.timed now).config = l.config ∧ (l.started.timed now).txBuf = l.txBuf
      ∧ (l.started.timed now).state = (if l.state = .disabled then .disabled else .idle)
      ∧ (l.started.timed now).streak = 0 ∧ (l.started.timed now).fetch = none
      ∧ (∀ k : SlotNo, (l.started.timed now).pool.slots[k] = .free)
      ∧ (l.started.timed now).pool.doneOrder = [] ∧ (l.started.timed now).pool.broadcast = []
      ∧ (l.started.timed now).buf = ⟨[], false, false, none⟩ ∧ (l.started.timed now).post = ⟨[], false, false, false⟩
      ∧ (l.started.timed now).sched = ⟨none, none, none, .start,
          if l.state = .disabled then none else some (now + l.config.pollInterval), false, 0, false, none⟩ := by
  have hfree : ∀ k : SlotNo, Pool.reset.slots[k] = .free := fun k => by simp [Pool.reset]
  by_cases h : l.state = .disabled
  · have hdisabled : ¬ l.started.enabled = true := by simp [Line.enabled, Line.started, h]
    simp only [Line.timed, if_neg hdisabled, if_pos h]
    exact ⟨rfl, rfl, if_pos h, rfl, rfl, hfree, rfl, rfl, rfl, rfl, rfl⟩
  · have henabled : l.started.enabled = true := by simp [Line.enabled, Line.started, h]
    simp only [Line.timed, if_pos henabled, if_neg h]
    exact ⟨rfl, rfl, if_neg h, rfl, rfl, hfree, rfl, rfl, rfl, rfl, rfl⟩

/-- Settles O19 (R1, R16, R166). -/
theorem controlBlockDecidesStart : Obligations.ControlBlockDecidesStart := by
  refine ⟨fun s a block k hflight hkind hlength hdevice hk hbad hgood => ?refused,
    fun s a block hflight hkind hlength hdevice hgood => ?started⟩
  case refused =>
    obtain ⟨hrefused, -⟩ := afterControlBlock_of_starting hflight hkind hlength hdevice
    obtain ⟨hsq, hcq, hbq⟩ := ringsAbsent_rings (s.finishAccess a)
    exact ⟨_, congrArg Host.Outcome.next (hrefused k (firstInvalid_eq_some hk hbad hgood)), rfl, hsq, hcq, hbq⟩
  case started =>
    obtain ⟨-, hstarted⟩ := afterControlBlock_of_starting hflight hkind hlength hdevice
    have her : blockCount block 18 ≠ 0 := blockCount_of_required (hgood 18 (by decide)) rfl
    have heq := started_eq (s.finishAccess a) block
    refine ⟨_, congrArg Host.Outcome.next (hstarted (firstInvalid_eq_none hgood)), ?_, fun k => ?_, fun k => ?_, fun n => ?_,
      ?_, fun n => ?_⟩
    · rw [heq]; rfl
    · rw [heq]; exact (Vector.getElem_ofFn _).trans (hostRingFrom_eq _ _)
    · rw [heq]; exact (Vector.getElem_ofFn _).trans (partRingFrom_eq _ _)
    · rw [heq]; exact (Vector.getElem_ofFn _).trans (hostRingFrom_eq _ _)
    · rw [heq]; exact if_neg her
    · rw [line_started]; exact started_timed_parts (s.line n) s.now

/-! ### The end of the drain (R169) -/

theorem drained_iff (s : State) : s.drained = true ↔ s.control.device = .stopping ∧ (∀ n, (s.line n).drained = true)
    ∧ s.admin.work = .none ∧ s.events.fifo = [] ∧ s.events.writing = false := by
  have hlines : (∀ n ∈ allLines, (s.line n).drained = true) ↔ ∀ n, (s.line n).drained = true :=
    ⟨fun h n => h n (by revert n; decide), fun h n _ => h n⟩
  simp [State.drained, State.stopping, ← hlines, and_assoc]

theorem Line.drained_iff (l : Line) : l.drained = true ↔ l.turn? = none ∧ l.fetch = none ∧ l.buf.reading = none
    ∧ (∀ k : SlotNo, l.pool.slots[k] = .free) ∧ l.post.queue = [] ∧ l.post.writing = false ∧ l.buf.cache = [] := by
  simp [Line.drained, and_assoc]

/-- Settles O21 (R169). -/
theorem drainReachesIdle : Obligations.DrainReachesIdle := by
  intro s hstopping hwork hfifo hwriting hlines
  have hdrained : s.drained = true :=
    (drained_iff s).2 ⟨hstopping, fun n => (Line.drained_iff _).2 (hlines n), hwork, hfifo, hwriting⟩
  exact ⟨s.idled, congrArg Host.Outcome.next (if_pos hdrained), rfl, fun n => Vector.getElem_map ..⟩

/-! ### The claim of a line request (R85, R86) -/

/-- R82: the lowest free slot. -/
theorem freeSlot?_eq {l : Line} {k : SlotNo} (hfree : l.pool.slots[k] = .free)
    (hlowest : ∀ j : SlotNo, j < k → l.pool.slots[j] ≠ .free) : l.freeSlot? = some k := by
  rw [Line.freeSlot?, List.find?_eq_some_iff_getElem]
  refine ⟨decide_eq_true hfree, k.val, by simp, by simp, fun j hj => ?_⟩
  have hplace : j < 16 := hj.trans k.isLt
  simpa using hlowest ⟨j, hplace⟩ hj

/-- R86: the ring the claim goes to. -/
theorem chooseRing_eq {streak high low : Nat} {urgent : Bool}
    (h : (urgent = false ∧ 0 < low ∧ (streak = 4 ∨ high = 0)) ∨ (urgent = true ∧ 0 < high ∧ (streak ≠ 4 ∨ low = 0))) :
    chooseRing streak high low = some urgent := by
  unfold chooseRing
  rcases h with ⟨rfl, hlow, h⟩ | ⟨rfl, hhigh, h⟩
  · by_cases hstreak : streak = 4
    · rw [if_pos ⟨hstreak, hlow⟩]
    · have hnone : high = 0 := h.resolve_left hstreak
      rw [if_neg (fun h => hstreak h.1), if_neg (by omega), if_pos hlow]
  · rw [if_neg (by omega), if_pos hhigh]

/-- Settles O22 (R85, R86). -/
theorem fetchClaimsByStreak : Obligations.FetchClaimsByStreak := by
  intro s n k urgent ring hrunning henabled hresetting hdisabling hfetch hcq hfree hlowest hring rfl
  have hmay : s.mayFetch n = true := by
    simp [State.mayFetch, State.running, Line.enabled, hrunning, henabled, hresetting, hdisabling, hfetch, hcq]
  have hclaim : s.afterFetchClaim n = s.claimRequest n k urgent := by
    rw [State.afterFetchClaim, hmay, freeSlot?_eq hfree hlowest, chooseRing_eq hring]
  refine ⟨_, congrArg Host.Outcome.next hclaim, rfl, ?_, fun m hm => ?_⟩
  · rw [State.claimRequest, line_request, line_onLine, if_pos rfl]; rfl
  · rw [State.claimRequest, line_request, line_onLine, if_neg hm, line_setSq]

end Sys2Proof.Machine

/-! Admin requests (1.4, 2.3, 4.8 to 4.10, 6.1, 10.5): claims, completions, the value checks and the requests on entries. -/

namespace Sys2Proof.Machine

/-! ### Claims and completions (R147, R170) -/

/-- R147: a completed admin record write advances CQ0 and ends the request. -/
theorem exec_adminCompletionWriteDone {s : State} {a : Access} (h : s.Awaits .adminWrite a) :
    exec .adminCompletionWriteDone s = .next (s.finishAccess a).adminWritten := by
  obtain ⟨hflight, hkind, hheeds⟩ := h
  change Host.Outcome.next s.afterAdminWrite = _
  simp [State.afterAdminWrite, hflight, hkind, hheeds]

/-- Settles O25 (R31, R147, R170). -/
theorem adminUnitClaimsAndCompletes : Obligations.AdminUnitClaimsAndCompletes := by
  refine ⟨fun s hrunning havailable hwork hroom => ?claims, fun s tag st station length => rfl,
    fun s a hawaits hreservation => ?written⟩
  case claims =>
    have hmay : s.mayClaimAdmin = true := by
      simp [State.mayClaimAdmin, State.running, hrunning, havailable, hwork, (PartRing.room_iff _).2 hroom]
    exact congrArg Host.Outcome.next (if_pos hmay)
  case written =>
    have hreserved : (s.finishAccess a).admin.reservation = true := hreservation
    refine ⟨_, exec_adminCompletionWriteDone hawaits, ?_, ?_⟩
    · rw [State.adminWritten, if_pos hreserved]; rfl
    · rw [State.adminWritten, if_pos hreserved]; exact (irqFollows_iff _).2 (irqCorrect_reevaluate _)

/-- Settles O26 (R11, R28). -/
theorem malformedAdminHaltsSQ0 : Obligations.MalformedAdminHaltsSQ0 := by
  intro s a rec hawaits hlength hcode
  obtain ⟨hflight, hkind, hheeds⟩ := hawaits
  refine congrArg Host.Outcome.next ?_
  have hrecord : (decide (rec.length = 32) && !adminKindKnown rec) = true := by
    simp [hlength, not_adminKindKnown hcode]
  simp only [State.onAdminRecord, hflight]
  rw [if_pos ⟨hkind, hrecord⟩, if_pos hheeds]
  rfl

/-! ### The value checks (Figure 2-5) -/

theorem adminLineNo_of_byte {rec : List Byte} {n : LineNo} (h : (byteAt rec 1).toNat = n.val) : adminLineNo rec = some n := by
  have hline : adminLine rec = n.val := h
  rw [adminLineNo, dif_pos (hline ▸ n.isLt)]
  exact congrArg some (Fin.ext hline)

theorem adminLineNo_of_large {rec : List Byte} (h : 3 < (byteAt rec 1).toNat) : adminLineNo rec = none :=
  dif_neg (Nat.not_lt.2 h)

theorem lineNamed_of_byte {rec : List Byte} {n : LineNo} (h : (byteAt rec 1).toNat = n.val) : lineNamed rec = n := by
  rw [lineNamed, adminLineNo_of_byte h]

theorem adminLineNo_isSome_iff (rec : List Byte) : (adminLineNo rec).isSome = true ↔ ¬ 3 < (byteAt rec 1).toNat := by
  by_cases h : 3 < (byteAt rec 1).toNat
  · simp [adminLineNo_of_large h, h]
  · have hline : (byteAt rec 1).toNat < 4 := by omega
    simp [adminLineNo_of_byte (n := ⟨_, hline⟩) rfl, h]

theorem lineStationOk_iff (rec : List Byte) : lineStationOk rec = true ↔ ¬ LineStationBad rec := by
  rw [lineStationOk, Bool.and_eq_true, adminLineNo_isSome_iff, adminStationOk, within_iff, LineStationBad, adminStation]
  omega

theorem stationParamsOk_iff (rec : List Byte) :
    (lineStationOk rec && stationParamsOk rec) = true ↔ ¬ StationParamsBad rec := by
  have hhalf : ∀ i, (halfAt rec i).toNat ≤ 65535 := fun i => Nat.le_of_lt_succ (halfAt rec i).isLt
  have hbyte : ∀ i, (byteAt rec i).toNat ≤ 255 := fun i => Nat.le_of_lt_succ (byteAt rec i).isLt
  have hreply := hhalf 18
  have hholdoff := hhalf 22
  have hlimit := hbyte 24
  rw [Bool.and_eq_true, lineStationOk_iff, StationParamsBad, not_or]
  refine and_congr_right fun _ => ?_
  simp only [stationParamsOk, paramReplyTimeout, paramRetryLimit, paramMissLimit, paramBusyHoldoff, paramBusyLimit,
    adminDefaults, Bool.and_eq_true, within_iff]
  by_cases hdefaults : (byteAt rec 5).getLsbD 0 = true
  · simp [hdefaults]
  · simp only [Bool.eq_false_iff.2 hdefaults, Bool.false_eq_true, if_false, true_and]
    omega

/-- Figure 2-4 with R27: the line parameters of a record lie in their ranges. -/
theorem lineParamsOk_iff (rec : List Byte) : lineParamsOk rec = true ↔
    ¬ (7 < (byteAt rec 18).toNat ∨ (byteAt rec 19).toNat < 16 ∨ 240 < (byteAt rec 19).toNat ∨ (byteAt rec 19).toNat % 16 ≠ 0
      ∨ ((byteAt rec 5).getLsbD 0 = false
        ∧ ((byteAt rec 20).toNat < 1 ∨ 64 < (byteAt rec 20).toNat ∨ (byteAt rec 21).toNat < 2 ∨ 32 < (byteAt rec 21).toNat
          ∨ (halfAt rec 22).toNat = 0 ∨ (halfAt rec 24).toNat = 0 ∨ (byteAt rec 26).toNat = 0
          ∨ (halfAt rec 28).toNat = 0))) := by
  have hhalf : ∀ i, (halfAt rec i).toNat ≤ 65535 := fun i => Nat.le_of_lt_succ (halfAt rec i).isLt
  have hjam := hhalf 22
  have hpoll := hhalf 24
  have hspacing := hhalf 28
  have hdivisor : (byteAt rec 26).toNat ≤ 255 := Nat.le_of_lt_succ (byteAt rec 26).isLt
  simp only [lineParamsOk, lineParams, adminDefaults, Bool.and_eq_true, within_iff, decide_eq_true_eq]
  by_cases hdefaults : (byteAt rec 5).getLsbD 0 = true
  · simp only [hdefaults, if_true, LineConfig.reset, Bool.true_eq_false, false_and, or_false]
    omega
  · simp only [Bool.eq_false_iff.2 hdefaults, Bool.false_eq_true, if_false, true_and, lineParamsGiven]
    omega

theorem lineSetupOk_iff (s : State) (rec : List Byte) : s.lineSetupOk rec = true ↔ ¬ s.LineSetupBad rec := by
  unfold State.lineSetupOk State.LineSetupBad
  by_cases hlarge : 3 < (byteAt rec 1).toNat
  · simp [adminLineNo_of_large hlarge, hlarge]
  · obtain ⟨n, hn⟩ : ∃ n : LineNo, (byteAt rec 1).toNat = n.val := ⟨⟨_, Nat.lt_of_not_le hlarge⟩, rfl⟩
    have hrings : (∃ m : LineNo, (byteAt rec 1).toNat = m.val ∧ ((s.cqOf m).state = .absent
        ∨ ((s.sqRing (sqIndex m true)).state = .absent ∧ (s.sqRing (sqIndex m false)).state = .absent)))
        ↔ (s.cqOf n).state = .absent
          ∨ ((s.sqRing (sqIndex n true)).state = .absent ∧ (s.sqRing (sqIndex n false)).state = .absent) := by
      refine ⟨fun ⟨m, hm, h⟩ => ?_, fun h => ⟨n, hn, h⟩⟩
      have hsame : m = n := Fin.ext (hm.symm.trans hn)
      rwa [hsame] at h
    rw [adminLineNo_of_byte hn, hrings]
    simp only [Bool.and_eq_true, Bool.or_eq_true, decide_eq_true_eq, lineParamsOk_iff, hlarge, false_or, not_or,
      not_and_or, and_assoc, ne_eq]

/-- R28: an awaited record of kind `k` is checked once its read has completed. -/
theorem checked_of_awaitsAdmin {s : State} {a : Access} {k : Nat} {rec : List Byte} (h : s.AwaitsAdmin a k rec)
    (station : Byte) (ok : State → Bool) (f : State → State) :
    s.onAdminRecord (isKind k rec) (fun t => t.checked rec station (ok t) f)
      = if ok (s.finishAccess a) then f (s.finishAccess a)
        else (s.finishAccess a).completeAdmin (halfAt rec 2) .badParam station 0 :=
  onAdminRecord_of_awaitsAdmin h _

/-- R28 step 2: a record whose checks pass is executed. -/
theorem executed_of_awaitsAdmin {s : State} {a : Access} {k : Nat} {rec : List Byte} (h : s.AwaitsAdmin a k rec)
    {station : Byte} {ok : State → Bool} (hok : ok (s.finishAccess a) = true) (f : State → State) :
    s.onAdminRecord (isKind k rec) (fun t => t.checked rec station (ok t) f) = f (s.finishAccess a) :=
  (checked_of_awaitsAdmin h station ok f).trans (if_pos hok)

/-- R28 step 2: a record one of whose checks fails is completed BAD_PARAM. -/
theorem badParam_of_awaitsAdmin {s : State} {a : Access} {k : Nat} {rec : List Byte} (h : s.AwaitsAdmin a k rec)
    {station : Byte} {ok : State → Bool} (hbad : ¬ ok (s.finishAccess a) = true) (f : State → State) :
    s.onAdminRecord (isKind k rec) (fun t => t.checked rec station (ok t) f)
      = (s.finishAccess a).completeAdmin (halfAt rec 2) .badParam station 0 :=
  (checked_of_awaitsAdmin h station ok f).trans (if_neg hbad)

/-- Settles O27 (R28, Figure 2-5): each kind's checks, and the station its completion names. -/
theorem failedValueCheckIsBadParam : Obligations.FailedValueCheckIsBadParam := by
  intro s a rec
  have hline : 3 < (byteAt rec 1).toNat → ¬ (adminLineNo rec).isSome = true :=
    fun h => by rw [adminLineNo_isSome_iff]; exact not_not_intro h
  have hparams : StationParamsBad rec → ¬ (lineStationOk rec && stationParamsOk rec) = true :=
    fun h => by rw [stationParamsOk_iff]; exact not_not_intro h
  have hstation : LineStationBad rec → ¬ lineStationOk rec = true :=
    fun h => by rw [lineStationOk_iff]; exact not_not_intro h
  have htarget : (byteAt rec 6).toNat = 0 ∨ 8 < (byteAt rec 6).toNat → ¬ targetRingOk rec = true :=
    fun h => by rw [targetRingOk_iff]; omega
  have hsetup : s.LineSetupBad rec → ¬ (s.finishAccess a).lineSetupOk rec = true :=
    fun h hok => (lineSetupOk_iff (s.finishAccess a) rec).1 hok h
  refine ⟨fun h hbad => ?_, fun h hbad => ?_, fun h hbad => ?_, fun h hbad => ?_, fun h hbad => ?_, fun h hbad => ?_,
    fun h hbad => ?_, fun h hbad => ?_, fun h hbad => exec_queueResume_of_badTarget h hbad⟩
  · exact congrArg Host.Outcome.next (badParam_of_awaitsAdmin h (ok := fun t => t.lineSetupOk rec) (hsetup hbad) _)
  · exact congrArg Host.Outcome.next (badParam_of_awaitsAdmin h (ok := fun _ => (adminLineNo rec).isSome) (hline hbad) _)
  · exact congrArg Host.Outcome.next (badParam_of_awaitsAdmin h (ok := fun _ => (adminLineNo rec).isSome) (hline hbad) _)
  · exact congrArg Host.Outcome.next
      (badParam_of_awaitsAdmin h (ok := fun _ => lineStationOk rec && stationParamsOk rec) (hparams hbad) _)
  · exact congrArg Host.Outcome.next (badParam_of_awaitsAdmin h (ok := fun _ => lineStationOk rec) (hstation hbad) _)
  · exact congrArg Host.Outcome.next
      (badParam_of_awaitsAdmin h (ok := fun _ => lineStationOk rec && stationParamsOk rec) (hparams hbad) _)
  · exact congrArg Host.Outcome.next (badParam_of_awaitsAdmin h (ok := fun _ => lineStationOk rec) (hstation hbad) _)
  · exact congrArg Host.Outcome.next (badParam_of_awaitsAdmin h (ok := fun _ => targetRingOk rec) (htarget hbad) _)

/-! ### LINE_SETUP (R103) -/

theorem LineConfig.ext_fields {c d : LineConfig} (rate : c.rate = d.rate) (size : c.bufferSize = d.bufferSize)
    (rest : (c.guardChars, c.gapLimit, c.jamLimit, c.pollInterval, c.slowDivisor, c.querySpacing)
      = (d.guardChars, d.gapLimit, d.jamLimit, d.pollInterval, d.slowDivisor, d.querySpacing)) : c = d := by
  obtain ⟨_, _, _, _, _, _, _, _⟩ := c
  obtain ⟨_, _, _, _, _, _, _, _⟩ := d
  simp_all

/-- R27: the configuration LINE_SETUP applies, told by its fields. -/
theorem lineParams_eq {rec : List Byte} {c : LineConfig} (hrate : c.rate.map Fin.val = some (byteAt rec 18).toNat)
    (hsize : c.bufferSize = some (byteAt rec 19).toNat)
    (hrest : (c.guardChars, c.gapLimit, c.jamLimit, c.pollInterval, c.slowDivisor, c.querySpacing)
      = (if (byteAt rec 5).getLsbD 0 then (3, 4, 500, 100, 8, 50)
        else ((byteAt rec 20).toNat, (byteAt rec 21).toNat, (halfAt rec 22).toNat, (halfAt rec 24).toNat,
          (byteAt rec 26).toNat, (halfAt rec 28).toNat))) : lineParams rec = c := by
  have hgiven : (lineParamsGiven rec).rate = c.rate := by
    obtain ⟨r, hr, hval⟩ := Option.map_eq_some_iff.1 hrate
    have hsmall : (byteAt rec 18).toNat < 8 := hval ▸ r.isLt
    rw [hr]
    exact (dif_pos hsmall).trans (congrArg some (Fin.ext hval.symm))
  unfold lineParams adminDefaults
  split
  · next hdefaults =>
    rw [if_pos hdefaults] at hrest
    exact LineConfig.ext_fields hgiven hsize.symm hrest.symm
  · next hgivenAll =>
    rw [if_neg hgivenAll] at hrest
    exact LineConfig.ext_fields hgiven hsize.symm hrest.symm

/-- Settles O28 (R27, R103). -/
theorem lineSetupEnablesLine : Obligations.LineSetupEnablesLine := by
  intro s n a rec c hawaits hgood hn hrate hsize hrest
  have hok : (s.finishAccess a).lineSetupOk rec = true := (lineSetupOk_iff (s.finishAccess a) rec).2 hgood
  have hexec : exec (.lineSetup rec) s = .next ((s.finishAccess a).lineSetup rec) :=
    congrArg Host.Outcome.next (executed_of_awaitsAdmin hawaits (ok := fun t => t.lineSetupOk rec) hok _)
  rw [hexec, State.lineSetup, lineNamed_of_byte hn]
  refine ⟨fun hdisabled => congrArg Host.Outcome.next ?disabled, fun henabled => congrArg Host.Outcome.next ?enabled⟩
  case enabled =>
    have : ((s.finishAccess a).line n).enabled = true := (Line.enabled_iff _).2 henabled
    exact if_pos this
  case disabled =>
    have hnot : ¬ ((s.finishAccess a).line n).enabled = true := fun h => (Line.enabled_iff _).1 h hdisabled
    rw [if_neg hnot, lineParams_eq hrate hsize hrest]
    refine congrArg (fun t => State.settleHeld (State.completeAdmin t (halfAt rec 2) .ok 0 0) n) ?_
    unfold State.startPollTimer
    by_cases hrunning : s.control.device = .running
    · have htimer : ((s.finishAccess a).onLine n fun l => l.setUp c).running = true := decide_eq_true hrunning
      rw [if_pos htimer, onLine_onLine]
      simp only [if_pos hrunning]
      rfl
    · have htimer : ¬ ((s.finishAccess a).onLine n fun l => l.setUp c).running = true :=
        fun h => hrunning (of_decide_eq_true h)
      rw [if_neg htimer]
      simp only [if_neg hrunning]
      rfl

/-! ### ATTACH, STATION_SET, STATION_READ (R74, R78, R79) -/

/-- Settles O31 (R74). -/
theorem attachAddsEntry : Obligations.AttachAddsEntry := by
  intro s n a rec hawaits hgood hn
  have hok : (lineStationOk rec && stationParamsOk rec) = true := (stationParamsOk_iff rec).2 hgood
  have hexec : exec (.attach rec) s = .next ((s.finishAccess a).attach rec) := congrArg Host.Outcome.next
    (executed_of_awaitsAdmin hawaits (ok := fun _ => lineStationOk rec && stationParamsOk rec) hok _)
  rw [hexec, State.attach, lineNamed_of_byte hn]
  refine ⟨fun hfound => congrArg Host.Outcome.next (if_pos hfound), fun hnone hfull => congrArg Host.Outcome.next ?_,
    fun e hnone hroom he => congrArg Host.Outcome.next ?_⟩
  · have hnot : ¬ ((s.finishAccess a).station? n (byteAt rec 4)).isSome = true := by
      rw [show (s.finishAccess a).station? n (byteAt rec 4) = none from hnone]; simp
    exact (if_neg hnot).trans (if_pos hfull)
  · have hnot : ¬ ((s.finishAccess a).station? n (byteAt rec 4)).isSome = true := by
      rw [show (s.finishAccess a).station? n (byteAt rec 4) = none from hnone]; simp
    subst he
    exact (if_neg hnot).trans (if_neg (Nat.not_le.2 hroom))

/-- Settles O33 (R78, R79). -/
theorem stationSetAndRead : Obligations.StationSetAndRead := by
  refine ⟨fun s n a rec hawaits hgood hn => ?set, fun s n a rec => ⟨fun hawaits hgood hn => ?read,
    fun tag station hawaits hwork => ?written⟩⟩
  case set =>
    have hok : (lineStationOk rec && stationParamsOk rec) = true := (stationParamsOk_iff rec).2 hgood
    have hexec : exec (.stationSet rec) s = .next ((s.finishAccess a).stationSet rec) := congrArg Host.Outcome.next
      (executed_of_awaitsAdmin hawaits (ok := fun _ => lineStationOk rec && stationParamsOk rec) hok _)
    rw [hexec, State.stationSet, lineNamed_of_byte hn]
    refine ⟨fun hnone => congrArg Host.Outcome.next (if_pos ?_), fun hfound => congrArg Host.Outcome.next (if_neg ?_)⟩
    · exact Option.isNone_iff_eq_none.2 hnone
    · rw [Option.isNone_iff_eq_none]
      exact Option.isSome_iff_ne_none.1 hfound
  case read =>
    have hok : lineStationOk rec = true := (lineStationOk_iff rec).2 hgood
    have hexec : exec (.stationRead rec) s = .next ((s.finishAccess a).stationRead rec) :=
      congrArg Host.Outcome.next (executed_of_awaitsAdmin hawaits (ok := fun _ => lineStationOk rec) hok _)
    refine ⟨fun hnone => ?_, fun e he => ?_⟩
    · have hmissing : (s.finishAccess a).station? n (byteAt rec 4) = none := hnone
      rw [hexec, State.stationRead, lineNamed_of_byte hn, adminStation, hmissing]
      rfl
    · have hfound : (s.finishAccess a).station? n (byteAt rec 4) = some e := he
      rw [hexec, State.stationRead, lineNamed_of_byte hn, adminStation, hfound, adminClear]
      refine congrArg Host.Outcome.next ?_
      cases (byteAt rec 5).getLsbD 1 <;> rfl
  case written =>
    obtain ⟨hflight, hkind, hheeds⟩ := hawaits
    have hdone : (s.finishAccess a).snapshotWritten = (s.finishAccess a).completeAdmin tag .ok station 32 := by
      rw [State.snapshotWritten, admin_finishAccess, hwork]
    change Host.Outcome.next s.afterSnapshotWrite = _
    simp [State.afterSnapshotWrite, hflight, hkind, hheeds, hdone]

end Sys2Proof.Machine

/-! Buffers, the choice of a turn, the deadlines, the Posting Path and the held line (5.4, 5.5, 7.1, 8.2 to 8.4, 11). -/

namespace Sys2Proof.Machine

/-! ### Descriptors (R126, R127, R169) -/

theorem drainCache_of_running {s : State} {n : LineNo} (h : s.control.device = .running) : s.drainCache n = s := by
  simp [State.drainCache, State.stopping, h]

theorem drainCache_of_turn {s : State} {n : LineNo} (h : (s.line n).turn?.isSome = true) : s.drainCache n = s := by
  have hturn : (s.line n).turn?.isNone = false := Option.isNone_eq_false_iff.2 h
  simp [State.drainCache, hturn]

theorem drainCache_of_drained {s : State} {n : LineNo} (hstopping : s.control.device = .stopping)
    (hturn : (s.line n).turn? = none) (hreading : (s.line n).buf.reading = none) : s.drainCache n
      = s.onLine n fun l => { l with buf := { l.buf with cache := [], reserved := false } } := by
  simp [State.drainCache, State.stopping, hstopping, hturn, hreading]

theorem exec_descriptorReadDone {s : State} {n : LineNo} {a : Access} {rec : List Byte} (h : s.Awaits (.descriptorRead n) a)
    (hlength : rec.length = 16) : exec (.descriptorReadDone rec) s = .next ((s.finishAccess a).descriptorArrived n rec) := by
  obtain ⟨hflight, hkind, hheeds⟩ := h
  change Host.Outcome.next (s.afterDescriptorRead rec) = _
  simp [State.afterDescriptorRead, hflight, hkind, hheeds, hlength]

/-- R127: what the read's end does to the Buffer Unit: the descriptor joins the cache unless the read was overtaken. -/
def BufferUnit.arrived (b : BufferUnit) (overtaken : Bool) (rec : List Byte) : BufferUnit :=
  { b with reading := none, cache := if overtaken then b.cache else b.cache ++ [descriptorOf rec] }

theorem descriptorArrived_eq {s : State} {n : LineNo} {overtaken : Bool} (rec : List Byte)
    (h : (s.line n).buf.reading = some overtaken) : s.descriptorArrived n rec
      = (s.onLine n fun l => { l with buf := l.buf.arrived overtaken rec }).drainCache n := by
  rw [State.descriptorArrived]
  refine congrArg (State.drainCache · n) (onLine_congr ?_)
  cases overtaken <;> simp [h, BufferUnit.arrived]

/-- Settles O36 (R126, R127, R169). -/
theorem descriptorsFillTheCache : Obligations.DescriptorsFillTheCache := by
  refine ⟨fun s n hrunning henabled hdisabling havailable hroom hreading => ?claims,
    fun s n a rec overtaken hawaits hlength hreading => ?arrives⟩
  case claims =>
    have hmay : s.mayClaimDescriptor n = true := by
      simp [State.mayClaimDescriptor, State.running, Line.enabled, hrunning, henabled, hdisabling, havailable, hroom, hreading]
    exact congrArg Host.Outcome.next (if_pos hmay)
  case arrives =>
    have harrived := descriptorArrived_eq (s := s.finishAccess a) rec hreading
    rw [exec_descriptorReadDone hawaits hlength, harrived]
    refine ⟨fun hrunning => congrArg Host.Outcome.next ?_, fun hstopping hturn => congrArg Host.Outcome.next ?_,
      fun hstopping hturn hovertaken => congrArg Host.Outcome.next ?_⟩
    · exact drainCache_of_running hrunning
    · refine (drainCache_of_drained (s := (s.finishAccess a).onLine n _) hstopping ?turn ?reading).trans ?same
      case turn => rw [line_onLine, if_pos rfl]; exact hturn
      case reading => rw [line_onLine, if_pos rfl]; rfl
      case same => rw [onLine_onLine]; rfl
    · subst hovertaken
      refine drainCache_of_turn ?_
      rw [line_onLine, if_pos rfl]; exact hturn

/-! ### Walks and views (4.2, R89, R92, R97) -/

/-- R92: the ring cut at the cursor's entry. -/
theorem splitRing_at {pre post : List Station} {c : Station} (h : ∀ e ∈ pre, e.address ≠ c.address) :
    splitRing (some c.address) (pre ++ c :: post) = (post, pre ++ [c]) := by
  have hdrop : (pre ++ c :: post).dropWhile (fun e => decide (e.address ≠ c.address)) = c :: post := by
    rw [List.dropWhile_append_of_pos (fun e he => by simpa using h e he), List.dropWhile_cons_of_neg (by simp)]
  have htake : (pre ++ c :: post).take ((pre ++ c :: post).length - post.length) = pre ++ [c] := by
    have hlength : (pre ++ c :: post).length - post.length = (pre ++ [c]).length := by simp; omega
    rw [hlength, List.append_cons pre c post, List.take_left]
  simp only [splitRing, hdrop, htake]

theorem eligible?_of_head {s : State} {n : LineNo} {e : Station} {k : SlotNo} {r : Request}
    (h : s.head? n e = some (k, r)) : s.eligible? n e = some k ↔ r.state = .waiting ∧ e.detachPending = false
      ∧ e.holdoff = none
      ∧ ((e.liveness ≠ .offline ∧ e.outOfStep = false) ∨ (e.liveness = .offline ∧ r.kind = .resync)) := by
  rw [State.eligible?, h]
  simp only
  split <;> simp_all

theorem queryPollReady_of_head {s : State} {n : LineNo} {e : Station} {k : SlotNo} {r : Request}
    (h : s.head? n e = some (k, r)) : s.queryPollReady n e = true ↔ r.state = .answering
      ∧ (∃ d, r.queryPollDue = some d ∧ d ≤ s.now) ∧ e.outOfStep = false ∧ e.detachPending = false := by
  rw [State.queryPollReady, h]
  cases hdue : r.queryPollDue with
  | none => simp [hdue]
  | some d => simp [hdue]; tauto

/-- Settles O37 (Figure 4-2, R89, R92, R97). -/
theorem walksAndViews : Obligations.WalksAndViews := by
  refine ⟨fun view ring => ?_, fun view pre post c hpre => ?_, fun e => ⟨?_, ?_, ?_, fun s n k r hhead => ⟨?_, ?_⟩⟩⟩
  · simp only [nextMember, splitRing]
    cases ring.find? view <;> rfl
  · simp only [nextMember, splitRing_at hpre]
    cases post.find? view <;> rfl
  · simp [Station.inPollView, and_assoc]
  · simp [Station.inSyncView, and_assoc]
  · simp [Station.inSlowView]
  · exact eligible?_of_head hhead
  · exact queryPollReady_of_head hhead

/-! ### The selection (R94, R95) -/

/-- R95: the REQUEST turn found first on a stretch of the station ring. -/
def State.pickRequest (s : State) (n : LineNo) (es : List Station) : Option Choice :=
  es.findSome? fun e => (s.eligible? n e).map fun k => Choice.request e k

/-- R95: step 4 is the stretch after the cursor, the broadcast position, and the stretch up to the cursor. -/
theorem chooseRequest_eq (s : State) (n : LineNo) : s.chooseRequest n
    = (s.pickRequest n (splitRing (s.line n).sched.requestCursor.place (s.ring n)).1).or
      (((s.broadcastHead? n).map Choice.broadcast).or
        (s.pickRequest n (splitRing (s.line n).sched.requestCursor.place (s.ring n)).2)) := by
  unfold State.chooseRequest State.pickRequest
  dsimp only
  split
  · next c hc => rw [hc]; rfl
  · next hc =>
    rw [hc]
    split
    · next k hk => rw [hk]; rfl
    · next hk => rw [hk]; rfl

/-- R94: the first step that finds a turn. -/
theorem choose_steps (s : State) (n : LineNo) : s.choose n
    = ((nextMember (s.line n).sched.syncCursor Station.inSyncView (s.ring n)).map fun p => Choice.sync p.1).or
      (((nextMember (s.line n).sched.requestCursor.place (s.queryPollReady n) (s.ring n)).map fun p => Choice.queryPoll p.1).or
      (((if (s.line n).sched.pollDue then nextMember (s.line n).sched.pollCursor Station.inPollView (s.ring n) else none).map
          fun p => Choice.poll p.1 true p.2).or
        ((s.chooseRequest n).or
          (((if (s.line n).sched.credit then nextMember (s.line n).sched.slowCursor Station.inSlowView (s.ring n)
            else none).map fun p => Choice.slow p.1).or
          ((nextMember (s.line n).sched.pollCursor Station.inPollView (s.ring n)).map fun p => Choice.poll p.1 false p.2))))) := by
  unfold State.choose
  dsimp only
  cases nextMember (s.line n).sched.syncCursor Station.inSyncView (s.ring n) with
  | some p => rfl
  | none =>
    cases nextMember (s.line n).sched.requestCursor.place (s.queryPollReady n) (s.ring n) with
    | some p => rfl
    | none =>
      generalize nextMember (s.line n).sched.pollCursor Station.inPollView (s.ring n) = poll
      cases (if (s.line n).sched.pollDue then poll else none) with
      | some p => rfl
      | none =>
        cases s.chooseRequest n with
        | some c => rfl
        | none =>
          generalize nextMember (s.line n).sched.slowCursor Station.inSlowView (s.ring n) = slow
          cases (if (s.line n).sched.credit then slow else none) with
          | some p => rfl
          | none => cases poll <;> rfl

theorem afterSelection_of_none {s : State} {n : LineNo} (h : s.choose n = none) : s.afterSelection n = s := by
  unfold State.afterSelection
  rw [h]
  split <;> rfl

/-- Settles O38 (R94, R95). -/
theorem selectionTakesFirstStep : Obligations.SelectionTakesFirstStep := by
  rintro s n _ _ _ _ _ rfl rfl rfl rfl rfl
  refine ⟨choose_steps s n, fun hcursor => ?_, fun pre c post hring hpre hcursor => ?_,
    fun hnone => congrArg Host.Outcome.next (afterSelection_of_none hnone)⟩
  · have hplace : (s.line n).sched.requestCursor.place = none := by rcases hcursor with h | h <;> rw [h] <;> rfl
    rw [chooseRequest_eq, hplace]
    cases (s.broadcastHead? n).map Choice.broadcast <;> rfl
  · have hplace : (s.line n).sched.requestCursor.place = some c.address := by rw [hcursor]; rfl
    rw [chooseRequest_eq, hplace, hring, splitRing_at hpre]
    rfl

/-! ### The held line (R145, R146) -/

theorem gateOpen_iff (l : Line) : l.gateOpen = true ↔ l.pool.doneOrder = [] ∧ l.post.taken < 6 := by
  simp [Line.gateOpen]

theorem mayStart_iff (s : State) (n : LineNo) : s.mayStart n = true ↔ s.control.device = .running
    ∧ (s.line n).state = .idle ∧ s.resetting n = false ∧ s.disabling n = false := by
  simp [State.mayStart, State.running, and_assoc]

theorem isHeld_iff (s : State) (n : LineNo) : s.isHeld n = true ↔ s.control.device = .running
    ∧ (s.line n).state = .idle ∧ s.resetting n = false ∧ s.disabling n = false
    ∧ 6 ≤ (s.line n).post.taken + (s.line n).pool.doneOrder.length
    ∧ ((s.line n).sched.retry.isSome = true ∨ (s.choose n).isSome = true) := by
  rw [State.isHeld, Bool.and_eq_true, Bool.and_eq_true, mayStart_iff, Line.gateStuck, decide_eq_true_eq, State.hasTurn,
    Bool.or_eq_true]
  simp only [and_assoc]

/-- Settles O54 (R145, R146). -/
theorem heldLineIsReportedOnce : Obligations.HeldLineIsReportedOnce := by
  intro s n gateOpen onset hgate honset
  have hopen : (s.line n).gateOpen = true ↔ gateOpen := (gateOpen_iff _).trans hgate.symm
  have hheld : (s.isHeld n && !(s.line n).post.held) = true ↔ onset := by
    rw [Bool.and_eq_true, isHeld_iff, Bool.not_eq_true', honset]
    tauto
  refine ⟨fun h => if_pos (hopen.2 h), fun h => ?_, fun hnot hquiet => ?_⟩
  · have hshut : ¬ (s.line n).gateOpen = true := by
      rw [gateOpen_iff]
      rintro ⟨hempty, hplaces⟩
      obtain ⟨-, -, -, -, hstuck, -⟩ := honset.1 h
      rw [hempty, List.length_nil] at hstuck
      omega
    rw [State.settleHeld, if_neg hshut, if_pos (hheld.2 h)]
    rfl
  · rw [State.settleHeld, if_neg (fun h => hnot (hopen.1 h)), if_neg (fun h => hquiet (hheld.1 h))]

/-! ### The Posting Path (R140 to R142) -/

theorem exec_recordWriteDone {s : State} {n : LineNo} {a : Access} (h : s.Awaits (.recordWrite n) a) :
    exec .recordWriteDone s = .next ((s.finishAccess a).recordWritten n) := by
  obtain ⟨hflight, hkind, hheeds⟩ := h
  change Host.Outcome.next s.afterRecordWrite = _
  simp [State.afterRecordWrite, hflight, hkind, hheeds]

theorem outcome?_of_request {s : State} {n : LineNo} {k : SlotNo} {r : Request} (h : s.request? n k = some r) :
    s.outcome? n k = r.outcome := by
  rw [State.outcome?, h]

/-- Settles O53 (R29, R140, R141, R142). -/
theorem postingPathWritesRecords : Obligations.PostingPathWritesRecords := by
  refine fun s n hactive => ⟨fun k rest r st hdone hplaces hslot houtcome => ?enters, fun r rest hqueue hwriting hroom => ?begins,
    fun a r rest hawaits hwriting hqueue => ?completes⟩
  case enters =>
    have hfree : (s.active && decide ((s.line n).post.taken < 6)) = true := by simp [hactive, hplaces]
    have hstatus : s.outcome? n k = some st := (outcome?_of_request hslot).trans houtcome
    change Host.Outcome.next (s.afterSlotEnters n) = _
    simp only [State.afterSlotEnters, hfree, hdone, hslot, hstatus]
    rfl
  case begins =>
    have hguard : s.active = true ∧ (s.line n).post.writing = false ∧ (s.cqOf n).room = true :=
      ⟨hactive, hwriting, (PartRing.room_iff _).2 hroom⟩
    change Host.Outcome.next (s.afterRecordWriteStart n) = _
    simp only [State.afterRecordWriteStart, hqueue]
    rw [if_pos hguard]
    rfl
  case completes =>
    have hstands : ((s.finishAccess a).line n).post.writing = true := hwriting
    have htail : (s.finishAccess a).onLine n (fun l => { l with post := { l.post with queue := l.post.queue.tail, writing := false } })
        = (s.finishAccess a).onLine n fun l => { l with post := { l.post with queue := rest, writing := false } } :=
      onLine_congr (by simp [hqueue])
    rw [exec_recordWriteDone hawaits, State.recordWritten, if_pos hstands]
    simp only [htail]
    rfl

/-! ### Deadlines (R70, R97, R98, R121) -/

/-- R98: one wrap counted, as the statements word it. -/
theorem countWrap_eq (sc : Scheduler) (divisor : Nat) : sc.countWrap divisor = { sc with
    wraps := if divisor ≤ sc.wraps + 1 then 0 else sc.wraps + 1
    credit := sc.credit || decide (divisor ≤ sc.wraps + 1) } := by
  unfold Scheduler.countWrap
  split
  · next h => simp [h]
  · next h => simp [h]

theorem answering?_of_head {s : State} {n : LineNo} {a : Byte} {e : Station} {k : SlotNo} {r : Request}
    (hentry : s.station? n a = some e) (hhead : s.head? n e = some (k, r)) (hr : r.state = .answering) :
    s.answering? n a = some (k, r) := by
  simp [State.answering?, hentry, hhead, hr]

/-- The request at the head of an entry's list. -/
theorem head?_eq_some {s : State} {n : LineNo} {e : Station} {k : SlotNo} {r : Request} :
    s.head? n e = some (k, r) ↔ e.pending.head? = some k ∧ s.request? n k = some r := by
  unfold State.head?
  cases e.pending with
  | nil => simp
  | cons j rest =>
    simp only [List.head?_cons, Option.some.injEq]
    cases hj : s.request? n j with
    | none => simp only [reduceCtorEq, false_iff]; rintro ⟨rfl, h⟩; rw [hj] at h; cases h
    | some q =>
      simp only [Option.some.injEq, Prod.mk.injEq]
      refine ⟨?_, ?_⟩
      · rintro ⟨rfl, rfl⟩; exact ⟨rfl, hj⟩
      · rintro ⟨rfl, h⟩; rw [hj] at h; exact ⟨rfl, Option.some.inj h⟩

/-- R84: a slot made DONE leaves the list of the entry it stood on. -/
theorem station?_makeDone_self {s : State} {n : LineNo} {a : Byte} {e : Station} {k : SlotNo} {r : Request}
    (hentry : s.station? n a = some e) (hr : s.request? n k = some r) (hopen : r.state ≠ .done) (st : LineStatus)
    (f : Request → Request) : (s.makeDone n k st f).station? n a
      = some { e with pending := e.pending.filter fun j => decide (j ≠ k) } := by
  rw [State.makeDone, hr]
  simp only
  rw [if_neg hopen, station?_unlist, station?_onLine, hentry]
  rfl

/-- R121: the answer deadline is reached with no exchange to the station in flight. -/
theorem afterAnswerDeadline_of_idle {s : State} {n : LineNo} {a : Byte} {k : SlotNo} {r : Request} {d : Nat}
    (hrunning : s.control.device = .running) (hhead : s.answering? n a = some (k, r)) (hd : r.answerDeadline = some d) :
    s.afterAnswerDeadline n a = if (s.line n).exchangeTo a then s.reach d
      else ((s.reach d).makeDone n k .answerTimeout id).settleHeld n := by
  have hrun : s.running = true := decide_eq_true hrunning
  simp only [State.afterAnswerDeadline, hrun, hhead, hd]

/-- Settles O52 (R70, R97, R98, R121). -/
theorem deadlinesReached : Obligations.DeadlinesReached := by
  refine fun s n d => ⟨fun hrunning henabled htimer sc hview hempty => ?poll, fun e hactive hentry hholdoff => ?holdoff,
    fun e k r hrunning hentry hhead hr => ⟨fun hdue => ?query, fun hdeadline hexchange => ?deferred,
      fun hdeadline hexchange => ?timeout⟩⟩
  case poll =>
    have hlive : (s.running && (s.line n).enabled) = true := by
      simp [State.running, Line.enabled, hrunning, henabled]
    change Host.Outcome.next (s.afterPollExpiry n) = _
    simp only [State.afterPollExpiry, hlive, htimer]
    refine congrArg (fun t => Host.Outcome.next (State.settleHeld t n)) (onLine_congr ?_)
    cases hany : (s.ring n).any Station.inPollView with
    | true => rw [hview hany]; rfl
    | false =>
      rw [hempty hany]
      exact congrArg (fun sc => { s.line n with sched := sc }) (countWrap_eq _ _)
  case holdoff =>
    change Host.Outcome.next (s.afterHoldoff n e.address) = _
    have hset : ((s.station? n e.address).bind fun e => e.holdoff) = some d := by rw [hentry]; exact hholdoff
    simp only [State.afterHoldoff, hactive, hset]
    rfl
  case query =>
    have hrun : s.running = true := decide_eq_true hrunning
    have hset : ((s.answering? n e.address).bind fun p => p.2.queryPollDue) = some d := by
      rw [answering?_of_head hentry hhead hr]; exact hdue
    change Host.Outcome.next (s.afterQueryPollDue n e.address) = _
    simp only [State.afterQueryPollDue, hrun, hset]
    rfl
  case deferred =>
    have hdone := afterAnswerDeadline_of_idle hrunning (answering?_of_head hentry hhead hr) hdeadline
    exact congrArg Host.Outcome.next (hdone.trans (if_pos hexchange))
  case timeout =>
    obtain ⟨-, hslot⟩ := head?_eq_some.1 hhead
    have hopen : r.state ≠ .done := by rw [hr]; decide
    have hreached : (s.reach d).request? n k = some r := hslot
    have hdone := afterAnswerDeadline_of_idle hrunning (answering?_of_head hentry hhead hr) hdeadline
    have hsettling : State.Settling n (s.reach d) (((s.reach d).makeDone n k .answerTimeout id).settleHeld n) :=
      (settling_makeDone n _ k .answerTimeout id).trans (settling_settleHeld n _)
    obtain ⟨hcontrol, hsq, hcq, hbq, her, -⟩ := hsettling.device
    refine ⟨_, congrArg Host.Outcome.next (hdone.trans (if_neg (by rw [hexchange]; exact Bool.false_ne_true))), ?_, ?_, ?_, ?_,
      fun j hj => ?_, hsettling.line.state, hcontrol, hsq, hcq, hbq, her, hsettling.others⟩
    · exact hsettling.now
    · rw [request?_settleHeld, request?_makeDone_self hreached hopen]; rfl
    · refine ⟨_, (station?_settleHeld _ n n e.address).trans (station?_makeDone_self (s := s.reach d) hentry hreached hopen _ _),
        ?_, rfl, rfl⟩
      simp
    · rw [pool_settleHeld, doneOrder_makeDone hreached hopen]; rfl
    · rw [pool_settleHeld]; exact slotsKept_makeDone (s.reach d) n k .answerTimeout id j hj

end Sys2Proof.Machine

/-! The turns of a line: their start, LOAD, GUARD, SEND, LISTEN and RECEIVE (5.5, 5.6, 6.2). -/

namespace Sys2Proof.Machine

/-! ### The start of a turn (R91, R94, R99, R105) -/

theorem canStart_iff (s : State) (n : LineNo) : s.canStart n = true ↔ s.CanStartTurn n := by
  rw [State.canStart, Bool.and_eq_true, mayStart_iff, gateOpen_iff]
  simp only [State.CanStartTurn, and_assoc]

theorem exec_turnSelection {s : State} {n : LineNo} {c : Choice} (hstart : s.CanStartTurn n)
    (hretry : (s.line n).sched.retry = none) (hchoice : s.choose n = some c) :
    exec (.turnSelection n) s = .next (s.startChoice n c) := by
  change Host.Outcome.next (s.afterSelection n) = _
  rw [State.afterSelection, if_pos ⟨(canStart_iff s n).2 hstart, hretry⟩, hchoice]

/-- R99, R105: the line as a turn begins in GUARD with its payload at hand. -/
def Line.inGuard (l : Line) (x : Exchange) (now : Nat) (payload : List Byte) : Line :=
  { l with
    state := .turn (guardTurn x l.config now), txBuf := payload, post := { l.post with reservation := true } }

theorem beginGuard_eq (s : State) (n : LineNo) (x : Exchange) (payload : List Byte) :
    s.beginGuard n x payload = s.onLine n fun l => l.inGuard x s.now payload := by
  rw [State.beginGuard, State.beginTurn, onLine_onLine]
  exact onLine_congr rfl

/-- A change of the line before a turn that begins in GUARD. -/
theorem onLine_beginGuard (s : State) (n : LineNo) (f : Line → Line) (x : Exchange) (payload : List Byte) :
    (s.onLine n f).beginGuard n x payload = s.onLine n fun l => (f l).inGuard x s.now payload := by
  rw [beginGuard_eq, onLine_onLine]
  rfl

theorem onScheduler_startReset (s : State) (n : LineNo) (f : Scheduler → Scheduler) (kind : TurnKind) (e : Station)
    (slot : Option SlotNo) : (s.onScheduler n f).startReset n kind e slot = s.onLine n fun l =>
      { l with sched := f l.sched }.inGuard ⟨kind, some e.address, slot, .reset, e.address, 0x30, 1, false⟩ s.now [] :=
  onLine_beginGuard s n _ _ []

/-! ### POLL turns (R44, R128, R129) -/

/-- R44: the exchange of a POLL turn. -/
def pollExchange (kind : TurnKind) (e : Station) (slot : Option SlotNo) (ready : Bool) : Exchange :=
  firstTurn kind (some e.address) slot .poll e.address (controlByte FrameKind.poll.code ready 0)

theorem answeringHead?_onScheduler (s : State) (n : LineNo) (f : Scheduler → Scheduler) (e : Station) :
    (s.onScheduler n f).answeringHead? n e = s.answeringHead? n e := by
  have hslots : ∀ k, (s.onScheduler n f).request? n k = s.request? n k :=
    request?_congr (by rw [State.onScheduler, line_onLine, if_pos rfl])
  unfold State.answeringHead? State.head?
  simp only [hslots]

/-- A POLL to an ANSWERING head carries READY for its slot. -/
theorem startPoll_of_answering {s : State} {n : LineNo} {e : Station} {k : SlotNo} (f : Scheduler → Scheduler)
    (kind : TurnKind) (h : s.answeringHead? n e = some k) : (s.onScheduler n f).startPoll n kind e
      = s.onLine n fun l =>
          { l with sched := f l.sched }.inGuard (pollExchange kind e (some k) true) s.now [ackByte e.lastAck] := by
  rw [State.startPoll, answeringHead?_onScheduler, h]
  exact onLine_beginGuard s n _ _ _

/-- A POLL without an ANSWERING head reserves a descriptor, or goes without READY. -/
theorem startPoll_of_none {s : State} {n : LineNo} {e : Station} (f : Scheduler → Scheduler) (kind : TurnKind)
    (h : s.answeringHead? n e = none) : (s.onScheduler n f).startPoll n kind e
      = (s.onLine n fun l => { l with sched := f l.sched, buf := l.buf.reserve }.inGuard
          (pollExchange kind e none (!(s.line n).buf.cache.isEmpty)) s.now [ackByte e.lastAck]).noteExhausted n e.address
        (s.line n).buf := by
  have hbuf : ((s.onScheduler n f).line n).buf = (s.line n).buf := by rw [State.onScheduler, line_onLine, if_pos rfl]
  rw [State.startPoll, answeringHead?_onScheduler, h]
  simp only [hbuf]
  refine congrArg (fun t : State => t.noteExhausted n e.address (s.line n).buf) ?_
  rw [State.onScheduler, onLine_onLine]
  exact onLine_beginGuard s n _ _ _

theorem reserve_of_cached {b : BufferUnit} (h : b.cache ≠ []) : b.reserve = { b with reserved := true, exhausted := false } := by
  simp [BufferUnit.reserve, h]

theorem reserve_of_empty {b : BufferUnit} (h : b.cache = []) : b.reserve = { b with reserved := false, exhausted := true } := by
  simp [BufferUnit.reserve, h]

theorem reserve_of_flagged {b : BufferUnit} (hcache : b.cache = []) (hflag : b.exhausted = true) :
    b.reserve = { b with reserved := false } := by
  rw [reserve_of_empty hcache, ← hflag]

/-- R129: no shortage, or one already flagged, is no onset. -/
theorem noteExhausted_of_quiet {b : BufferUnit} (s : State) (n : LineNo) (a : Byte) (h : b.cache ≠ [] ∨ b.exhausted = true) :
    s.noteExhausted n a b = s := by
  rw [State.noteExhausted]
  refine if_neg ?_
  rcases h with h | h <;> simp [h]

theorem noteExhausted_of_onset {b : BufferUnit} (s : State) (n : LineNo) (a : Byte) (hcache : b.cache = [])
    (hflag : b.exhausted = false) : s.noteExhausted n a b
      = s.offer ⟨.buffersExhausted, BitVec.ofNat 8 n.val, a, BitVec.ofNat 16 (s.bqRing n).available, 0, false⟩ := by
  rw [State.noteExhausted]
  exact if_pos (by simp [hcache, hflag])

/-- R98: a POLL selection's scheduler changes, as the statements word them. -/
theorem polled_eq (sc : Scheduler) (a : Byte) (due wrapped : Bool) (divisor : Nat) : sc.polled a due wrapped divisor = { sc with
    pollCursor := some a
    pollDue := sc.pollDue && !due
    wraps := if wrapped then (if divisor ≤ sc.wraps + 1 then 0 else sc.wraps + 1) else sc.wraps
    credit := sc.credit || (wrapped && decide (divisor ≤ sc.wraps + 1)) } := by
  cases wrapped with
  | false => simp [Scheduler.polled]
  | true => simp [Scheduler.polled, countWrap_eq]

/-- The starts of the two POLL turns: the scheduler changed, then the POLL. -/
theorem exec_pollSelection {s : State} {n : LineNo} {e : Station} {kind : TurnKind} {sc : Scheduler} (hstart : s.CanStartTurn n)
    (hretry : (s.line n).sched.retry = none)
    (h : (s.choose n = some (.queryPoll e) ∧ kind = .queryPoll ∧ sc = (s.line n).sched)
      ∨ ∃ due wrapped, s.choose n = some (.poll e due wrapped) ∧ kind = .poll
        ∧ sc = (s.line n).sched.polled e.address due wrapped (s.line n).config.slowDivisor) :
    exec (.turnSelection n) s = .next ((s.onScheduler n fun _ => sc).startPoll n kind e) := by
  rcases h with ⟨hchoice, rfl, rfl⟩ | ⟨due, wrapped, hchoice, rfl, rfl⟩
  · have hsame : (s.onScheduler n fun _ => (s.line n).sched) = s := onLine_of_fixed rfl
    rw [exec_turnSelection hstart hretry hchoice, hsame]
    rfl
  · rw [exec_turnSelection hstart hretry hchoice]
    exact congrArg (fun t : State => Host.Outcome.next (t.startPoll n .poll e)) (onLine_congr rfl)

theorem ackByte_eq {q : Option Seq} {ack : Byte} (hsome : ∀ v, q = some v → ack = v.setWidth 8) (hnone : q = none → ack = 8) :
    ackByte q = ack := by
  cases q with
  | none => exact (hnone rfl).symm
  | some v => exact (hsome v rfl).symm

/-- Settles O39 (R44, R92, R96, R98, R99, R128, R129). -/
theorem resetAndPollTurnsStart : Obligations.ResetAndPollTurnsStart := by
  rintro s n e guard hstart hretry rfl
  refine ⟨fun hchoice => ?sync, fun hchoice => ?slow, fun kind sc ack started hpoll hack hnoack hstarted => ?poll⟩
  case sync =>
    rw [exec_turnSelection hstart hretry hchoice]
    exact congrArg Host.Outcome.next ((onScheduler_startReset s n _ .sync e none).trans (onLine_congr rfl))
  case slow =>
    rw [exec_turnSelection hstart hretry hchoice]
    exact congrArg Host.Outcome.next ((onScheduler_startReset s n _ .slow e none).trans (onLine_congr rfl))
  case poll =>
    subst hstarted
    have hacked : ackByte e.lastAck = ack := ackByte_eq hack hnoack
    have hrun := exec_pollSelection hstart hretry (hpoll.imp_right fun ⟨due, wrapped, hchoice, hkind, hsc⟩ =>
      ⟨due, wrapped, hchoice, hkind, hsc.trans (polled_eq ..).symm⟩)
    rw [hrun]
    refine ⟨fun k hhead => ?answering, fun hhead hcache => ?cached, fun hhead hcache hflag => ?flagged,
      fun hhead hcache hflag => ?onset⟩
    case answering =>
      rw [startPoll_of_answering _ kind hhead, hacked]
      exact congrArg Host.Outcome.next (onLine_congr rfl)
    case cached =>
      rw [startPoll_of_none _ kind hhead, noteExhausted_of_quiet _ _ _ (.inl hcache), hacked]
      have hready : (!(s.line n).buf.cache.isEmpty) = true := by simp [hcache]
      rw [hready]
      refine congrArg Host.Outcome.next (onLine_congr ?_)
      dsimp only
      rw [reserve_of_cached hcache]
      rfl
    case flagged =>
      rw [startPoll_of_none _ kind hhead, noteExhausted_of_quiet _ _ _ (.inr hflag), hacked]
      have hready : (!(s.line n).buf.cache.isEmpty) = false := by simp [hcache]
      rw [hready]
      refine congrArg Host.Outcome.next (onLine_congr ?_)
      dsimp only
      rw [reserve_of_flagged hcache hflag]
      rfl
    case onset =>
      rw [startPoll_of_none _ kind hhead, noteExhausted_of_onset _ _ _ hcache hflag, hacked]
      have hready : (!(s.line n).buf.cache.isEmpty) = false := by simp [hcache]
      rw [hready]
      refine congrArg (fun t : State => Host.Outcome.next (t.offer
        ⟨.buffersExhausted, BitVec.ofNat 8 n.val, e.address, BitVec.ofNat 16 (s.bqRing n).available, 0, false⟩)) (onLine_congr ?_)
      dsimp only
      rw [reserve_of_empty hcache]
      rfl

/-! ### REQUEST turns (R95, R96) -/

/-- A request in a slot, changed, as a change of the slot. -/
theorem onRequest_eq {s : State} {n : LineNo} {k : SlotNo} {r : Request} (h : s.request? n k = some r) (f : Request → Request) :
    s.onRequest n k f = s.onLine n fun l => l.setSlot k (.held (f r)) := by
  refine onLine_congr ?_
  rw [Line.onRequest, show (s.line n).held? k = some r from h]

/-- R106: the state as a turn begins in LOAD, the line changed by `f` before. -/
theorem onLine_beginLoad (s : State) (n : LineNo) (f : Line → Line) (x : Exchange) (r : Request) :
    (s.onLine n f).beginLoad n x r = (s.onLine n fun l => { f l with
        state := .turn (loadTurn x), post := { (f l).post with reservation := true } }).request
      (readAccess (.payloadRead n) r.payloadAddr r.payloadLen.toNat) := by
  rw [State.beginLoad, State.beginTurn, onLine_onLine]

/-- R99: the head slot made ACTIVE and the request cursor moved. -/
theorem activate_onScheduler {s : State} {n : LineNo} {k : SlotNo} {r : Request} (h : s.request? n k = some r)
    (f : Scheduler → Scheduler) : (s.activate n k).onScheduler n f = s.onLine n fun l =>
      { l.setSlot k (.held { r with state := .active }) with sched := f l.sched } := by
  rw [State.activate, onRequest_eq h, State.onScheduler, onLine_onLine]
  rfl

/-- Settles O40 (R95, R96, R99, R106). -/
theorem requestTurnsStart : Obligations.RequestTurnsStart := by
  rintro s n k r load hstart hretry hslot rfl
  refine ⟨fun e hchoice hkind => ?select, fun e hchoice hkind => ?resync, fun hchoice => ?broadcast⟩
  case select =>
    have hcontrol : controlByte FrameKind.select.code false e.txSeq = 0x2#4 ++ 0#1 ++ e.txSeq := rfl
    rw [exec_turnSelection hstart hretry hchoice]
    refine congrArg Host.Outcome.next ?_
    simp only [State.startChoice, State.startRequest, hslot]
    rw [if_neg hkind, activate_onScheduler hslot, onLine_beginLoad, hcontrol]
    rfl
  case resync =>
    rw [exec_turnSelection hstart hretry hchoice]
    refine congrArg Host.Outcome.next ?_
    simp only [State.startChoice, State.startRequest, hslot]
    rw [if_pos hkind, activate_onScheduler hslot]
    exact (onLine_beginGuard s n _ _ []).trans (onLine_congr rfl)
  case broadcast =>
    rw [exec_turnSelection hstart hretry hchoice]
    refine congrArg Host.Outcome.next ?_
    simp only [State.startChoice, State.startBroadcast, hslot]
    rw [activate_onScheduler hslot, onLine_beginLoad]
    rfl

/-! ### Retries, LOAD and GUARD (R93, R106, R107) -/

theorem exec_retryTurnStart {s : State} {n : LineNo} {x : Exchange} (hstart : s.CanStartTurn n)
    (hretry : (s.line n).sched.retry = some x) : exec (.retryTurnStart n) s = .next (s.startRetry n x) := by
  change Host.Outcome.next (s.afterRetryStart n) = _
  simp only [State.afterRetryStart, (canStart_iff s n).2 hstart, hretry]

theorem exec_payloadReadDone {s : State} {n : LineNo} {a : Access} {payload : List Byte} (h : s.Awaits (.payloadRead n) a)
    (hlength : payload.length = a.length) :
    exec (.payloadReadDone payload) s = .next ((s.finishAccess a).payloadLoaded n payload) := by
  obtain ⟨hflight, hkind, hheeds⟩ := h
  change Host.Outcome.next (s.afterPayloadRead payload) = _
  simp [State.afterPayloadRead, hflight, hkind, hheeds, hlength]

theorem turn?_of_state {l : Line} {t : Turn} (h : l.state = .turn t) : l.turn? = some t := by
  rw [Line.turn?, h]

theorem liveTurn_of_state {s : State} {n : LineNo} {t : Turn} (hactive : s.active = true) (h : (s.line n).state = .turn t) :
    s.liveTurn n = some t := by
  rw [State.liveTurn, if_pos hactive, turn?_of_state h]

/-- Settles O41 (R93, R106, R107, R110). -/
theorem turnReachesTheWire : Obligations.TurnReachesTheWire := by
  refine ⟨fun s n x pool hstart hretry hnone hsome => ?retry, fun s n a t payload hawaits hlength hstate hphase => ?loaded,
    fun s n t d hactive hstate hphase hquiet => ?guardEnds⟩
  case retry =>
    rw [exec_retryTurnStart hstart hretry]
    refine congrArg Host.Outcome.next ?_
    unfold State.startRetry State.beginTurn State.onScheduler
    cases hslot : x.slot with
    | none =>
      rw [hnone hslot]
      exact (onLine_onLine s n _ _).trans (onLine_congr rfl)
    | some k =>
      obtain ⟨r, hr, rfl⟩ := hsome k hslot
      simp only [onRequest_eq hr, onLine_onLine]
      exact onLine_congr rfl
  case loaded =>
    rw [exec_payloadReadDone hawaits hlength]
    have hturn : ((s.finishAccess a).line n).turn? = some t := turn?_of_state (l := (s.finishAccess a).line n) hstate
    refine congrArg Host.Outcome.next ?_
    simp only [State.payloadLoaded, hturn]
    rw [if_pos hphase]
    rfl
  case guardEnds =>
    change Host.Outcome.next (s.afterGuardEnd n) = _
    simp only [State.afterGuardEnd, liveTurn_of_state hactive hstate, hphase, hquiet]
    rfl

end Sys2Proof.Machine

/-! SEND and the characters received (5.6, 6.2, R36, R38, R110). -/

namespace Sys2Proof.Machine

/-! ### TXD (R36) -/

theorem charLevels_length (ch : Byte) : (charLevels ch).length = 10 := rfl

/-- R36: bit time `m` of character `i` of a frame. -/
theorem wireLevels_getD : ∀ (chars : List Byte) (i m : Nat) (h : i < chars.length), m < 10 →
    (wireLevels chars).getD (10 * i + m) true = (charLevels chars[i]).getD m true
  | [], _, _, h, _ => absurd h (Nat.not_lt_zero _)
  | ch :: chars, 0, m, _, hm => by
    rw [wireLevels, List.flatMap_cons, Nat.mul_zero, Nat.zero_add, List.getD_append _ _ _ _ (by rw [charLevels_length]; omega)]
    rfl
  | ch :: chars, i + 1, m, h, hm => by
    have hplace : 10 * (i + 1) + m = (charLevels ch).length + (10 * i + m) := by rw [charLevels_length]; omega
    have htail : i < chars.length := Nat.lt_of_succ_lt_succ h
    rw [wireLevels, List.flatMap_cons, hplace, List.getD_append_right _ _ _ _ (Nat.le_add_right _ _), Nat.add_sub_cancel_left]
    exact wireLevels_getD chars i m htail hm

theorem txd_of_sending {l : Line} {t : Turn} (hde : l.de = true) (hstate : l.state = .turn t) (bit : Nat) :
    l.txd bit = (wireLevels t.wire).getD bit true := by
  simp only [Line.txd, hde, turn?_of_state hstate]

theorem txd_of_released {l : Line} (hde : l.de = false) (bit : Nat) : l.txd bit = true := by
  simp only [Line.txd, hde]

/-- R36: the data bits of a character, from the least significant. -/
theorem charLevels_data (ch : Byte) (j : Nat) (h : j < 8) : (charLevels ch).getD (1 + j) true = ch.getLsbD j := by
  interval_cases j <;> rfl

/-! ### The end of SEND (R110, R111) -/

theorem exec_sendDone {s : State} {n : LineNo} {t : Turn} {d : Nat} (hactive : s.active = true)
    (hstate : (s.line n).state = .turn t) (hphase : t.phase = .send) (hend : t.sendEnd = some d) :
    exec (.sendDone n) s = .next ((s.reach d).sendEnded n t) := by
  change Host.Outcome.next (s.afterSendDone n) = _
  simp only [State.afterSendDone, liveTurn_of_state hactive hstate, hphase, hend]

/-- A change of the line that takes no part in what a turn's end leaves. -/
theorem TurnOver.of_onLine {n : LineNo} {retry : Option Exchange} {s u : State} {f : Line → Line}
    (hf : f (s.line n) = { s.line n with
      state := (f (s.line n)).state, de := (f (s.line n)).de, pool := (f (s.line n)).pool
      buf := { (f (s.line n)).buf with reading := (s.line n).buf.reading }
      post := { (f (s.line n)).post with writing := (s.line n).post.writing } })
    (h : State.TurnOver n retry (s.onLine n f) u) : State.TurnOver n retry s u := by
  have hother : ∀ m, m ≠ n → (s.onLine n f).line m = s.line m := fun m hm => by rw [line_onLine, if_neg hm]
  unfold State.TurnOver at h
  rw [line_onLine, if_pos rfl, hf] at h
  obtain ⟨hstate, hsched, hres, hwriting, hconfig, hfetch, hstreak, htx, hrx, hreading, hdevice, hadmin, hport, hothers⟩ := h
  exact ⟨hstate, hsched, hres, hwriting, hconfig, hfetch, hstreak, htx, hrx, hreading, hdevice, hadmin, hport,
    fun m hm => ⟨(hothers m hm).1.trans (hother m hm), (hothers m hm).2⟩⟩

theorem TurnOver.of_releaseDe {n : LineNo} {retry : Option Exchange} {s u : State}
    (h : State.TurnOver n retry (s.releaseDe n) u) : State.TurnOver n retry s u := TurnOver.of_onLine rfl h

/-- R112 for a turn to no station: the line is IDLE, and nothing else follows but the held latch. -/
theorem finishTurn_of_broadcast {s : State} (hrunning : s.control.device = .running) (hwork : s.admin.work = .none)
    (n : LineNo) {x : Exchange} (hstation : x.station = none) (continues : Bool) (rep : Report) (after : LineState) :
    s.finishTurn n x continues rep none after = (s.onLine n fun l => l.turnOver none after).settleHeld n := by
  rw [finishTurn_plain hrunning hwork]
  simp only [State.applyReport, State.settleAnswering, hstation, Option.bind_none]

theorem broadcast_makeDone {s : State} {n : LineNo} {k : SlotNo} {r : Request} (h : s.request? n k = some r)
    (hd : r.state ≠ .done) (st : LineStatus) (f : Request → Request) :
    ((s.makeDone n k st f).line n).pool.broadcast = (s.line n).pool.broadcast.filter fun j => decide (j ≠ k) := by
  simp [State.makeDone, h, hd, Line.joinDone, Line.setSlot]

/-- A change of the line that leaves its pool alone. -/
theorem pool_onLine {s : State} {n : LineNo} {f : Line → Line} (h : (f (s.line n)).pool = (s.line n).pool) :
    ((s.onLine n f).line n).pool = (s.line n).pool := by
  rw [line_onLine, if_pos rfl, h]

theorem de_settleHeld (s : State) (n : LineNo) : ((s.settleHeld n).line n).de = (s.line n).de :=
  (settling_settleHeld n s).line.de

/-- R110: what the end of a BROADCAST turn leaves on a RUNNING device with no admin request in progress. -/
structure State.BroadcastOver (n : LineNo) (k : SlotNo) (r : Request) (s u : State) : Prop where
  ended : State.TurnOver n none s u
  de : (u.line n).de = (s.line n).de
  now : u.now = s.now
  slot : u.request? n k = some (r.finish .ok)
  others : State.SlotsKept n k s u
  order : (u.line n).pool.doneOrder = (s.line n).pool.doneOrder ++ [k]
  list : (u.line n).pool.broadcast = (s.line n).pool.broadcast.filter fun j => decide (j ≠ k)

theorem broadcastOver_broadcastSent {s : State} {n : LineNo} {x : Exchange} {k : SlotNo} {r : Request}
    (hrunning : s.control.device = .running) (hwork : s.admin.work = .none) (hstation : x.station = none)
    (hslot : x.slot = some k) (hr : s.request? n k = some r) (hopen : r.state ≠ .done) :
    State.BroadcastOver n k r s (s.broadcastSent n x) := by
  have hrun : (s.makeDone n k .ok id).control.device = .running := (congrArg Control.device (control_makeDone ..)).trans hrunning
  have hidle : (s.makeDone n k .ok id).admin.work = .none := (congrArg AdminUnit.work (admin_makeDone ..)).trans hwork
  have hsent : s.broadcastSent n x = (s.makeDone n k .ok id).finishTurn n x false .silent none .idle := by
    simp only [State.broadcastSent, hslot]
  have hplain : s.broadcastSent n x = ((s.makeDone n k .ok id).onLine n fun l => l.turnOver none .idle).settleHeld n :=
    hsent.trans (finishTurn_of_broadcast hrun hidle n hstation false .silent .idle)
  have hpool : ((s.broadcastSent n x).line n).pool = ((s.makeDone n k .ok id).line n).pool := by
    rw [hplain, pool_settleHeld]; exact pool_onLine rfl
  have hsettling : State.Settling n s (s.makeDone n k .ok id) := settling_makeDone n s k .ok id
  refine ⟨?ended, ?de, ?now, ?slot, fun j hj => ?others, ?order, ?list⟩
  case ended => rw [hsent]; exact turnOver_finishTurn hrun hidle hsettling (quiet_makeDone n s k .ok id) x false .silent none
  case de =>
    rw [hplain, de_settleHeld, line_onLine, if_pos rfl]
    exact hsettling.line.de
  case now => rw [hplain, now_settleHeld]; exact hsettling.now
  case slot =>
    rw [request?_congr (congrArg Pool.slots hpool) k]
    exact request?_makeDone_self hr hopen .ok id
  case others => rw [hpool]; exact slotsKept_makeDone s n k .ok id j hj
  case order => rw [hpool]; exact doneOrder_makeDone hr hopen .ok id
  case list => rw [hpool]; exact broadcast_makeDone hr hopen .ok id

/-- Settles O42 (R36, R47, R110, R111). -/
theorem sendEndsInListen : Obligations.SendEndsInListen := by
  refine ⟨fun l bit hde => txd_of_released hde bit, fun l t i h hde hstate => ⟨?start, fun j hj => ?data, ?stop⟩,
    fun s n t d hactive hstate hphase hend => ⟨fun a e hframe hstation hentry => ?listen,
      fun k r hframe hstation hslot hr hopen hrunning hwork => ?broadcast⟩⟩
  case start => rw [txd_of_sending hde hstate]; exact wireLevels_getD t.wire i 0 h (by omega)
  case data =>
    rw [txd_of_sending hde hstate, Nat.add_assoc, wireLevels_getD t.wire i (1 + j) h (by omega)]
    exact charLevels_data _ j hj
  case stop => rw [txd_of_sending hde hstate]; exact wireLevels_getD t.wire i 9 h (by omega)
  case listen =>
    have hfound : ((s.reach d).releaseDe n).entryOf n t.exch = some e := by
      rw [State.entryOf, hstation]; exact hentry
    rw [exec_sendDone hactive hstate hphase hend, State.sendEnded]
    simp only [hfound]
    exact congrArg Host.Outcome.next (onLine_onLine _ n _ _)
  case broadcast =>
    have hline : ((s.reach d).releaseDe n).line n = { s.line n with de := false } := by
      rw [State.releaseDe, line_onLine, if_pos rfl]; rfl
    have hslots : ((s.reach d).releaseDe n).request? n k = some r := (request?_congr (s := s) (by rw [hline]) k).trans hr
    have hsent : (s.reach d).sendEnded n t = ((s.reach d).releaseDe n).broadcastSent n t.exch := by
      simp only [State.sendEnded, hframe]
    have hfinal := broadcastOver_broadcastSent (s := (s.reach d).releaseDe n) (x := t.exch) hrunning hwork hstation hslot hslots
      (by rw [hopen]; decide)
    refine ⟨_, (exec_sendDone hactive hstate hphase hend).trans (congrArg Host.Outcome.next hsent),
      TurnOver.of_releaseDe (s := s.reach d) hfinal.ended, hfinal.de.trans (congrArg Line.de hline), hfinal.now, hfinal.slot,
      fun j hj => (hfinal.others j hj).trans (by rw [hline]), hfinal.order.trans (by rw [hline]),
      hfinal.list.trans (by rw [hline])⟩

end Sys2Proof.Machine

/-! The characters of a reply: the collector, the classification of a frame, and what each does to the turn (3.5, 6.2, R38). -/

namespace Sys2Proof.Machine

/-! ### The collector (R47 to R51) -/

theorem receive_of_collecting {c : Collector} (h : c.collecting = true) (address ch : Byte) (framing : Bool) :
    c.receive address ch framing = c.collect address ch framing := if_pos h

theorem receive_of_waiting {c : Collector} (h : c.collecting = false) (address ch : Byte) (framing : Bool) :
    c.receive address ch framing = if ch = 0xC5 ∧ framing = false then .more Collector.started else .more c := by
  rw [Collector.receive, if_neg (by simp [h])]
  rfl

section
variable {c : Collector} {address ch b : Byte}

theorem collect_framing : c.collect address ch true = .garbled := rfl

theorem collect_mark (framing : Bool) : c.collect address 0xC5 framing = .garbled := by
  cases framing <;> rfl

/-- R50: an END out of place, after an escape, or with a check that disagrees. -/
theorem collect_end_garbled (h : c.escape = true ∨ c.position ≠ .endMark ∨ c.check ≠ c.received) :
    c.collect address 0xCA false = .garbled := by
  change (if c.escape = true then Collected.garbled
    else if c.position = .endMark then if c.check = c.received then .complete c.control c.store else .garbled
    else .garbled) = .garbled
  rcases h with h | h | h
  · exact if_pos h
  · rw [if_neg h, ite_self]
  · rw [if_neg h, ite_self, ite_self]

theorem collect_end_complete (hescape : c.escape = false) (hposition : c.position = .endMark) (hcheck : c.check = c.received) :
    c.collect address 0xCA false = .complete c.control c.store := by
  simp [Collector.collect, markChar, endChar, hescape, hposition, hcheck]

/-- R48: a character that is neither MARK nor END. -/
theorem collect_data (hmark : ch ≠ 0xC5) (hend : ch ≠ 0xCA) : c.collect address ch false
    = if c.position = .endMark then .garbled
      else if c.escape = true then { c with escape := false }.place address (ch ^^^ 0x80)
      else if ch = 0xD7 then .more { c with escape := true } else c.place address ch :=
  (if_neg Bool.false_ne_true).trans ((if_neg hmark).trans (if_neg hend))

theorem collect_beyond (hmark : ch ≠ 0xC5) (hend : ch ≠ 0xCA) (hposition : c.position = .endMark) :
    c.collect address ch false = .garbled := by
  rw [collect_data hmark hend, if_pos hposition]

theorem collect_escape (hposition : c.position ≠ .endMark) (hescape : c.escape = false) :
    c.collect address 0xD7 false = .more { c with escape := true } := by
  simp [Collector.collect, markChar, endChar, escapeChar, hposition, hescape]

/-- R48: `b` is the byte that the character `ch` stands for: itself, or after an escape with its top bit inverted. -/
def Collector.Carries (c : Collector) (ch b : Byte) : Prop :=
  (c.escape = true ∧ b = ch ^^^ 0x80) ∨ (c.escape = false ∧ ch ≠ 0xD7 ∧ b = ch)

theorem collect_byte (hmark : ch ≠ 0xC5) (hend : ch ≠ 0xCA) (hposition : c.position ≠ .endMark) (hbyte : c.Carries ch b) :
    c.collect address ch false = { c with escape := false }.place address b := by
  rcases hbyte with ⟨hescape, rfl⟩ | ⟨hescape, hplain, rfl⟩
  · rw [collect_data hmark hend, if_neg hposition, if_pos hescape]
  · have hsame : { c with escape := false } = c := by rw [← hescape]
    rw [collect_data hmark hend, if_neg hposition, if_neg (by simp [hescape]), if_neg hplain, hsame]

theorem place_address_garbled (hposition : c.position = .address) (h : b ≠ address) : c.place address b = .garbled := by
  simp [Collector.place, hposition, h]

theorem place_length_garbled (hposition : c.position = .length) (h : 240 < b.toNat) : c.place address b = .garbled := by
  simp [Collector.place, hposition, h]

/-- R49: the collector once byte `b` stands in its place. -/
def Collector.Places (c : Collector) (address b : Byte) (d : Collector) : Prop :=
  (c.position = .address ∧ b = address
      ∧ d = { c with escape := false, position := .control, address := b, check := checkByte c.check b })
    ∨ (c.position = .control
      ∧ d = { c with escape := false, position := .length, control := b, check := checkByte c.check b })
    ∨ (c.position = .length ∧ b.toNat ≤ 240 ∧ d = { c with
        escape := false, position := if b = 0 then .checkHigh else .payload, length := b
        remaining := b.toNat, check := checkByte c.check b })
    ∨ (c.position = .payload ∧ d = { c with
        escape := false, position := if c.remaining ≤ 1 then .checkHigh else .payload
        remaining := c.remaining - 1, store := c.store ++ [b], check := checkByte c.check b })
    ∨ (c.position = .checkHigh ∧ d = { c with
        escape := false, position := .checkLow, received := b ++ c.received.extractLsb' 0 8 })
    ∨ (c.position = .checkLow ∧ d = { c with
        escape := false, position := .endMark, received := c.received.extractLsb' 8 8 ++ b })

theorem place_of_places {d : Collector} (h : c.Places address b d) : { c with escape := false }.place address b = .more d := by
  rcases h with ⟨hposition, rfl, rfl⟩ | ⟨hposition, rfl⟩ | ⟨hposition, hlength, rfl⟩ | ⟨hposition, rfl⟩ | ⟨hposition, rfl⟩
    | ⟨hposition, rfl⟩
  case inr.inr.inl =>
    have hzero : b.toNat = 0 ↔ b = 0 := ⟨fun h => BitVec.eq_of_toNat_eq h, fun h => by rw [h]; rfl⟩
    simp [Collector.place, hposition, hzero, Nat.not_lt.2 hlength]
  all_goals simp [Collector.place, hposition]

theorem Collector.Places.position_ne {d : Collector} (h : c.Places address b d) : c.position ≠ .endMark := by
  rintro hend
  simp [Collector.Places, hend] at h

theorem Collector.Places.collecting {d : Collector} (h : c.Places address b d) : d.collecting = c.collecting := by
  rcases h with ⟨-, -, rfl⟩ | ⟨-, rfl⟩ | ⟨-, -, rfl⟩ | ⟨-, rfl⟩ | ⟨-, rfl⟩ | ⟨-, rfl⟩ <;> rfl

end

/-- R50: END before a check that agrees completes the frame. -/
theorem receive_beforeEnd {t : Turn} {control : Byte} {payload : List Byte} (h : t.BeforeEnd control payload) :
    t.phase = .receive ∧ ∃ c, t.collector = some c
      ∧ c.receive t.exch.address 0xCA false = .complete control payload := by
  obtain ⟨hphase, c, hc, hcollecting, hescape, hposition, hcheck, rfl, rfl⟩ := h
  exact ⟨hphase, c, hc, (receive_of_collecting hcollecting _ _ _).trans (collect_end_complete hescape hposition hcheck)⟩

/-! ### The classification of a frame (R52) -/

/-- R52 with Figures 3-4 and 3-5: the reply is of a kind the frame allows, its length in the kind's range. -/
def WellFormedReply (sent : FrameKind) (control : Byte) (payload : List Byte) : Prop :=
  (sent = .poll ∧ ((control.extractLsb' 4 4 = 0x8 ∧ 1 ≤ payload.length ∧ payload.length ≤ 240)
      ∨ (control.extractLsb' 4 4 = 0x9 ∧ payload = []) ∨ (control.extractLsb' 4 4 = 0xC ∧ payload.length ≤ 1)))
    ∨ (sent = .select ∧ ((control.extractLsb' 4 4 = 0xA ∧ payload = [])
      ∨ (control.extractLsb' 4 4 = 0xB ∧ payload = []) ∨ (control.extractLsb' 4 4 = 0xC ∧ payload.length ≤ 1)))
    ∨ (sent = .reset ∧ control.extractLsb' 4 4 = 0xD ∧ payload = [])

theorem classify_of_not_wellFormed {sent : FrameKind} {control : Byte} {payload : List Byte}
    (h : ¬ WellFormedReply sent control payload) (sentControl : Byte) :
    classify sent sentControl control payload = .protocolError control := by
  unfold WellFormedReply at h
  push Not at h
  obtain ⟨hpoll, hselect, hreset⟩ := h
  simp only [classify, controlKind, List.length_eq_zero_iff]
  cases sent with
  | poll =>
    obtain ⟨hdata, hidle, hreject⟩ := hpoll rfl
    exact (if_neg fun ⟨hk, h1, h2⟩ => absurd h2 (Nat.not_le.2 (hdata hk h1))).trans
      ((if_neg fun ⟨hk, h1⟩ => hidle hk h1).trans (if_neg fun ⟨hk, h1⟩ => absurd h1 (Nat.not_le.2 (hreject hk))))
  | select =>
    obtain ⟨haccept, hbusy, hreject⟩ := hselect rfl
    exact (if_neg fun ⟨hk, h1⟩ => haccept hk h1).trans
      ((if_neg fun ⟨hk, h1⟩ => hbusy hk h1).trans (if_neg fun ⟨hk, h1⟩ => absurd h1 (Nat.not_le.2 (hreject hk))))
  | reset => exact if_neg fun ⟨hk, h1⟩ => hreset rfl hk h1
  | broadcast => rfl

/-- R52: an ACCEPT with another sequence than the SELECT's garbles the reply. -/
theorem classify_otherSequence {control sentControl : Byte} (hkind : control.extractLsb' 4 4 = 0xA)
    (hseq : control.extractLsb' 0 3 ≠ sentControl.extractLsb' 0 3) : classify .select sentControl control [] = .garbled := by
  simp [classify, controlKind, controlSeq, hkind, hseq]

/-! ### Characters in a turn (R38) -/

section
variable {s : State} {n : LineNo} {t : Turn} {ch : Byte} {framing : Bool}

theorem exec_characterReceived (hactive : s.active = true) (hstate : (s.line n).state = .turn t) :
    exec (.characterReceived n ch framing false) s = .next (s.characterInTurn n t ch framing) := by
  change Host.Outcome.next (s.afterCharacter n ch framing false) = _
  simp only [State.afterCharacter, liveTurn_of_state hactive hstate]

theorem exec_characterReceived_of_no_turn (h : (s.line n).turn? = none) :
    exec (.characterReceived n ch framing false) s = .next s := by
  have hlive : s.liveTurn n = none := by rw [State.liveTurn, h, ite_self]
  change Host.Outcome.next (s.afterCharacter n ch framing false) = _
  simp only [State.afterCharacter, hlive]

theorem characterInTurn_of_deaf (h : t.phase = .load ∨ t.phase = .send ∨ t.phase = .store) :
    s.characterInTurn n t ch framing = s := by
  rcases h with h | h | h <;> simp only [State.characterInTurn, h]

theorem characterInTurn_of_guard (h : t.phase = .guard) :
    s.characterInTurn n t ch framing = s.setTurn n (t.restartQuiet (s.line n).config s.now) := by
  simp only [State.characterInTurn, h]

theorem characterInTurn_of_collector {c : Collector} (h : t.phase = .listen ∨ t.phase = .receive) (hc : t.collector = some c) :
    s.characterInTurn n t ch framing = s.collectCharacter n t c ch framing := by
  rcases h with h | h <;> simp only [State.characterInTurn, h, hc]

theorem collectCharacter_of_garbled {c : Collector} (h : c.receive t.exch.address ch framing = .garbled) :
    s.collectCharacter n t c ch framing = s.failTurn n t.exch := by
  simp only [State.collectCharacter, h]

theorem collectCharacter_of_complete {c : Collector} {control : Byte} {payload : List Byte}
    (h : c.receive t.exch.address ch framing = .complete control payload) :
    s.collectCharacter n t c ch framing = s.onFrame n t control payload := by
  simp only [State.collectCharacter, h]

theorem collectCharacter_of_more {c d : Collector} (h : c.receive t.exch.address ch framing = .more d)
    (hd : d.collecting = true) :
    s.collectCharacter n t c ch framing = s.setTurn n (t.collecting d (s.line n).config s.now) := by
  simp only [State.collectCharacter, h]
  exact if_pos hd

theorem collectCharacter_of_silence {c d : Collector} (h : c.receive t.exch.address ch framing = .more d)
    (hd : d.collecting = false) : s.collectCharacter n t c ch framing = s := by
  simp only [State.collectCharacter, h]
  exact if_neg (by simp [hd])

/-- The END that completes a reply hands its frame to the turn. -/
theorem exec_endReceived {control : Byte} {payload : List Byte} (hactive : s.active = true)
    (hstate : (s.line n).state = .turn t) (hend : t.BeforeEnd control payload) :
    exec (.characterReceived n 0xCA false false) s = .next (s.onFrame n t control payload) := by
  obtain ⟨hphase, c, hc, hreceive⟩ := receive_beforeEnd hend
  rw [exec_characterReceived hactive hstate, characterInTurn_of_collector (.inr hphase) hc, collectCharacter_of_complete hreceive]

end

/-! ### Protocol errors (R53) -/

section
variable {s : State} {n : LineNo} {x : Exchange} {e : Station}

theorem entryOf_of_station (hstation : x.station = some e.address) (hentry : s.station? n e.address = some e) :
    s.entryOf n x = some e := by
  rw [State.entryOf, hstation]
  exact hentry

theorem noteProtocolError_of_exempt (hentry : s.entryOf n x = some e) (h : x.kind = .slow ∨ e.detachPending = true)
    (control : Byte) : s.noteProtocolError n x control = s := by
  simp only [State.noteProtocolError, hentry]
  exact if_pos h

theorem noteProtocolError_of_counted (hentry : s.entryOf n x = some e) (hkind : x.kind ≠ .slow)
    (hpending : e.detachPending = false) (control : Byte) :
    s.noteProtocolError n x control = s.reportProtocolError n e.address control := by
  simp only [State.noteProtocolError, hentry]
  exact if_neg (by simp [hkind, hpending])

end

/-! ### What garbles a reply (R48 to R51) -/

/-- Every way a character can garble the reply being collected. -/
theorem receive_garbled {c : Collector} {address ch : Byte} {framing : Bool} (hc : c.collecting = true)
    (h : framing = true ∨ ch = 0xC5 ∨ (ch = 0xCA ∧ (c.escape = true ∨ c.position ≠ .endMark ∨ c.check ≠ c.received))
      ∨ (ch ≠ 0xCA ∧ c.position = .endMark)
      ∨ (ch ≠ 0xCA ∧ ∃ b, c.Carries ch b ∧ ((c.position = .address ∧ b ≠ address) ∨ (c.position = .length ∧ 240 < b.toNat)))) :
    c.receive address ch framing = .garbled := by
  rw [receive_of_collecting hc]
  cases framing with
  | true => exact collect_framing
  | false =>
    by_cases hmark : ch = 0xC5
    · rw [hmark]; exact collect_mark false
    · rcases h with hframing | hmark' | ⟨rfl, hend⟩ | ⟨hend, hposition⟩ | ⟨hend, b, hbyte, hplace⟩
      · cases hframing
      · exact absurd hmark' hmark
      · exact collect_end_garbled hend
      · exact collect_beyond hmark hend hposition
      · have hposition : c.position ≠ .endMark := by
          rcases hplace with ⟨hp, -⟩ | ⟨hp, -⟩ <;> rw [hp] <;> decide
        rw [collect_byte hmark hend hposition hbyte]
        rcases hplace with ⟨hp, hb⟩ | ⟨hp, hb⟩
        · exact place_address_garbled (c := { c with escape := false }) hp hb
        · exact place_length_garbled (c := { c with escape := false }) hp hb

/-- Settles O43 (R38, R47 to R53). -/
theorem characterCountsByPhase : Obligations.CharacterCountsByPhase := by
  refine fun s n ch framing => ⟨rfl, exec_characterReceived_of_no_turn, fun t hactive hstate => ?_⟩
  have hrun : exec (.characterReceived n ch framing false) s = .next (s.characterInTurn n t ch framing) :=
    exec_characterReceived hactive hstate
  refine ⟨fun hphase => ?deaf, fun hphase => ?guard, fun c hphase hc hwaiting => ⟨fun hother => ?silence, fun hmark hframing => ?mark⟩,
    fun c hphase hc hcollecting => ?receive⟩
  case deaf => rw [hrun, characterInTurn_of_deaf hphase]
  case guard => rw [hrun, characterInTurn_of_guard hphase]; exact congrArg Host.Outcome.next (onLine_congr rfl)
  case silence =>
    have hreceive : c.receive t.exch.address ch framing = .more c := by
      rw [receive_of_waiting hwaiting]
      refine if_neg fun ⟨hmark, hframing⟩ => ?_
      rcases hother with h | h
      · exact h hmark
      · rw [hframing] at h; cases h
    rw [hrun, characterInTurn_of_collector (.inl hphase) hc, collectCharacter_of_silence hreceive hwaiting]
  case mark =>
    have hreceive : c.receive t.exch.address ch framing = .more Collector.started := by
      rw [receive_of_waiting hwaiting]
      exact if_pos ⟨hmark, hframing⟩
    rw [hrun, characterInTurn_of_collector (.inl hphase) hc, collectCharacter_of_more hreceive rfl]
    exact congrArg Host.Outcome.next (onLine_congr rfl)
  case receive =>
    rw [hrun, characterInTurn_of_collector (.inr hphase) hc]
    refine ⟨fun hgarbles => ?garbled, fun d b hframing hmark hend hmore => ?more, fun control payload wellFormed hbefore hch hframing hwf => ?complete⟩
    case garbled =>
      refine congrArg Host.Outcome.next (collectCharacter_of_garbled (receive_garbled hcollecting ?_))
      rcases hgarbles with h | h | h | h | ⟨h1, h2, h3, h4, h5⟩ | ⟨h1, h2, h3, h4, h5⟩ | ⟨h1, h2, h3, h4⟩ | ⟨h1, h2, h3, h4⟩
      · exact .inl h
      · exact .inr (.inl h)
      · exact .inr (.inr (.inl h))
      · exact .inr (.inr (.inr (.inl h)))
      · exact .inr (.inr (.inr (.inr ⟨h1, ch, .inr ⟨h3, h2, rfl⟩, .inl ⟨h4, h5⟩⟩)))
      · exact .inr (.inr (.inr (.inr ⟨h1, ch, .inr ⟨h3, h2, rfl⟩, .inr ⟨h4, h5⟩⟩)))
      · exact .inr (.inr (.inr (.inr ⟨h1, _, .inl ⟨h2, rfl⟩, .inl ⟨h3, h4⟩⟩)))
      · exact .inr (.inr (.inr (.inr ⟨h1, _, .inl ⟨h2, rfl⟩, .inr ⟨h3, h4⟩⟩)))
    case more =>
      have hreceive : c.receive t.exch.address ch framing = .more d ∧ d.collecting = true := by
        rw [hframing, receive_of_collecting hcollecting]
        rcases hmore with ⟨rfl, hescape, hposition, rfl⟩ | ⟨hbyte, hplaces⟩
        · exact ⟨collect_escape hposition hescape, hcollecting⟩
        · have hplaced : c.Places t.exch.address b d := hplaces
          exact ⟨(collect_byte hmark hend hplaced.position_ne hbyte).trans (place_of_places hplaced),
            hplaced.collecting.trans hcollecting⟩
      rw [collectCharacter_of_more hreceive.1 hreceive.2, Turn.collecting, ← hphase]
      exact congrArg Host.Outcome.next (onLine_congr rfl)
    case complete =>
      subst hch hframing
      obtain ⟨-, c', hc', hreceive⟩ := receive_beforeEnd hbefore
      obtain rfl : c' = c := Option.some.inj (hc'.symm.trans hc)
      rw [collectCharacter_of_complete hreceive, State.onFrame]
      refine ⟨fun hframe hkind hempty hseq => ?sequence, fun e hnot hstation hentry => ?protocol⟩
      case sequence =>
        subst hempty
        rw [hframe]
        simp only [classify_otherSequence hkind hseq]
      case protocol =>
        have hbad : ¬ WellFormedReply t.exch.frame control payload := fun h => hnot (hwf.2 h)
        have hfound := entryOf_of_station hstation hentry
        simp only [classify_of_not_wellFormed hbad]
        refine ⟨fun hexempt => ?_, fun hkind hpending => ?_⟩
        · rw [noteProtocolError_of_exempt hfound hexempt]
        · rw [noteProtocolError_of_counted hfound hkind hpending]
          rfl

end Sys2Proof.Machine

/-! What is sent is read back: the collector on the characters of a frame, the receiver on the levels of a character
(3.2, 3.5, R36, R38). -/

namespace Sys2Proof.Machine

/-! ### The collector on a frame (R39 to R41, R47 to R50) -/

section
variable {address ch b : Byte} {c d : Collector}

theorem feed_of_more (h : c.receive address ch false = .more d) (chs : List Byte) :
    Collector.feed address c (ch :: chs) = Collector.feed address d chs := by
  rw [Collector.feed, h]

theorem feed_of_complete {control : Byte} {payload : List Byte} (h : c.receive address ch false = .complete control payload)
    (chs : List Byte) : Collector.feed address c (ch :: chs) = .complete control payload := by
  rw [Collector.feed, h]

/-- A byte that is not a reserved character goes as it is. -/
theorem feed_plainByte (hcollecting : c.collecting = true) (hmark : ch ≠ 0xC5) (hend : ch ≠ 0xCA) (hbyte : c.Carries ch b)
    (hplaces : c.Places address b d) (chs : List Byte) :
    Collector.feed address c (ch :: chs) = Collector.feed address d chs :=
  feed_of_more ((receive_of_collecting hcollecting _ _ _).trans
    ((collect_byte hmark hend hplaces.position_ne hbyte).trans (place_of_places hplaces))) chs

theorem Collector.Places.escaped (h : c.Places address b d) : { c with escape := true }.Places address b d := h

/-- R40: the characters of one byte put it in its place. -/
theorem feed_escapeByte (hcollecting : c.collecting = true) (hescape : c.escape = false) (hplaces : c.Places address b d)
    (chs : List Byte) : Collector.feed address c (escapeByte b ++ chs) = Collector.feed address d chs := by
  unfold escapeByte
  split
  · next hreserved =>
    have hmark : flipTop b ≠ 0xC5 := by rcases hreserved with rfl | rfl | rfl <;> decide
    have hend : flipTop b ≠ 0xCA := by rcases hreserved with rfl | rfl | rfl <;> decide
    have hback : b = flipTop b ^^^ 0x80 := by rw [flipTop, BitVec.xor_assoc, BitVec.xor_self, BitVec.xor_zero]
    have hopened : c.receive address 0xD7 false = .more { c with escape := true } :=
      (receive_of_collecting hcollecting _ _ _).trans (collect_escape hplaces.position_ne hescape)
    exact (feed_of_more hopened _).trans
      (feed_plainByte (c := { c with escape := true }) hcollecting hmark hend (.inl ⟨rfl, hback⟩) hplaces.escaped chs)
  · next hplain =>
    push Not at hplain
    obtain ⟨hmark, hend, hescapeChar⟩ := hplain
    exact feed_plainByte hcollecting hmark hend (.inr ⟨hescape, hescapeChar, rfl⟩) hplaces chs

end

/-- A collector before the payload's byte `remaining` from the end, with the check and the bytes of what went before. -/
def payloadCollector (address control length : Byte) (remaining : Nat) (store : List Byte) (check : Half) : Collector :=
  ⟨true, false, if remaining = 0 then .checkHigh else .payload, address, control, length, remaining, store, check, 0⟩

theorem feed_payload (address control length : Byte) (chs : List Byte) : ∀ (payload store : List Byte) (check : Half),
    Collector.feed address (payloadCollector address control length payload.length store check)
        (payload.flatMap escapeByte ++ chs)
      = Collector.feed address (payloadCollector address control length 0 (store ++ payload) (payload.foldl checkByte check)) chs
  | [], store, check => by rw [List.append_nil]; rfl
  | b :: payload, store, check => by
    have hplaces : (payloadCollector address control length (b :: payload).length store check).Places address b
        (payloadCollector address control length payload.length (store ++ [b]) (checkByte check b)) := by
      refine .inr (.inr (.inr (.inl ⟨by simp [payloadCollector], by simp [payloadCollector]⟩)))
    rw [List.flatMap_cons, List.append_assoc, feed_escapeByte (c := payloadCollector ..) rfl rfl hplaces,
      feed_payload address control length chs payload (store ++ [b]) (checkByte check b), List.append_assoc]
    rfl

/-- R41: the check's two bytes, received high byte first. -/
theorem received_checkBytes (v zero : Half) :
    (v.extractLsb' 8 8 ++ zero.extractLsb' 0 8 : Half).extractLsb' 8 8 ++ v.extractLsb' 0 8 = v := by
  apply BitVec.eq_of_getLsbD_eq
  intro i hi
  simp only [BitVec.getLsbD_append, BitVec.getLsbD_extractLsb']
  by_cases hlow : i < 8
  · simp [hlow]
  · simp [hlow, show i - 8 < 8 by omega, show 8 + (i - 8) = i by omega]

/-- Address, control and length. -/
theorem feed_header (address control : Byte) {length : Nat} (h : length ≤ 240) (chs : List Byte) :
    Collector.feed address Collector.started (([address, control, BitVec.ofNat 8 length] : List Byte).flatMap escapeByte ++ chs)
      = Collector.feed address (payloadCollector address control (BitVec.ofNat 8 length) length []
          ([address, control, BitVec.ofNat 8 length].foldl checkByte 0xFFFF)) chs := by
  have hlength : (BitVec.ofNat 8 length).toNat = length := by
    rw [BitVec.toNat_ofNat]; exact Nat.mod_eq_of_lt (by omega)
  have hzero : BitVec.ofNat 8 length = 0 ↔ length = 0 :=
    ⟨fun h => by rw [← hlength, h]; rfl, fun h => by rw [h]; rfl⟩
  have hplaced : Collector.Places ⟨true, false, .length, address, control, 0, 0, [], [address, control].foldl checkByte 0xFFFF, 0⟩
      address (BitVec.ofNat 8 length) (payloadCollector address control (BitVec.ofNat 8 length) length []
        ([address, control, BitVec.ofNat 8 length].foldl checkByte 0xFFFF)) :=
    .inr (.inr (.inl ⟨rfl, by omega, by simp only [payloadCollector, hlength, hzero]; rfl⟩))
  simp only [List.flatMap_cons, List.flatMap_nil, List.append_assoc, List.nil_append]
  exact (feed_escapeByte (c := Collector.started) rfl rfl (.inl ⟨rfl, rfl, rfl⟩) _).trans
    ((feed_escapeByte rfl rfl (.inr (.inl ⟨rfl, rfl⟩)) _).trans (feed_escapeByte rfl rfl hplaced chs))

/-- The check's bytes and END. -/
theorem feed_checkBytes (address control length : Byte) (store : List Byte) (v : Half) :
    Collector.feed address (payloadCollector address control length 0 store v) ((checkBytes v).flatMap escapeByte ++ [0xCA])
      = .complete control store := by
  simp only [checkBytes, List.flatMap_cons, List.flatMap_nil, List.append_assoc, List.nil_append]
  rw [feed_escapeByte (c := payloadCollector ..) rfl rfl (.inr (.inr (.inr (.inr (.inl ⟨rfl, rfl⟩))))),
    feed_escapeByte rfl rfl (.inr (.inr (.inr (.inr (.inr ⟨rfl, rfl⟩))))),
    feed_of_complete ((receive_of_collecting rfl _ _ _).trans (collect_end_complete rfl rfl (received_checkBytes v 0).symm))]
  rfl

/-- R39: the collector from MARK to END. -/
theorem feed_frameChars (address control : Byte) (payload : List Byte) (h : payload.length ≤ 240) :
    Collector.feed address Collector.waiting (frameChars address control payload) = .complete control payload := by
  have hmark : Collector.waiting.receive address 0xC5 false = .more Collector.started := rfl
  have hcheck : checkOf (frameBody address control payload)
      = payload.foldl checkByte ([address, control, BitVec.ofNat 8 payload.length].foldl checkByte 0xFFFF) := by
    rw [checkOf, frameBody, List.foldl_append]
  rw [frameChars, hcheck, frameBody, List.append_assoc, List.append_assoc, List.singleton_append, List.flatMap_append,
    List.flatMap_append, List.append_assoc, List.append_assoc]
  refine (feed_of_more hmark _).trans ?_
  rw [feed_header address control h, feed_payload, List.nil_append]
  exact feed_checkBytes ..

/-! ### The receiver on runs of samples (R36, R38) -/

/-- Sixteen samples a level: the samples of level `k`. -/
theorem getD_samples : ∀ (levels : List Bool) (k m : Nat) (d : Bool) (h : k < levels.length), m < 16 →
    (levels.flatMap (List.replicate 16)).getD (16 * k + m) d = levels[k]
  | [], _, _, _, h, _ => absurd h (Nat.not_lt_zero _)
  | x :: levels, 0, m, d, _, hm => by
    have hin : 16 * 0 + m < (List.replicate 16 x).length := by rw [List.length_replicate]; omega
    rw [List.flatMap_cons, List.getD_append _ _ _ _ hin, List.getD_eq_getElem _ _ hin, List.getElem_replicate]
    rfl
  | x :: levels, k + 1, m, d, h, hm => by
    have hplace : 16 * (k + 1) + m = (List.replicate 16 x).length + (16 * k + m) := by rw [List.length_replicate]; omega
    rw [List.flatMap_cons, hplace, List.getD_append_right _ _ _ _ (Nat.le_add_right _ _), Nat.add_sub_cancel_left]
    exact getD_samples levels k m d (Nat.lt_of_succ_lt_succ h) hm

theorem majority_self (b : Bool) : majority b b b = b := by cases b <;> rfl

theorem bitTaken_samples {levels : List Bool} {k : Nat} (h : k < levels.length) :
    bitTaken (levels.flatMap (List.replicate 16)) k = levels[k] := by
  rw [bitTaken, getD_samples _ _ _ _ h (by omega), getD_samples _ _ _ _ h (by omega), getD_samples _ _ _ _ h (by omega),
    majority_self]

/-- The bits of a character are taken from its first 154 samples. -/
theorem bitTaken_take {samples : List Bool} {k : Nat} (h : k ≤ 9) : bitTaken (samples.take 154) k = bitTaken samples k := by
  have hkept : ∀ i < 154, (samples.take 154).getD i false = samples.getD i false := fun i hi => by
    rw [List.getD_eq_getElem?_getD, List.getD_eq_getElem?_getD, List.getElem?_take_of_lt hi]
  rw [bitTaken, bitTaken, hkept _ (by omega), hkept _ (by omega), hkept _ (by omega)]

theorem dataTaken_take (samples : List Bool) : dataTaken (samples.take 154) = dataTaken samples := by
  simp only [dataTaken, bitTaken_take (show 8 ≤ 9 by omega), bitTaken_take (show 7 ≤ 9 by omega),
    bitTaken_take (show 6 ≤ 9 by omega), bitTaken_take (show 5 ≤ 9 by omega), bitTaken_take (show 4 ≤ 9 by omega),
    bitTaken_take (show 3 ≤ 9 by omega), bitTaken_take (show 2 ≤ 9 by omega), bitTaken_take (show 1 ≤ 9 by omega)]

/-- R38: from the falling edge on, the first 154 samples are a character, if the middle of the start bit is at level 0. -/
theorem feed_character (de : Bool) {samples rest : List Bool} {last : Bool} (hlength : samples.length = 152)
    (hmiddle : (false :: samples).getD 8 false = false) :
    Receiver.feed ⟨true, .idle⟩ de (false :: (samples ++ last :: rest))
      = ((Receiver.feed ⟨last, if bitTaken (false :: samples ++ [last]) 9 then .idle else .hold 0⟩ de rest).1,
        ⟨dataTaken (false :: samples ++ [last]), !bitTaken (false :: samples ++ [last]) 9, de⟩
          :: (Receiver.feed ⟨last, if bitTaken (false :: samples ++ [last]) 9 then .idle else .hold 0⟩ de rest).2) := by
  have hedge : Receiver.sample ⟨true, .idle⟩ de false = (⟨false, .character de [false]⟩, none) := rfl
  have hwithin := feed_within de de samples [false] false (by rw [hlength]; decide) hmiddle
  have hstop := sample_stop de de (samples.getLastD false) last (false :: samples) (by rw [List.length_cons, hlength])
  rw [Receiver.feed]
  simp only [hedge]
  rw [feed_append, hwithin]
  simp only [Receiver.feed, List.singleton_append, hstop]
  rfl

/-- R38: a run that begins at the falling edge and holds a whole character. -/
theorem feed_whole (de : Bool) {levels : List Bool} (hlength : 154 ≤ levels.length) (hstart : levels.getD 0 true = false)
    (hmiddle : levels.getD 8 false = false) :
    Receiver.feed ⟨true, .idle⟩ de levels
      = ((Receiver.feed ⟨levels.getD 153 false, if bitTaken levels 9 then .idle else .hold 0⟩ de (levels.drop 154)).1,
        ⟨dataTaken levels, !bitTaken levels 9, de⟩
          :: (Receiver.feed ⟨levels.getD 153 false, if bitTaken levels 9 then .idle else .hold 0⟩ de (levels.drop 154)).2) := by
  have h0 : levels[0] = false := by rw [← List.getD_eq_getElem levels true (by omega)]; exact hstart
  have hlast : levels.getD 153 false = levels[153] := List.getD_eq_getElem ..
  have hwhole : levels.take 154 = false :: (levels.take 153).tail ++ [levels[153]] := by
    rw [List.take_succ_eq_append_getElem (by omega), ← h0, List.cons_append]
    cases levels with
    | nil => simp at hlength
    | cons x xs => rfl
  have hsplit : levels = false :: ((levels.take 153).tail ++ levels[153] :: levels.drop 154) := by
    conv_lhs => rw [← List.take_append_drop 154 levels, hwhole]
    simp
  have hsamples : ((levels.take 153).tail).length = 152 := by rw [List.length_tail, List.length_take]; omega
  have hmid : (false :: (levels.take 153).tail).getD 8 false = false := by
    have hkept : (levels.take 154).getD 8 false = levels.getD 8 false := by
      rw [List.getD_eq_getElem?_getD, List.getD_eq_getElem?_getD, List.getElem?_take_of_lt (by omega)]
    have hin : 8 < (false :: (levels.take 153).tail).length := by rw [List.length_cons, hsamples]; omega
    exact (List.getD_append _ [levels[153]] _ _ hin).symm.trans ((congrArg (List.getD · 8 false) hwhole.symm).trans
      (hkept.trans hmiddle))
  have hrun := feed_character de (rest := levels.drop 154) (last := levels[153]) hsamples hmid
  rw [← hsplit, ← hwhole, bitTaken_take (le_refl 9), dataTaken_take, ← hlast] at hrun
  exact hrun

theorem feed_idle (de : Bool) : ∀ k, Receiver.feed ⟨true, .idle⟩ de (List.replicate k true) = (⟨true, .idle⟩, [])
  | 0 => rfl
  | k + 1 => by
    have hnext : Receiver.sample ⟨true, .idle⟩ de true = (⟨true, .idle⟩, none) := rfl
    simp only [List.replicate_succ, Receiver.feed, hnext, feed_idle de k]
    rfl

theorem feed_hold (de : Bool) : ∀ k, Receiver.feed ⟨false, .hold 0⟩ de (List.replicate k false) = (⟨false, .hold 0⟩, [])
  | 0 => rfl
  | k + 1 => by
    have hnext : Receiver.sample ⟨false, .hold 0⟩ de false = (⟨false, .hold 0⟩, none) := rfl
    simp only [List.replicate_succ, Receiver.feed, hnext, feed_hold de k]
    rfl

/-- The samples of a character with its stop bit at level `stop`. -/
def characterSamples (ch : Byte) (stop : Bool) : List Bool := ((charLevels ch).dropLast ++ [stop]).flatMap (List.replicate 16)

theorem dataTaken_characterSamples (ch : Byte) (stop : Bool) : dataTaken (characterSamples ch stop) = ch := by
  have hbit : ∀ k (hk : k < 8), bitTaken (characterSamples ch stop) (k + 1) = ch.getLsbD k := fun k hk => by
    have hin : k + 1 < ((charLevels ch).dropLast ++ [stop]).length := by
      change k + 1 < 10
      omega
    rw [characterSamples, bitTaken_samples hin]
    interval_cases k <;> rfl
  simp only [dataTaken, hbit 0 (by decide), hbit 1 (by decide), hbit 2 (by decide), hbit 3 (by decide), hbit 4 (by decide),
    hbit 5 (by decide), hbit 6 (by decide), hbit 7 (by decide)]
  apply BitVec.eq_of_getLsbD_eq
  intro i hi
  simp only [BitVec.getLsbD_append, BitVec.getLsbD_ofBool]
  interval_cases i <;> simp

/-- R38: the receiver fed the samples of one character. -/
theorem feed_characterSamples (ch : Byte) (stop de : Bool) : Receiver.feed ⟨true, .idle⟩ de (characterSamples ch stop)
    = ((Receiver.feed ⟨stop, if stop then .idle else .hold 0⟩ de (List.replicate 6 stop)).1,
      ⟨ch, !stop, de⟩ :: (Receiver.feed ⟨stop, if stop then .idle else .hold 0⟩ de (List.replicate 6 stop)).2) := by
  have hstop : bitTaken (characterSamples ch stop) 9 = stop :=
    bitTaken_samples (levels := (charLevels ch).dropLast ++ [stop]) (k := 9) (by decide : 9 < 10)
  have hrun := feed_whole de (levels := characterSamples ch stop) (by decide : 154 ≤ 160) rfl rfl
  rw [hstop, dataTaken_characterSamples] at hrun
  exact hrun

/-- Settles O44 (R36, R38 to R41, R47 to R50). -/
theorem collectorReadsFramesSent : Obligations.CollectorReadsFramesSent := by
  refine ⟨feed_frameChars, fun ch de => ?good, fun ch de => ?framing, fun k de => ⟨?held, ?released⟩, fun i de h1 h8 => ?noise,
    fun s n level => ⟨rxdSampled_disabled s n level, fun rx out henabled hsample => ?queue⟩⟩
  case good => exact (feed_characterSamples ch true de).trans (by rw [if_pos rfl, feed_idle]; rfl)
  case framing => exact (feed_characterSamples ch false de).trans (by rw [if_neg Bool.false_ne_true, feed_hold]; rfl)
  case held =>
    have hlow : ∀ i, (List.replicate (154 + k) false).getD i false = false := fun i => by
      rw [List.getD_eq_getElem?_getD, List.getElem?_replicate]; split <;> rfl
    have hbit : ∀ i, bitTaken (List.replicate (154 + k) false) i = false := fun i => by simp only [bitTaken, hlow, majority_self]
    have hstart : (List.replicate (154 + k) false).getD 0 true = false := by rw [Nat.add_comm]; rfl
    rw [feed_whole de (by rw [List.length_replicate]; omega) hstart (hlow 8), hbit, hlow, if_neg Bool.false_ne_true,
      List.drop_replicate, Nat.add_sub_cancel_left, feed_hold]
    simp only [dataTaken, hbit]
    rfl
  case released => cases de <;> rfl
  case noise => interval_cases i <;> rfl
  case queue =>
    have hon : (s.line n).enabled = true := (Line.enabled_iff _).2 henabled
    rw [State.rxdSampled, if_pos hon, hsample]
    cases out with
    | none => simp only [Option.toList_none, List.map_nil, List.append_nil]
    | some c => rfl

end Sys2Proof.Machine

/-! The rules behind every settlement: records offered in a row, the held latch, and what changes only requests and lists. -/

namespace Sys2Proof.Machine

/-! ### Records offered in a row (R150) -/

/-- Offering a record changes the Event Unit alone. -/
theorem offer_eq (s : State) (r : EventRecord) : s.offer r = { s with events := (s.offer r).events } := by
  unfold State.offer
  split <;> rfl

theorem foldl_offer_eq : ∀ (rs : List EventRecord) (s : State),
    rs.foldl State.offer s = { s with events := (rs.foldl State.offer s).events }
  | [], _ => rfl
  | r :: rs, s => by
    rw [List.foldl_cons, foldl_offer_eq rs (s.offer r), offer_eq s r]

theorem control_foldl_offer (rs : List EventRecord) (s : State) : (rs.foldl State.offer s).control = s.control := by
  rw [foldl_offer_eq rs s]

theorem er_foldl_offer (rs : List EventRecord) (s : State) : (rs.foldl State.offer s).er = s.er := by
  rw [foldl_offer_eq rs s]

theorem active_congr {s t : State} (h : t.control = s.control) : t.active = s.active := by
  unfold State.active State.running State.stopping
  rw [h]

theorem events_offer_congr {s t : State} (hcontrol : t.control = s.control) (her : t.er = s.er) (hevents : t.events = s.events)
    (r : EventRecord) : (t.offer r).events = (s.offer r).events := by
  unfold State.offer
  rw [active_congr hcontrol, her, hevents]
  split
  · rfl
  · exact hevents

theorem events_foldl_offer_congr : ∀ (rs : List EventRecord) {s t : State}, t.control = s.control → t.er = s.er →
    t.events = s.events → (rs.foldl State.offer t).events = (rs.foldl State.offer s).events
  | [], _, _, _, _, hevents => hevents
  | r :: rs, s, t, hcontrol, her, hevents => by
    refine events_foldl_offer_congr rs ?_ ?_ (events_offer_congr hcontrol her hevents r)
    · rw [control_offer, control_offer, hcontrol]
    · rw [er_offer, er_offer, her]

/-! ### What a selection reads (R94) -/

section
variable {s t : State} {n : LineNo}

theorem head?_congr (hslots : ∀ k, t.request? n k = s.request? n k) (e : Station) : t.head? n e = s.head? n e := by
  unfold State.head?
  simp only [hslots]

theorem choose_congr (hsched : (t.line n).sched = (s.line n).sched) (hpool : (t.line n).pool = (s.line n).pool)
    (hring : t.ring n = s.ring n) (hnow : t.now = s.now) : t.choose n = s.choose n := by
  have hslots : ∀ k, t.request? n k = s.request? n k := request?_congr (by rw [hpool])
  have heligible : ∀ e, t.eligible? n e = s.eligible? n e := fun e => by
    unfold State.eligible?; rw [head?_congr hslots]
  have hready : t.queryPollReady n = s.queryPollReady n := funext fun e => by
    unfold State.queryPollReady; rw [head?_congr hslots, hnow]
  have hbroadcast : t.broadcastHead? n = s.broadcastHead? n := by
    unfold State.broadcastHead? State.slotIs; simp only [hpool, hslots]
  have hpick : ∀ es, t.pickRequest n es = s.pickRequest n es := fun es => by
    unfold State.pickRequest; simp only [heligible]
  rw [choose_steps, choose_steps, chooseRequest_eq, chooseRequest_eq, hsched, hring, hready, hbroadcast, hpick, hpick]

/-- The same line, ring, moment and admin work: held or not alike. -/
theorem isHeld_congr (hcontrol : t.control = s.control) (hadmin : t.admin = s.admin) (hnow : t.now = s.now)
    (hring : t.ring n = s.ring n) (hstate : (t.line n).state = (s.line n).state)
    (hsched : (t.line n).sched = (s.line n).sched) (hpool : (t.line n).pool = (s.line n).pool)
    (htaken : (t.line n).post.taken = (s.line n).post.taken) : t.isHeld n = s.isHeld n := by
  unfold State.isHeld State.mayStart State.running State.resetting State.disabling Line.gateStuck State.hasTurn
  rw [hcontrol, hadmin, hstate, htaken, hpool, hsched, choose_congr hsched hpool hring hnow]

end

/-! ### The held latch at a settlement (R145, R146) -/

/-- R146: the line with its held latch at `b`. -/
def Line.latched (l : Line) (b : Bool) : Line := { l with post := { l.post with held := b } }

theorem isHeld_latched (s : State) (n : LineNo) (b : Bool) : (s.onLine n (Line.latched · b)).isHeld n = s.isHeld n := by
  refine isHeld_congr rfl rfl rfl rfl ?_ ?_ ?_ ?_ <;> rw [line_onLine, if_pos rfl] <;> rfl

theorem isHeld_offer (s : State) (r : EventRecord) (n : LineNo) : (s.offer r).isHeld n = s.isHeld n :=
  isHeld_congr (control_offer ..) (admin_offer ..) (now_offer ..) (ring_offer ..) (by rw [line_offer]) (by rw [line_offer])
    (by rw [line_offer]) (by rw [line_offer])

theorem heldOnset_iff (s u : State) (n : LineNo) :
    State.HeldOnset n s u ↔ (s.line n).post.held = false ∧ u.isHeld n = true := by
  rw [isHeld_iff]
  rfl

theorem not_isHeld_of_gateOpen {s : State} {n : LineNo} (h : (s.line n).gateOpen = true) : s.isHeld n = false := by
  obtain ⟨hempty, hplaces⟩ := (gateOpen_iff _).1 h
  have hstuck : (s.line n).gateStuck = false := by
    rw [Line.gateStuck, hempty]
    exact decide_eq_false (by simpa using hplaces)
  rw [State.isHeld, hstuck, Bool.and_false, Bool.false_and]

theorem gateOpen_latched (l : Line) (b : Bool) : (l.latched b).gateOpen = l.gateOpen := rfl

/-- Records offered and then the held latch settled: what the statements call Offered. `w` is the state before the latch. -/
theorem offered_settleHeld {s w : State} {n : LineNo} {records : List EventRecord} (hcontrol : w.control = s.control)
    (her : w.er = s.er) (hcq : w.cq = s.cq) (hheld : (w.line n).post.held = (s.line n).post.held)
    (hevents : w.events = (records.foldl State.offer s).events) : State.Offered n records s (w.settleHeld n) := by
  unfold State.Offered
  rw [heldOnset_iff]
  have hgate : ∀ l : Line, l.gateOpen = true ↔ (l.pool.doneOrder = [] ∧ l.post.taken < 6) := gateOpen_iff
  simp only [← hgate]
  by_cases hopen : (w.line n).gateOpen = true
  case pos =>
    have hsettled : w.settleHeld n = w.onLine n (Line.latched · false) := if_pos hopen
    have hline : (w.settleHeld n).line n = (w.line n).latched false := by rw [hsettled, line_onLine, if_pos rfl]
    have hno : (w.settleHeld n).isHeld n = false := by rw [hsettled, isHeld_latched, not_isHeld_of_gateOpen hopen]
    have hevs : (w.settleHeld n).events = w.events := by rw [hsettled]; rfl
    refine ⟨fun ⟨_, h⟩ => absurd h (by rw [hno]; decide), fun _ => ⟨hevs.trans hevents, ?_⟩⟩
    rw [hline, gateOpen_latched, hopen]
    exact ⟨fun h => (by cases h), fun ⟨_, h⟩ => absurd rfl h⟩
  case neg =>
    by_cases honset : w.isHeld n = true ∧ (w.line n).post.held = false
    case pos =>
      have hsettled : w.settleHeld n = (w.onLine n (Line.latched · true)).offer
          ⟨.lineHeld, BitVec.ofNat 8 n.val, 0, BitVec.ofNat 16 (w.cqOf n).unconsumed, 0, false⟩ := by
        rw [State.settleHeld, if_neg hopen, if_pos (by rw [honset.1, honset.2]; rfl)]
        rfl
      have hyes : (w.settleHeld n).isHeld n = true := by rw [hsettled, isHeld_offer, isHeld_latched, honset.1]
      have hunconsumed : (w.cqOf n).unconsumed = (s.cqOf n).unconsumed := by
        unfold State.cqOf State.cqRing; rw [hcq]
      refine ⟨fun _ => ⟨?_, ?_⟩, fun h => absurd ⟨hheld.symm.trans honset.2, hyes⟩ h⟩
      · rw [hsettled, line_offer, line_onLine, if_pos rfl]; rfl
      · rw [hsettled, List.foldl_append, hunconsumed]
        exact events_offer_congr (t := w.onLine n (Line.latched · true)) (s := records.foldl State.offer s)
          (hcontrol.trans (control_foldl_offer ..).symm) (her.trans (er_foldl_offer ..).symm) hevents _
    case neg =>
      have hguard : ¬ (w.isHeld n && !(w.line n).post.held) = true := by
        rw [Bool.and_eq_true, Bool.not_eq_true']; exact honset
      have hsettled : w.settleHeld n = w := by rw [State.settleHeld, if_neg hopen, if_neg hguard]
      rw [hsettled]
      refine ⟨fun ⟨h, h'⟩ => absurd ⟨h', hheld.trans h⟩ honset, fun _ => ⟨hevents, ?_⟩⟩
      rw [hheld]
      exact ⟨fun h => ⟨h, hopen⟩, fun h => h.1⟩

/-- The records offered are judged alike against two states with the same latch, Event Unit, Control Unit and rings. -/
theorem offered_congr {b s u : State} {n : LineNo} {records : List EventRecord} (hcontrol : b.control = s.control)
    (her : b.er = s.er) (hcq : b.cq = s.cq) (hheld : (b.line n).post.held = (s.line n).post.held) (hevents : b.events = s.events)
    (h : State.Offered n records b u) : State.Offered n records s u := by
  have hcqOf : b.cqOf n = s.cqOf n := by unfold State.cqOf State.cqRing; rw [hcq]
  have hrecords : ∀ rs : List EventRecord, (rs.foldl State.offer b).events = (rs.foldl State.offer s).events :=
    fun rs => events_foldl_offer_congr rs hcontrol her hevents
  unfold State.Offered at h ⊢
  rw [heldOnset_iff] at h ⊢
  simpa only [hcqOf, hrecords, hheld] using h

/-! ### What changes only requests and lists -/

/-- Line `n`'s pool and the lists of its entries may have changed, and nothing else. -/
structure State.OnlyRequests (n : LineNo) (s t : State) : Prop where
  settling : State.Settling n s t
  events : t.events = s.events
  admin : t.admin = s.admin
  port : t.port = s.port
  line : t.line n = { s.line n with pool := (t.line n).pool }
  entry : ∀ a e, s.station? n a = some e → ∃ p, t.station? n a = some { e with pending := p }
  absent : ∀ a, s.station? n a = none → t.station? n a = none

namespace State.OnlyRequests

variable {n : LineNo} {s t u : State}

theorem refl (n : LineNo) (s : State) : State.OnlyRequests n s s where
  settling := .refl n s
  events := rfl
  admin := rfl
  port := rfl
  line := rfl
  entry := fun _ e h => ⟨e.pending, h⟩
  absent := fun _ h => h

theorem trans (h : State.OnlyRequests n s t) (k : State.OnlyRequests n t u) : State.OnlyRequests n s u where
  settling := h.settling.trans k.settling
  events := k.events.trans h.events
  admin := k.admin.trans h.admin
  port := k.port.trans h.port
  line := k.line.trans (by rw [h.line])
  entry := fun a e he => by
    obtain ⟨p, hp⟩ := h.entry a e he
    obtain ⟨q, hq⟩ := k.entry a _ hp
    exact ⟨q, hq⟩
  absent := fun a ha => k.absent a (h.absent a ha)

theorem control (h : State.OnlyRequests n s t) : t.control = s.control := h.settling.device.1

theorem er (h : State.OnlyRequests n s t) : t.er = s.er := h.settling.device.2.2.2.2.1

theorem cq (h : State.OnlyRequests n s t) : t.cq = s.cq := h.settling.device.2.2.1

theorem now (h : State.OnlyRequests n s t) : t.now = s.now := h.settling.now

theorem sched (h : State.OnlyRequests n s t) : (t.line n).sched = (s.line n).sched := by rw [h.line]

theorem post (h : State.OnlyRequests n s t) : (t.line n).post = (s.line n).post := by rw [h.line]

theorem buf (h : State.OnlyRequests n s t) : (t.line n).buf = (s.line n).buf := by rw [h.line]

theorem config (h : State.OnlyRequests n s t) : (t.line n).config = (s.line n).config := by rw [h.line]

theorem state (h : State.OnlyRequests n s t) : (t.line n).state = (s.line n).state := by rw [h.line]

theorem quiet (h : State.OnlyRequests n s t) : State.Quiet n s t :=
  ⟨h.admin, h.port, h.sched, by rw [h.line]⟩

theorem running (h : State.OnlyRequests n s t) : t.running = s.running := by
  unfold State.running; rw [h.control]

theorem stopping (h : State.OnlyRequests n s t) : t.stopping = s.stopping := by
  unfold State.stopping; rw [h.control]

end State.OnlyRequests

theorem station?_makeDone_absent {s : State} {n : LineNo} {a : Byte} (h : s.station? n a = none) (k : SlotNo)
    (st : LineStatus) (f : Request → Request) : (s.makeDone n k st f).station? n a = none := by
  unfold State.makeDone
  split
  · split
    · exact h
    · rw [station?_unlist, station?_onLine, h]
      rfl
  · exact h

theorem onlyRequests_makeDone (n : LineNo) (s : State) (k : SlotNo) (st : LineStatus) (f : Request → Request) :
    State.OnlyRequests n s (s.makeDone n k st f) where
  settling := settling_makeDone n s k st f
  events := events_makeDone ..
  admin := admin_makeDone ..
  port := port_makeDone ..
  line := line_makeDone ..
  entry := fun _ _ h => station?_makeDone h k st f
  absent := fun _ h => station?_makeDone_absent h k st f

theorem line_onRequest (s : State) (n : LineNo) (k : SlotNo) (f : Request → Request) :
    (s.onRequest n k f).line n = { s.line n with pool := ((s.onRequest n k f).line n).pool } := by
  unfold State.onRequest
  rw [line_onLine, if_pos rfl]
  unfold Line.onRequest
  split <;> rfl

theorem onlyRequests_onRequest (n : LineNo) (s : State) (k : SlotNo) (f : Request → Request) :
    State.OnlyRequests n s (s.onRequest n k f) where
  settling := settling_onRequest n s k f
  events := rfl
  admin := rfl
  port := rfl
  line := line_onRequest ..
  entry := fun _ e h => ⟨e.pending, h⟩
  absent := fun _ h => h

theorem onlyRequests_foldl {α : Type} {n : LineNo} {f : State → α → State} (h : ∀ s a, State.OnlyRequests n s (f s a)) :
    ∀ (as : List α) (s : State), State.OnlyRequests n s (as.foldl f s)
  | [], s => .refl n s
  | a :: as, s => (h s a).trans (onlyRequests_foldl h as (f s a))

theorem onlyRequests_endAll (n : LineNo) (s : State) (st : LineStatus) (ks : List SlotNo) :
    State.OnlyRequests n s (s.endAll n st ks) :=
  onlyRequests_foldl (fun t k => by
    split
    · exact onlyRequests_makeDone n t k st id
    · exact .refl n t) ks s

theorem onlyRequests_flushSlots (n : LineNo) : ∀ (ks : List SlotNo) (s : State), State.OnlyRequests n s (s.flushSlots n ks)
  | [], s => .refl n s
  | k :: ks, s => by
    unfold State.flushSlots
    split
    · split
      · exact (onlyRequests_makeDone n s k .offline id).trans (onlyRequests_flushSlots n ks _)
      · exact .refl n s
    · exact .refl n s

theorem onlyRequests_flushOffline (n : LineNo) (s : State) (a : Byte) : State.OnlyRequests n s (s.flushOffline n a) := by
  unfold State.flushOffline
  split
  · split
    · exact onlyRequests_flushSlots n _ s
    · exact .refl n s
  · exact .refl n s

theorem onlyRequests_settleContinuing (n : LineNo) (s : State) (x : Exchange) (stay final : Request → Request) :
    State.OnlyRequests n s (s.settleContinuing n x stay final) := by
  unfold State.settleContinuing
  split
  · exact .refl n s
  · split
    · exact onlyRequests_makeDone n s _ _ final
    · exact onlyRequests_onRequest n s _ stay

theorem onlyRequests_settleAnswering (n : LineNo) (s : State) (x : Exchange) (ended : Bool) :
    State.OnlyRequests n s (s.settleAnswering n x ended) := by
  unfold State.settleAnswering
  split
  · exact .refl n s
  · split
    · exact .refl n s
    · split
      · split_ifs
        · exact onlyRequests_makeDone n s _ _ id
        · exact onlyRequests_onRequest n s _ _
      · exact .refl n s

theorem onlyRequests_abortBehind (n : LineNo) (s : State) (x : Exchange) : State.OnlyRequests n s (s.abortBehind n x) := by
  unfold State.abortBehind
  split
  · split
    · split
      · exact onlyRequests_endAll n s .aborted _
      · exact .refl n s
    · exact onlyRequests_endAll n s .aborted _
  · exact .refl n s

end Sys2Proof.Machine

/-! Line requests taken: examined, placed, or dealt with as overtaken (R10, R14, R20 to R23). -/

namespace Sys2Proof.Machine

/-! ### The five tests of a line request (R20) -/

/-- Figure 2-1: each kind with its code. -/
theorem recKind_cases (rec : List Byte) :
    (recKind rec = .send ∧ (byteAt rec 0).toNat = 1) ∨ (recKind rec = .query ∧ (byteAt rec 0).toNat = 2)
      ∨ (recKind rec = .resync ∧ (byteAt rec 0).toNat = 3) ∨ (recKind rec = .broadcast ∧ (byteAt rec 0).toNat = 4)
      ∨ (recKind rec = .other (byteAt rec 0) ∧ ((byteAt rec 0).toNat < 1 ∨ 4 < (byteAt rec 0).toNat)) := by
  unfold recKind
  generalize byteAt rec 0 = b
  have hcode : ∀ k : Nat, k < 256 → (b = BitVec.ofNat 8 k ↔ b.toNat = k) := fun k hk =>
    ⟨fun h => by rw [h, BitVec.toNat_ofNat]; exact Nat.mod_eq_of_lt hk, fun h => by rw [← h, BitVec.ofNat_toNat, BitVec.setWidth_eq]⟩
  have h1 : b = 1 ↔ b.toNat = 1 := hcode 1 (by decide)
  have h2 : b = 2 ↔ b.toNat = 2 := hcode 2 (by decide)
  have h3 : b = 3 ↔ b.toNat = 3 := hcode 3 (by decide)
  have h4 : b = 4 ↔ b.toNat = 4 := hcode 4 (by decide)
  unfold requestKindOf
  split_ifs with g1 g2 g3 g4
  · exact .inl ⟨rfl, h1.1 g1⟩
  · exact .inr (.inl ⟨rfl, h2.1 g2⟩)
  · exact .inr (.inr (.inl ⟨rfl, h3.1 g3⟩))
  · exact .inr (.inr (.inr (.inl ⟨rfl, h4.1 g4⟩)))
  · refine .inr (.inr (.inr (.inr ⟨rfl, ?_⟩)))
    rw [h1] at g1; rw [h2] at g2; rw [h3] at g3; rw [h4] at g4
    omega

theorem recKind_broadcast (rec : List Byte) : recKind rec = .broadcast ↔ (byteAt rec 0).toNat = 4 := by
  rcases recKind_cases rec with ⟨h, hk⟩ | ⟨h, hk⟩ | ⟨h, hk⟩ | ⟨h, hk⟩ | ⟨h, hk⟩ <;> rw [h]
  case inr.inr.inr.inr => exact iff_of_false (fun h => by cases h) (by omega)
  all_goals simp [hk]

theorem recKind_resync (rec : List Byte) : recKind rec = .resync ↔ (byteAt rec 0).toNat = 3 := by
  rcases recKind_cases rec with ⟨h, hk⟩ | ⟨h, hk⟩ | ⟨h, hk⟩ | ⟨h, hk⟩ | ⟨h, hk⟩ <;> rw [h]
  case inr.inr.inr.inr => exact iff_of_false (fun h => by cases h) (by omega)
  all_goals simp [hk]

theorem malformed_iff (rec : List Byte) : malformed rec = true ↔ RequestMalformed rec := by
  unfold malformed RequestMalformed
  rcases recKind_cases rec with ⟨h, hk⟩ | ⟨h, hk⟩ | ⟨h, hk⟩ | ⟨h, hk⟩ | ⟨h, hk⟩
  case inr.inr.inr.inr => rw [h]; exact iff_of_true rfl (.inl hk)
  all_goals
    rw [h, hk]
    simp [payloadLenBad]
    simp only [recStation, recPayloadLen, recAnswerCap, recAnswerWindow]
    omega

/-! ### The request in its slot (R22) -/

theorem exec_takeLineRequest {s : State} {n : LineNo} {a : Access} {rec : List Byte} (h : s.Awaits (.fetchRead n) a)
    (hlength : rec.length = 32) : exec (.takeLineRequest rec) s = .next ((s.finishAccess a).requestArrived n rec) := by
  obtain ⟨hflight, hkind, hheeds⟩ := h
  change Host.Outcome.next (s.afterTakeLineRequest rec) = _
  simp [State.afterTakeLineRequest, hflight, hkind, hheeds, hlength]

/-- The line with the request in the slot set aside for it. -/
def Line.filled (l : Line) (f : Fetch) (rec : List Byte) : Line :=
  { l with
    fetch := none
    pool := { l.pool with
      slots := l.pool.slots.set f.slot (.held (requestOf f.urgent l.pool.takes rec)), takes := l.pool.takes + 1 } }

theorem fillSlot_eq (s : State) (n : LineNo) (f : Fetch) (rec : List Byte) :
    s.fillSlot n f rec = s.onLine n fun l => l.filled f rec := rfl

/-- What the arrival of a request leaves of everything but slot `k`, the lists and the Admin Unit. -/
structure State.Arrived (n : LineNo) (k : SlotNo) (s t : State) : Prop where
  fetch : (t.line n).fetch = none
  slots : State.SlotsKept n k s t
  others : State.OthersKept n s t
  control : t.control = s.control
  cq : t.cq = s.cq
  bq : t.bq = s.bq
  er : t.er = s.er
  held : (t.line n).post.held = (s.line n).post.held

section
variable {s t : State} {n : LineNo}

/-- Another slot is not touched by a change of slot `k`. -/
theorem slots_set_ne {j k : SlotNo} (h : j ≠ k) (slots : Vector Slot 16) (v : Slot) : (slots.set k v)[j] = slots[j] :=
  Vector.getElem_set_ne k.isLt j.isLt fun h' => h (Fin.ext h'.symm)

theorem arrived_fillSlot (s : State) (n : LineNo) (a : Access) (f : Fetch) (rec : List Byte) :
    State.Arrived n f.slot s ((s.finishAccess a).fillSlot n f rec) := by
  have hline : ((s.finishAccess a).fillSlot n f rec).line n = (s.line n).filled f rec := by
    rw [fillSlot_eq, line_onLine, if_pos rfl]; rfl
  refine ⟨?_, fun j hj => ?_, fun m hm => ⟨?_, rfl⟩, rfl, rfl, rfl, rfl, ?_⟩
  · rw [hline]; rfl
  · rw [hline]; exact slots_set_ne hj ..
  · rw [fillSlot_eq, line_onLine, if_neg hm]; rfl
  · rw [hline]; rfl

theorem State.Arrived.onlyRequests {u : State} {k : SlotNo} (h : State.Arrived n k s t) (ho : State.OnlyRequests n t u)
    (hslots : State.SlotsKept n k t u) : State.Arrived n k s u where
  fetch := (by rw [ho.line] : (u.line n).fetch = (t.line n).fetch).trans h.fetch
  slots := fun j hj => (hslots j hj).trans (h.slots j hj)
  others := fun m hm => ⟨(ho.settling.others m hm).1.trans (h.others m hm).1, (ho.settling.others m hm).2.trans (h.others m hm).2⟩
  control := ho.control.trans h.control
  cq := ho.cq.trans h.cq
  bq := ho.settling.device.2.2.2.1.trans h.bq
  er := ho.er.trans h.er
  held := (congrArg PostingPath.held ho.post).trans h.held

/-- The held latch is all that follows. -/
theorem State.Arrived.settled {k : SlotNo} (h : State.Arrived n k s t) : ((t.settleHeld n).line n).fetch = none
    ∧ State.SlotsKept n k s (t.settleHeld n) ∧ State.OthersKept n s (t.settleHeld n) ∧ (t.settleHeld n).control = s.control
    ∧ (t.settleHeld n).cq = s.cq ∧ (t.settleHeld n).bq = s.bq ∧ (t.settleHeld n).er = s.er := by
  have hs := settling_settleHeld n t
  obtain ⟨hcontrol, -, hcq, hbq, her, -⟩ := hs.device
  refine ⟨hs.line.fetch.trans h.fetch, fun j hj => ?_, fun m hm => ?_, hcontrol.trans h.control, hcq.trans h.cq, hbq.trans h.bq,
    her.trans h.er⟩
  · rw [pool_settleHeld]; exact h.slots j hj
  · exact ⟨(hs.others m hm).1.trans (h.others m hm).1, (hs.others m hm).2.trans (h.others m hm).2⟩

theorem State.Arrived.offered {k : SlotNo} {records : List EventRecord} (h : State.Arrived n k s t)
    (hevents : t.events = (records.foldl State.offer s).events) : State.Offered n records s (t.settleHeld n) :=
  offered_settleHeld h.control h.er h.cq h.held hevents

/-- The slot just filled holds the request, WAITING. -/
theorem request?_fillSlot (s : State) (n : LineNo) (f : Fetch) (rec : List Byte) :
    (s.fillSlot n f rec).request? n f.slot = some (requestOf f.urgent (s.line n).pool.takes rec) := by
  rw [request?_eq, fillSlot_eq, line_onLine, if_pos rfl]
  unfold Line.held? Line.filled
  simp

theorem requestOf_waiting (urgent : Bool) (takes : Nat) (rec : List Byte) : (requestOf urgent takes rec).state ≠ .done := by
  intro h; cases h

/-- R84: a slot just made DONE stands on no list. -/
theorem not_listed_makeDone {k : SlotNo} {r : Request} (hr : s.request? n k = some r) (hopen : r.state ≠ .done)
    (st : LineStatus) (f : Request → Request) : ∀ e ∈ (s.makeDone n k st f).ring n, k ∉ e.pending := by
  intro e he
  rw [State.makeDone, hr] at he
  simp only [if_neg hopen] at he
  obtain ⟨hmem, hline⟩ := List.mem_filter.1 he
  obtain ⟨e₀, -, rfl⟩ := List.mem_map.1 hmem
  by_cases hn : e₀.line = n
  · simp [hn]
  · simp [hn] at hline

end

/-! ### Where a request goes (R21, R23) -/

/-- The state once a request has been examined or overtaken, before the held latch. -/
def State.requestPlaced (s : State) (n : LineNo) (f : Fetch) (rec : List Byte) : State :=
  if f.overtaken then (s.makeDone n f.slot .aborted id).noteMade n f.slot else s.examineRequest n f.slot f.urgent rec

theorem requestArrived_eq {s : State} {n : LineNo} {f : Fetch} (h : (s.line n).fetch = some f) (rec : List Byte) :
    s.requestArrived n rec = ((s.fillSlot n f rec).requestPlaced n f rec).settleHeld n := by
  simp only [State.requestArrived, h]
  rfl

theorem examineRequest_of_malformed {rec : List Byte} (h : RequestMalformed rec) (s : State) (n : LineNo) (k : SlotNo)
    (urgent : Bool) : s.examineRequest n k urgent rec = (s.makeDone n k .malformed id).haltRing n urgent :=
  if_pos ((malformed_iff rec).2 h)

/-- R21: a well-formed record goes on by its kind and station. -/
theorem examineRequest_of_wellFormed {rec : List Byte} (h : ¬ RequestMalformed rec) (s : State) (n : LineNo) (k : SlotNo)
    (urgent : Bool) : ((byteAt rec 0).toNat = 4 → s.examineRequest n k urgent rec = s.placeBroadcast n k)
      ∧ ((byteAt rec 0).toNat ≠ 4 → s.station? n (byteAt rec 1) = none →
        s.examineRequest n k urgent rec = s.makeDone n k .noStation id)
      ∧ ∀ e, (byteAt rec 0).toNat ≠ 4 → s.station? n (byteAt rec 1) = some e →
        s.examineRequest n k urgent rec = s.placeForStation n k e (recKind rec) := by
  have hgood : ¬ malformed rec = true := fun h' => h ((malformed_iff rec).1 h')
  refine ⟨fun hkind => ?_, fun hkind hnone => ?_, fun e hkind hsome => ?_⟩
  · rw [State.examineRequest, if_neg hgood, if_pos ((recKind_broadcast rec).2 hkind)]
  · rw [State.examineRequest, if_neg hgood, if_neg (fun h => hkind ((recKind_broadcast rec).1 h)), recStation, hnone]
  · rw [State.examineRequest, if_neg hgood, if_neg (fun h => hkind ((recKind_broadcast rec).1 h)), recStation, hsome]

theorem stations_settleHeld (s : State) (n : LineNo) : (s.settleHeld n).stations = s.stations := by
  unfold State.settleHeld
  split
  · rfl
  · split
    · rw [stations_offer]; rfl
    · rfl

theorem sqRing_settleHeld (s : State) (n : LineNo) (k : Fin 9) : (s.settleHeld n).sqRing k = s.sqRing k := by
  have hsq : (s.settleHeld n).sq = s.sq := (settling_settleHeld n s).device.2.1
  unfold State.sqRing
  rw [hsq]

/-! ### Rings halted (R10) -/

section
variable {s : State} {n : LineNo}

theorem line_haltRing (s : State) (n : LineNo) (urgent : Bool) (m : LineNo) : (s.haltRing n urgent).line m = s.line m := by
  rw [State.haltRing, line_offer, line_setSq]

theorem stations_haltRing (s : State) (n : LineNo) (urgent : Bool) : (s.haltRing n urgent).stations = s.stations := by
  rw [State.haltRing, stations_offer]; rfl

theorem sqRing_haltRing (s : State) (n : LineNo) (urgent : Bool) (k : Fin 9) : (s.haltRing n urgent).sqRing k
    = if k = sqIndex n urgent then { s.sqRing (sqIndex n urgent) with state := .halted } else s.sqRing k := by
  rw [State.haltRing, sqRing_offer, sqRing_setSq]

theorem sqIdOf_eq (n : LineNo) (urgent : Bool) : sqIdOf n urgent = (sqIndex n urgent).val := by
  unfold sqIdOf sqIndex
  split <;> rfl

theorem events_haltRing {t : State} (hcontrol : t.control = s.control) (her : t.er = s.er) (hevents : t.events = s.events)
    (n : LineNo) (urgent : Bool) : (t.haltRing n urgent).events
      = (s.offer ⟨.queueHalted, BitVec.ofNat 8 n.val, 0, BitVec.ofNat 16 (sqIndex n urgent).val, 0, false⟩).events := by
  rw [State.haltRing, ← sqIdOf_eq]
  exact events_offer_congr (t := t.setSq _ _) hcontrol her hevents _

theorem State.Arrived.haltRing {t : State} {k : SlotNo} (h : State.Arrived n k s t) (urgent : Bool) :
    State.Arrived n k s (t.haltRing n urgent) where
  fetch := by rw [line_haltRing]; exact h.fetch
  slots := fun j hj => by rw [line_haltRing]; exact h.slots j hj
  others := fun m hm => by
    rw [line_haltRing, State.ring, stations_haltRing]; exact h.others m hm
  control := by rw [State.haltRing, control_offer]; exact h.control
  cq := by rw [State.haltRing, cq_offer]; exact h.cq
  bq := by rw [State.haltRing, bq_offer]; exact h.bq
  er := by rw [State.haltRing, er_offer]; exact h.er
  held := by rw [line_haltRing]; exact h.held

end

/-! ### A slot made DONE on arrival -/

/-- The request just taken, made DONE with `st`. -/
structure State.DoneOnArrival (n : LineNo) (f : Fetch) (rec : List Byte) (st : LineStatus) (s t : State) : Prop where
  arrived : State.Arrived n f.slot s t
  slot : (t.line n).pool.slots[f.slot]
    = .held { requestOf f.urgent (s.line n).pool.takes rec with state := .done, outcome := some st }
  order : (t.line n).pool.doneOrder = (s.line n).pool.doneOrder ++ [f.slot]
  unlisted : ∀ e ∈ t.ring n, f.slot ∉ e.pending
  broadcast : f.slot ∉ (t.line n).pool.broadcast
  sq : t.sq = s.sq
  events : t.events = s.events
  admin : t.admin = s.admin

theorem doneOnArrival_makeDone (s : State) (n : LineNo) (a : Access) (f : Fetch) (rec : List Byte) (st : LineStatus) :
    State.DoneOnArrival n f rec st s (((s.finishAccess a).fillSlot n f rec).makeDone n f.slot st id) := by
  have hline : ((s.finishAccess a).fillSlot n f rec).line n = (s.line n).filled f rec := by
    rw [fillSlot_eq, line_onLine, if_pos rfl]; rfl
  have hslot := request?_fillSlot (s.finishAccess a) n f rec
  have hopen := requestOf_waiting f.urgent ((s.finishAccess a).line n).pool.takes rec
  refine ⟨(arrived_fillSlot s n a f rec).onlyRequests (onlyRequests_makeDone n _ f.slot st id) (slotsKept_makeDone _ n f.slot st id),
    held?_eq (request?_makeDone_self hslot hopen st id), ?order, not_listed_makeDone hslot hopen st id, ?broadcast,
    (settling_makeDone ..).device.2.1, events_makeDone .., admin_makeDone ..⟩
  case order => rw [doneOrder_makeDone hslot hopen, hline]; rfl
  case broadcast =>
    rw [broadcast_makeDone hslot hopen]
    simp

/-- Settles O23 (R10, R20, R21). -/
theorem malformedRecordHaltsRing : Obligations.MalformedRecordHaltsRing := by
  refine ⟨malformed_iff, fun s n a f rec hawaits hlength hfetch hfresh hbad => ?_⟩
  have hrun := (exec_takeLineRequest hawaits hlength).trans (congrArg Host.Outcome.next (requestArrived_eq (s := s.finishAccess a) hfetch rec))
  rw [State.requestPlaced, if_neg (by simp [hfresh]), examineRequest_of_malformed hbad] at hrun
  obtain ⟨harrived, hslot, horder, hlists, hbroadcast, hsq, hevents, -⟩ := doneOnArrival_makeDone s n a f rec .malformed
  generalize ((s.finishAccess a).fillSlot n f rec).makeDone n f.slot .malformed id = m at *
  have hrings : ∀ k, m.sqRing k = s.sqRing k := fun k => by unfold State.sqRing; rw [hsq]
  have hhalted := harrived.haltRing f.urgent
  obtain ⟨hfetch', hslots, hothers, hcontrol, hcq, hbq, her⟩ := hhalted.settled
  refine ⟨_, hrun, ?_, ?_, ?_, ?_, ?_, fun k hk => ?_, hfetch', hslots, hothers, hcontrol, hcq, hbq, her, ?_⟩
  · rw [pool_settleHeld, line_haltRing]; exact hslot
  · rw [pool_settleHeld, line_haltRing]; exact horder
  · rw [State.ring, stations_settleHeld, stations_haltRing]; exact hlists
  · rw [pool_settleHeld, line_haltRing]; exact hbroadcast
  · rw [sqRing_settleHeld, sqRing_haltRing, if_pos rfl, hrings]
  · rw [sqRing_settleHeld, sqRing_haltRing, if_neg hk, hrings]
  · exact hhalted.offered (events_haltRing harrived.control harrived.er hevents n f.urgent)

/-! ### Requests placed (R14, R23) -/

theorem onlyRequests_pool {n : LineNo} (s : State) (f : Pool → Pool) :
    State.OnlyRequests n s (s.onLine n fun l => { l with pool := f l.pool }) where
  settling := settling_onLine ⟨rfl, rfl, rfl, rfl, rfl, rfl, rfl, rfl, rfl, rfl, rfl, .inl rfl⟩
  events := rfl
  admin := rfl
  port := rfl
  line := by rw [line_onLine, if_pos rfl]
  entry := fun _ e h => ⟨e.pending, h⟩
  absent := fun _ h => h

theorem station?_placePending (s : State) (n : LineNo) (a b : Byte) (k : SlotNo) : (s.placePending n a k).station? n b
    = if b = a then (s.station? n b).map fun e => { e with pending := e.pending ++ [k] } else s.station? n b :=
  station?_onStation s n a b _ fun _ => rfl

theorem onlyRequests_placePending (n : LineNo) (s : State) (a : Byte) (k : SlotNo) :
    State.OnlyRequests n s (s.placePending n a k) where
  settling := settling_onStation n s a _ fun _ => rfl
  events := rfl
  admin := rfl
  port := rfl
  line := rfl
  entry := fun b e h => by
    refine ⟨if b = a then e.pending ++ [k] else e.pending, ?_⟩
    rw [station?_placePending, h]
    split <;> rfl
  absent := fun b h => by
    rw [station?_placePending, h]
    split <;> rfl

/-- A well-formed request is placed or made DONE, and nothing else. -/
theorem onlyRequests_examineRequest {rec : List Byte} (h : ¬ RequestMalformed rec) (s : State) (n : LineNo) (k : SlotNo)
    (urgent : Bool) : State.OnlyRequests n s (s.examineRequest n k urgent rec)
      ∧ State.SlotsKept n k s (s.examineRequest n k urgent rec) := by
  obtain ⟨hbroadcast, hnone, hsome⟩ := examineRequest_of_wellFormed h s n k urgent
  by_cases hkind : (byteAt rec 0).toNat = 4
  · rw [hbroadcast hkind]
    exact ⟨onlyRequests_pool s fun p => { p with broadcast := p.broadcast ++ [k] }, fun j _ => by rw [State.placeBroadcast, line_onLine, if_pos rfl]⟩
  · cases hentry : s.station? n (byteAt rec 1) with
    | none => rw [hnone hkind hentry]; exact ⟨onlyRequests_makeDone n s k _ id, slotsKept_makeDone s n k _ id⟩
    | some e =>
      rw [hsome e hkind hentry, State.placeForStation]
      split
      · exact ⟨onlyRequests_makeDone n s k _ id, slotsKept_makeDone s n k _ id⟩
      · exact ⟨onlyRequests_placePending n s _ k, fun j _ => rfl⟩

/-- R14: what an overtaken fetch adds to the admin work in progress. -/
theorem noteMade_eq (s : State) (n : LineNo) (k : SlotNo) : s.noteMade n k = { s with admin := (s.noteMade n k).admin } := by
  unfold State.noteMade
  split
  · split <;> rfl
  · split <;> rfl
  · rfl

theorem State.Arrived.noteMade {s t : State} {n : LineNo} {k : SlotNo} (h : State.Arrived n k s t) :
    State.Arrived n k s (t.noteMade n k) := by
  rw [noteMade_eq]
  exact ⟨h.fetch, h.slots, h.others, h.control, h.cq, h.bq, h.er, h.held⟩

theorem noteMade_of_resetting {s : State} {n : LineNo} {tag : Half} {made : List SlotNo}
    (h : s.admin.work = .resetting tag n made) (k : SlotNo) :
    (s.noteMade n k).admin = { s.admin with work := .resetting tag n (made ++ [k]) } := by
  simp [State.noteMade, h]

theorem noteMade_of_disabling {s : State} {n : LineNo} {tag : Half} {ended : Bool} {st : AdminStatus} {made : List SlotNo}
    (h : s.admin.work = .disabling tag n ended st made) (k : SlotNo) :
    (s.noteMade n k).admin = { s.admin with work := .disabling tag n ended st (made ++ [k]) } := by
  simp [State.noteMade, h]

theorem noteMade_of_neither {s : State} {n : LineNo} (hreset : s.resetting n = false) (hdisable : s.disabling n = false)
    (k : SlotNo) : s.noteMade n k = s := by
  unfold State.resetting at hreset
  unfold State.disabling at hdisable
  unfold State.noteMade
  split
  · next h => rw [h] at hreset; exact if_neg (of_decide_eq_false hreset)
  · next h => rw [h] at hdisable; exact if_neg (of_decide_eq_false hdisable)
  · rfl

/-- Settles O24 (R14, R21 to R24). -/
theorem takenRequestIsPlaced : Obligations.TakenRequestIsPlaced := by
  refine ⟨fun s n a f rec q hawaits hlength hfetch hfresh hgood hq => ?placed,
    fun s n a f rec hawaits hlength hfetch hovertaken => ?overtaken⟩
  case placed =>
    subst hq
    have hrun := (exec_takeLineRequest hawaits hlength).trans
      (congrArg Host.Outcome.next (requestArrived_eq (s := s.finishAccess a) hfetch rec))
    rw [State.requestPlaced, if_neg (by simp [hfresh])] at hrun
    have hline : ((s.finishAccess a).fillSlot n f rec).line n = (s.line n).filled f rec := by
      rw [fillSlot_eq, line_onLine, if_pos rfl]; rfl
    have hfilled := held?_eq (request?_fillSlot (s.finishAccess a) n f rec)
    have hdone := doneOnArrival_makeDone s n a f rec
    have harrived := arrived_fillSlot s n a f rec
    have hfree : ((s.finishAccess a).fillSlot n f rec).stations = s.stations
        ∧ ((s.finishAccess a).fillSlot n f rec).sq = s.sq ∧ ((s.finishAccess a).fillSlot n f rec).events = s.events
        ∧ ((s.finishAccess a).fillSlot n f rec).admin = s.admin := ⟨rfl, rfl, rfl, rfl⟩
    generalize (s.finishAccess a).fillSlot n f rec = b at *
    obtain ⟨hstations, hsq, hevents, hadmin⟩ := hfree
    obtain ⟨hbroadcast, hnone, hsome⟩ := examineRequest_of_wellFormed hgood b n f.slot f.urgent
    obtain ⟨honly, hkept⟩ := onlyRequests_examineRequest hgood b n f.slot f.urgent
    have hplaced := harrived.onlyRequests honly hkept
    obtain ⟨hfetch', hslots, hothers, hcontrol, hcq, hbq, her⟩ := hplaced.settled
    have hentry : ∀ x, b.station? n x = s.station? n x := fun x => by unfold State.station?; rw [hstations]
    refine ⟨_, hrun, hfetch', hslots, hothers, hcontrol, ?sq, hcq, hbq, her, ?admin, hplaced.offered (honly.events.trans hevents),
      fun hkind => ?broadcast, fun hkind hstation => ?noStation, fun e hkind hstation => ⟨fun hoffline => ?offline, fun hlisted => ?pending⟩⟩
    case sq => exact (settling_settleHeld n _).device.2.1.trans (honly.settling.device.2.1.trans hsq)
    case admin => rw [admin_settleHeld]; exact honly.admin.trans hadmin
    case broadcast =>
      have hpool : ((b.placeBroadcast n f.slot).line n).pool = { ((s.line n).filled f rec).pool with
          broadcast := (s.line n).pool.broadcast ++ [f.slot] } := by
        rw [State.placeBroadcast, line_onLine, if_pos rfl, hline]; rfl
      rw [stations_settleHeld, pool_settleHeld, hbroadcast hkind, hpool]
      rw [hline] at hfilled
      exact ⟨hfilled, rfl, rfl, hstations⟩
    case noStation =>
      rw [pool_settleHeld, hnone hkind ((hentry _).trans hstation)]
      exact ⟨(hdone .noStation).slot, (hdone .noStation).order⟩
    case offline =>
      obtain ⟨hliveness, hkind', hempty⟩ := hoffline
      have hflushed : e.liveness = .offline ∧ recKind rec ≠ .resync ∧ e.pending = [] :=
        ⟨hliveness, fun h => hkind' ((recKind_resync rec).1 h), hempty⟩
      rw [pool_settleHeld, hsome e hkind ((hentry _).trans hstation), State.placeForStation, if_pos hflushed]
      exact ⟨(hdone .offline).slot, (hdone .offline).order⟩
    case pending =>
      have hkeptOn : ¬ (e.liveness = .offline ∧ recKind rec ≠ .resync ∧ e.pending = []) :=
        fun ⟨h1, h2, h3⟩ => hlisted ⟨h1, fun h => h2 ((recKind_resync rec).2 h), h3⟩
      have hpool : ((b.placePending n e.address f.slot).line n).pool = ((s.line n).filled f rec).pool := congrArg Line.pool hline
      have hkey : byteAt rec 1 = e.address := (station?_key hstation).2.symm
      rw [station?_settleHeld, pool_settleHeld, hsome e hkind ((hentry _).trans hstation), State.placeForStation,
        if_neg hkeptOn, hpool, station?_placePending, if_pos hkey, hentry, hstation]
      rw [hline] at hfilled
      exact ⟨hfilled, rfl, rfl, rfl⟩
  case overtaken =>
    have hrun := (exec_takeLineRequest hawaits hlength).trans
      (congrArg Host.Outcome.next (requestArrived_eq (s := s.finishAccess a) hfetch rec))
    rw [State.requestPlaced, if_pos hovertaken] at hrun
    obtain ⟨harrived, hslot, horder, -, -, -, hevents, hadmin⟩ := doneOnArrival_makeDone s n a f rec .aborted
    have hsq : (((s.finishAccess a).fillSlot n f rec).makeDone n f.slot .aborted id).sq = s.sq := (settling_makeDone ..).device.2.1
    generalize ((s.finishAccess a).fillSlot n f rec).makeDone n f.slot .aborted id = m at *
    have hnoted := harrived.noteMade
    obtain ⟨hfetch', hslots, hothers, hcontrol, hcq, hbq, her⟩ := hnoted.settled
    have hline : (m.noteMade n f.slot).line n = m.line n := by rw [noteMade_eq]; rfl
    have hevs : (m.noteMade n f.slot).events = m.events := by rw [noteMade_eq]
    have hsq' : (m.noteMade n f.slot).sq = m.sq := by rw [noteMade_eq]
    refine ⟨_, hrun, ?_, ?_, hfetch', hslots, hothers, hcontrol, ?_, hcq, hbq, her, hnoted.offered (hevs.trans hevents),
      fun tag made hwork => ?_, fun tag ended st made hwork => ?_, fun hreset hdisable => ?_⟩
    · rw [pool_settleHeld, hline]; exact hslot
    · rw [pool_settleHeld, hline]; exact horder
    · exact (settling_settleHeld n _).device.2.1.trans (hsq'.trans hsq)
    · rw [admin_settleHeld, noteMade_of_resetting (by rw [hadmin]; exact hwork), hadmin]
    · rw [admin_settleHeld, noteMade_of_disabling (by rw [hadmin]; exact hwork), hadmin]
    · have hkept : ∀ t : State, t.admin = s.admin → t.resetting n = false ∧ t.disabling n = false := fun t ht => by
        unfold State.resetting State.disabling at *; rw [ht]; exact ⟨hreset, hdisable⟩
      rw [admin_settleHeld, noteMade_of_neither (hkept m hadmin).1 (hkept m hadmin).2, hadmin]

end Sys2Proof.Machine

/-! The end of a turn on a RUNNING device with no admin request in progress: the report as records and a change of the entry,
and what follows it (4.3 to 4.7, 6.3, R112). -/

namespace Sys2Proof.Machine

/-! ### Entries changed and records offered, in one order -/

/-- A change of an entry that keeps its key and takes no part in its list. -/
structure Station.Steady (f : Station → Station) : Prop where
  key : ∀ e, (f e).key = e.key
  pending : ∀ e p, f { e with pending := p } = { f e with pending := p }

section
variable {n : LineNo} {a : Byte} {f g : Station → Station}

theorem Station.Steady.comp (hf : Station.Steady f) (hg : Station.Steady g) : Station.Steady fun e => g (f e) where
  key := fun e => (hg.key _).trans (hf.key e)
  pending := fun e p => by rw [hf.pending, hg.pending]

theorem onStation_offer (s : State) (r : EventRecord) : (s.offer r).onStation n a f = (s.onStation n a f).offer r := by
  rw [offer_eq, offer_eq (s.onStation n a f), events_offer_congr (s := s) (t := s.onStation n a f) rfl rfl rfl]
  rfl

theorem onStation_foldl_offer : ∀ (rs : List EventRecord) (s : State),
    (rs.foldl State.offer s).onStation n a f = rs.foldl State.offer (s.onStation n a f)
  | [], _ => rfl
  | r :: rs, s => by rw [List.foldl_cons, List.foldl_cons, onStation_foldl_offer rs, onStation_offer]

theorem onStation_onStation (s : State) (hf : ∀ e, (f e).key = e.key) :
    (s.onStation n a f).onStation n a g = s.onStation n a fun e => g (f e) := by
  unfold State.onStation
  simp only [List.map_map]
  congr 2
  funext e
  have hline : (f e).line = e.line := congrArg Prod.fst (hf e)
  have haddress : (f e).address = e.address := congrArg Prod.snd (hf e)
  simp only [Function.comp_apply]
  by_cases h : e.line = n ∧ e.address = a
  · rw [if_pos h, if_pos h, if_pos ⟨hline.trans h.1, haddress.trans h.2⟩]
  · rw [if_neg h, if_neg h, if_neg h]

theorem onStation_id (s : State) : (s.onStation n a fun e => e) = s := by
  unfold State.onStation
  simp only [ite_self, List.map_id']

/-- The entry of `a` on line `n` changed by `f`, and records offered. -/
def State.reported (s : State) (n : LineNo) (a : Byte) (f : Station → Station) (records : List EventRecord) : State :=
  records.foldl State.offer (s.onStation n a f)

theorem reported_reported (s : State) (hf : ∀ e, (f e).key = e.key) (rs qs : List EventRecord) :
    (s.reported n a f rs).reported n a g qs = s.reported n a (fun e => g (f e)) (rs ++ qs) := by
  unfold State.reported
  rw [onStation_foldl_offer, onStation_onStation s hf, List.foldl_append]

theorem reported_none (s : State) : s.reported n a (fun e => e) [] = s := onStation_id s

theorem reported_eq (s : State) (rs : List EventRecord) :
    s.reported n a f rs = { s.onStation n a f with events := (rs.foldl State.offer s).events } := by
  unfold State.reported
  rw [foldl_offer_eq, events_foldl_offer_congr (s := s) (t := s.onStation n a f) rs rfl rfl rfl]

theorem line_reported (s : State) (rs : List EventRecord) (m : LineNo) : (s.reported n a f rs).line m = s.line m := by
  rw [reported_eq]; rfl

theorem request?_reported (s : State) (rs : List EventRecord) (m : LineNo) (k : SlotNo) :
    (s.reported n a f rs).request? m k = s.request? m k := by
  rw [reported_eq]; rfl

theorem station?_reported (hf : ∀ e, (f e).key = e.key) (s : State) (rs : List EventRecord) (b : Byte) :
    (s.reported n a f rs).station? n b = if b = a then (s.station? n b).map f else s.station? n b := by
  rw [reported_eq, ← station?_onStation s n a b f hf]
  rfl

theorem station?_reported_self {e : Station} (hf : ∀ e, (f e).key = e.key) (rs : List EventRecord) {s : State}
    (h : s.station? n a = some e) : (s.reported n a f rs).station? n a = some (f e) := by
  rw [station?_reported hf, if_pos rfl, h]; rfl

end

/-! ### The report of an exchange (R61 to R70) -/

/-- R62, R72: STATION_ONLINE for a SUSPECT entry. -/
def onlineRecords (n : LineNo) (e : Station) : List EventRecord :=
  if e.liveness = .suspect then [⟨.stationOnline, BitVec.ofNat 8 n.val, e.address, 2, 0, false⟩] else []

theorem steady_succeeded : Station.Steady Station.succeeded := ⟨fun _ => rfl, fun _ _ => rfl⟩

theorem noteSuccess_eq (s : State) (n : LineNo) (e : Station) :
    s.noteSuccess n e.address e = s.reported n e.address Station.succeeded (onlineRecords n e) := by
  unfold State.noteSuccess onlineRecords
  dsimp only
  split <;> rfl

/-- R69: an entry that loses its step unless `e` is OFFLINE or has lost it already. -/
def Station.unstepped (e x : Station) : Station :=
  { x with outOfStep := x.outOfStep || (decide (e.liveness ≠ .offline) && !e.outOfStep) }

theorem steady_unstepped (e : Station) : Station.Steady e.unstepped := ⟨fun _ => rfl, fun _ _ => rfl⟩

/-- R69: the record of an entry that loses its step. -/
def lostRecords (n : LineNo) (e : Station) (detail : Half) : List EventRecord :=
  if e.liveness ≠ .offline ∧ e.outOfStep = false then
    [⟨.stationOutOfStep, BitVec.ofNat 8 n.val, e.address, detail, 0, false⟩] else []

theorem setOutOfStep_eq {s : State} {n : LineNo} {e : Station} (h : s.station? n e.address = some e) (detail : Nat) :
    s.setOutOfStep n e.address detail
      = s.reported n e.address e.unstepped (lostRecords n e (BitVec.ofNat 16 detail)) := by
  rw [State.setOutOfStep, h]
  unfold lostRecords
  by_cases hlose : e.liveness ≠ .offline ∧ e.outOfStep = false
  · have hset : e.unstepped = fun x : Station => { x with outOfStep := true } := by
      funext x; simp [Station.unstepped, hlose.1, hlose.2]
    rw [if_pos hlose, hset]
    simp only
    rw [if_neg (by simp [hlose.1, hlose.2])]
    rfl
  · have hset : e.unstepped = fun x : Station => x := by
      funext x
      have hno : (decide (e.liveness ≠ .offline) && !e.outOfStep) = false := by
        by_cases ho : e.liveness = .offline
        · simp [ho]
        · have : e.outOfStep = true := by
            cases hs : e.outOfStep
            · exact absurd ⟨ho, hs⟩ hlose
            · rfl
          simp [this]
      rw [Station.unstepped, hno, Bool.or_false]
    rw [if_neg hlose, hset, reported_none]
    simp only
    refine if_pos ?_
    by_contra hc
    push Not at hc
    exact hlose ⟨hc.1, by simpa using hc.2⟩

section
variable {s : State} {n : LineNo} {x : Exchange} {e : Station}

/-- What a reply changes in an entry besides the success, as a change and records. -/
theorem applyReport_success {eff : ReplyEffect} {g : Station → Station} {qs : List EventRecord}
    (hstation : x.station = some e.address) (hentry : s.station? n e.address = some e) (hattached : e.detachPending = false)
    (heff : eff ≠ .synced)
    (hg : (s.noteSuccess n e.address e).applyEffect n e.address eff
      = (s.noteSuccess n e.address e).reported n e.address g qs) :
    s.applyReport n x (.success eff)
      = (s.reported n e.address (fun y => g y.succeeded) (onlineRecords n e ++ qs)).flushOffline n e.address := by
  have hmerged := hg.trans (by rw [noteSuccess_eq, reported_reported s steady_succeeded.key])
  unfold State.applyReport
  simp only [hstation, hentry, hattached, Bool.false_eq_true, if_false]
  cases eff
  case synced => exact absurd rfl heff
  all_goals exact congrArg (State.flushOffline · n e.address) hmerged

theorem applyReport_accepted (hstation : x.station = some e.address) (hentry : s.station? n e.address = some e)
    (hattached : e.detachPending = false) (seq : Seq) : s.applyReport n x (.success (.accepted seq))
      = (s.reported n e.address (fun y => { y.succeeded with txSeq := seq + 1 }) (onlineRecords n e)).flushOffline n e.address := by
  rw [applyReport_success (g := fun y => { y with txSeq := seq + 1 }) (qs := []) hstation hentry hattached
    (fun h => by cases h) rfl, List.append_nil]

theorem applyReport_stored (hstation : x.station = some e.address) (hentry : s.station? n e.address = some e)
    (hattached : e.detachPending = false) (seq : Seq) : s.applyReport n x (.success (.stored seq))
      = (s.reported n e.address (fun y => { y.succeeded with lastAck := some seq, rxExpect := seq + 1 })
        (onlineRecords n e)).flushOffline n e.address := by
  rw [applyReport_success (g := fun y => { y with lastAck := some seq, rxExpect := seq + 1 }) (qs := []) hstation hentry
    hattached (fun h => by cases h) rfl, List.append_nil]

theorem applyReport_plain (hstation : x.station = some e.address) (hentry : s.station? n e.address = some e)
    (hattached : e.detachPending = false) : s.applyReport n x (.success .plain)
      = (s.reported n e.address Station.succeeded (onlineRecords n e)).flushOffline n e.address := by
  rw [applyReport_success (g := fun y => y) (qs := []) hstation hentry hattached (fun h => by cases h) (reported_none _).symm,
    List.append_nil]

theorem now_noteSuccess (a : Byte) : (s.noteSuccess n a e).now = s.now := (settling_noteSuccess n s a e).now

theorem applyReport_busy (hstation : x.station = some e.address) (hentry : s.station? n e.address = some e)
    (hattached : e.detachPending = false) : s.applyReport n x (.success .busy)
      = (s.reported n e.address (fun y => { y.succeeded with holdoff := some (s.now + y.busyHoldoff) })
        (onlineRecords n e)).flushOffline n e.address := by
  have heffect : (s.noteSuccess n e.address e).applyEffect n e.address .busy
      = (s.noteSuccess n e.address e).reported n e.address (fun y => { y with holdoff := some (s.now + y.busyHoldoff) }) [] := by
    rw [State.applyEffect, now_noteSuccess]; rfl
  rw [applyReport_success hstation hentry hattached (fun h => by cases h) heffect, List.append_nil]
  rfl

theorem applyReport_outOfStep (hstation : x.station = some e.address) (hentry : s.station? n e.address = some e)
    (hattached : e.detachPending = false) (detail : Nat) : s.applyReport n x (.success (.outOfStep detail))
      = (s.reported n e.address (fun y => e.succeeded.unstepped y.succeeded)
        (onlineRecords n e ++ lostRecords n e.succeeded (BitVec.ofNat 16 detail))).flushOffline n e.address := by
  refine applyReport_success (g := e.succeeded.unstepped) hstation hentry hattached (fun h => by cases h) ?_
  have hfound : (s.noteSuccess n e.address e).station? n e.address = some e.succeeded := by
    rw [noteSuccess_eq]; exact station?_reported_self steady_succeeded.key _ hentry
  exact setOutOfStep_eq (e := e.succeeded) hfound detail

/-- R65, R72: STATION_ONLINE for an entry that was not ONLINE. -/
def syncRecords (n : LineNo) (e : Station) : List EventRecord :=
  if e.liveness = .online then []
  else [⟨.stationOnline, BitVec.ofNat 8 n.val, e.address, BitVec.ofNat 16 e.liveness.code.toNat, 0, false⟩]

theorem steady_synced : Station.Steady Station.synced := ⟨fun _ => rfl, fun _ _ => rfl⟩

theorem noteSync_eq (s : State) (n : LineNo) (e : Station) :
    s.noteSync n e.address e = s.reported n e.address Station.synced (syncRecords n e) := by
  unfold State.noteSync syncRecords
  dsimp only
  split <;> rfl

theorem applyReport_synced (hstation : x.station = some e.address) (hentry : s.station? n e.address = some e)
    (hattached : e.detachPending = false) : s.applyReport n x (.success .synced)
      = (s.reported n e.address Station.synced (syncRecords n e)).flushOffline n e.address := by
  unfold State.applyReport
  simp only [hstation, hentry, hattached, Bool.false_eq_true, if_false]
  rw [noteSync_eq]

theorem applyReport_silent (hstation : x.station = some e.address) (hentry : s.station? n e.address = some e)
    (hattached : e.detachPending = false) : s.applyReport n x .silent
      = (s.reported n e.address (fun y => y) []).flushOffline n e.address := by
  unfold State.applyReport
  simp only [hstation, hentry, hattached, Bool.false_eq_true, if_false]
  rw [reported_none]

end

theorem doneOrder_onRequest (s : State) (n : LineNo) (k : SlotNo) (f : Request → Request) :
    ((s.onRequest n k f).line n).pool.doneOrder = (s.line n).pool.doneOrder := by
  unfold State.onRequest
  rw [line_onLine, if_pos rfl]
  unfold Line.onRequest
  split <;> rfl

/-! ### The station's ANSWERING head (R97, R112 step 5, R121) -/

section
variable {s : State} {n : LineNo} {x : Exchange} {e : Station} {k : SlotNo} {r : Request} {ended : Bool}

/-- R121: the deadline of an ANSWERING head decides it. -/
def Request.Overdue (r : Request) (ended : Bool) (now : Nat) : Prop :=
  ended = true ∧ ∃ d, r.answerDeadline = some d ∧ d ≤ now

theorem settleAnswering_of_idle (hstation : x.station = some e.address) (hentry : s.station? n e.address = some e)
    (h : ∀ k r, s.head? n e = some (k, r) → r.state ≠ .answering) : s.settleAnswering n x ended = s := by
  have hfound : x.station.bind (s.station? n) = some e := by rw [hstation]; exact hentry
  unfold State.settleAnswering
  simp only [hfound]
  cases hhead : s.head? n e with
  | none => rfl
  | some p => exact if_neg (h p.1 p.2 hhead)

theorem settleAnswering_of_head (hrunning : s.control.device = .running) (hstation : x.station = some e.address)
    (hentry : s.station? n e.address = some e) (hhead : s.head? n e = some (k, r)) (hr : r.state = .answering) :
    (r.Overdue ended s.now → s.settleAnswering n x ended = s.makeDone n k .answerTimeout id)
    ∧ (¬ r.Overdue ended s.now → s.settleAnswering n x ended
      = s.onRequest n k fun q => { q with queryPollDue := some (s.now + (s.line n).config.querySpacing) }) := by
  have hfound : x.station.bind (s.station? n) = some e := by rw [hstation]; exact hentry
  have hrun : s.running = true := decide_eq_true hrunning
  unfold State.settleAnswering Request.Overdue
  simp only [hfound, hhead, hr, if_true, hrun, Bool.and_true]
  cases hd : r.answerDeadline with
  | none => simp
  | some d =>
    have hiff : (ended = true ∧ ∃ d', some d = some d' ∧ d' ≤ s.now) ↔ (ended && decide (d ≤ s.now)) = true := by simp
    rw [hiff]
    exact ⟨fun h => if_pos h, fun h => if_neg h⟩

end

/-- R97, R112 step 5, R121: what settling the ANSWERING head of what is left of the list does, as HeadSettled words it. `v` is
the state before, `u` one with the slots and the order it leaves. -/
theorem headSettled_of {s v u : State} {n : LineNo} {e g : Station} {x : Exchange} {gone : Option SlotNo} {ends : Bool}
    (hrunning : v.control.device = .running) (hstation : x.station = some g.address) (hentry : v.station? n g.address = some g)
    (hlist : g.pending = e.pending.filter fun j => decide (gone ≠ some j))
    (hkept : ∀ k r, g.pending.head? = some k → s.request? n k = some r → r.state = .answering → v.request? n k = some r)
    (hnew : ∀ k q, g.pending.head? = some k → v.request? n k = some q → q.state = .answering →
      (∀ r, s.request? n k = some r → r.state ≠ .answering) → ¬ q.Overdue ends v.now)
    (horder : (v.line n).pool.doneOrder = (s.line n).pool.doneOrder ++ gone.toList)
    (hspacing : (v.line n).config.querySpacing = (s.line n).config.querySpacing)
    (hslots : ∀ k, u.request? n k = (v.settleAnswering n x ends).request? n k)
    (horder' : (u.line n).pool.doneOrder = ((v.settleAnswering n x ends).line n).pool.doneOrder)
    (hnow : u.now = v.now) : State.HeadSettled n e gone ends s u := by
  intro rest hrest
  rw [← hlist] at hrest
  subst hrest
  refine ⟨fun hidle => ?_, fun k r hk hr hanswering => ?_⟩
  · have hstands : ((v.settleAnswering n x ends).line n).pool.doneOrder = (v.line n).pool.doneOrder := by
      by_cases hhead : ∃ k q, v.head? n g = some (k, q) ∧ q.state = .answering
      · obtain ⟨k, q, hhead, hq⟩ := hhead
        obtain ⟨hk, hslot⟩ := head?_eq_some.1 hhead
        have hfresh := hnew k q hk hslot hq fun r hr => hidle k r hk hr
        rw [(settleAnswering_of_head hrunning hstation hentry hhead hq).2 hfresh, doneOrder_onRequest]
      · push Not at hhead
        rw [settleAnswering_of_idle hstation hentry hhead]
    rw [horder', hstands, horder]
  · have hslot := hkept k r hk hr hanswering
    have hhead : v.head? n g = some (k, r) := head?_eq_some.2 ⟨hk, hslot⟩
    have hopen : r.state ≠ .done := by rw [hanswering]; decide
    obtain ⟨hover, hdue⟩ := settleAnswering_of_head (ended := ends) hrunning hstation hentry hhead hanswering
    refine ⟨fun h => ?_, fun h => ?_⟩
    · rw [hnow] at h
      rw [hslots, horder', hover h, doneOrder_makeDone hslot hopen, horder, request?_makeDone_self hslot hopen]
      exact ⟨rfl, rfl⟩
    · rw [hnow] at h
      rw [hslots, horder', hdue h, doneOrder_onRequest, horder, request?_onRequest, if_pos ⟨rfl, rfl⟩, hslot, hspacing, hnow]
      exact ⟨rfl, rfl⟩

end Sys2Proof.Machine

/-! What a turn's end leaves, from its report: the frames the statements use (R112 steps 4 to 7). -/

namespace Sys2Proof.Machine

/-- A turn of exchange `x` to entry `e` ends on a RUNNING device with no admin request in progress: `t` is the state `b` with
the request's result, and `rep` is reported as the entry changed by `f` with `records` offered; the flush of R24 follows,
unless a SLOW turn reports nothing (R66). -/
structure State.Reporting (n : LineNo) (x : Exchange) (rep : Report) (e : Station) (f : Station → Station)
    (records : List EventRecord) (b t : State) : Prop where
  running : b.control.device = .running
  idle : b.admin.work = .none
  only : State.OnlyRequests n b t
  station : x.station = some e.address
  entry : b.station? n e.address = some e
  steady : Station.Steady f
  report : t.applyReport n x rep = (t.reported n e.address f records).flushOffline n e.address
    ∨ t.applyReport n x rep = t.reported n e.address f records

namespace State.Reporting

variable {n : LineNo} {x : Exchange} {rep : Report} {e : Station} {f : Station → Station} {records : List EventRecord}
  {b t : State}

theorem running' (h : State.Reporting n x rep e f records b t) : t.control.device = .running := by
  rw [h.only.control]; exact h.running

/-- The state before the line's own changes: the ANSWERING head is settled. -/
def settled (t : State) (n : LineNo) (x : Exchange) (rep : Report) (ends : Bool) : State :=
  (t.applyReport n x rep).settleAnswering n x ends

theorem finish (h : State.Reporting n x rep e f records b t) (continues : Bool) (retry : Option Exchange) (after : LineState) :
    t.finishTurn n x continues rep retry after
      = ((settled t n x rep retry.isNone).onLine n fun l => l.turnOver retry after).settleHeld n := by
  rw [finishTurn_plain h.running' (by rw [h.only.admin]; exact h.idle)]
  rfl

/-- After the report only requests and lists change. -/
theorem only_settled (h : State.Reporting n x rep e f records b t) (ends : Bool) :
    State.OnlyRequests n (t.reported n e.address f records) (settled t n x rep ends) := by
  have hreport : State.OnlyRequests n (t.reported n e.address f records) (t.applyReport n x rep) := by
    rcases h.report with hr | hr <;> rw [hr]
    · exact onlyRequests_flushOffline n _ _
    · exact .refl n _
  exact hreport.trans (onlyRequests_settleAnswering n _ x ends)

theorem pool_finish (h : State.Reporting n x rep e f records b t) (continues : Bool) (retry : Option Exchange)
    (after : LineState) : ((t.finishTurn n x continues rep retry after).line n).pool
      = ((settled t n x rep retry.isNone).line n).pool := by
  rw [h.finish, pool_settleHeld]; exact pool_onLine rfl

theorem station?_finish (h : State.Reporting n x rep e f records b t) (continues : Bool) (retry : Option Exchange)
    (after : LineState) (a : Byte) : (t.finishTurn n x continues rep retry after).station? n a
      = (settled t n x rep retry.isNone).station? n a := by
  rw [h.finish, station?_settleHeld, station?_onLine]

theorem turnOver (h : State.Reporting n x rep e f records b t) (continues : Bool) (retry : Option Exchange) :
    State.TurnOver n retry b (t.finishTurn n x continues rep retry .idle) :=
  turnOver_finishTurn h.running' (by rw [h.only.admin]; exact h.idle) h.only.settling h.only.quiet x continues rep retry

/-- The entry of the turn. -/
theorem entry_finish (h : State.Reporting n x rep e f records b t) (continues : Bool) (retry : Option Exchange)
    (after : LineState) :
    ∃ p, (t.finishTurn n x continues rep retry after).station? n e.address = some { f e with pending := p } := by
  obtain ⟨p, hp⟩ := h.only.entry _ _ h.entry
  have hreported := station?_reported_self h.steady.key records hp
  rw [h.steady.pending] at hreported
  obtain ⟨q, hq⟩ := (h.only_settled retry.isNone).entry _ _ hreported
  exact ⟨q, (h.station?_finish continues retry after _).trans hq⟩

theorem entriesKept (h : State.Reporting n x rep e f records b t) (continues : Bool) (retry : Option Exchange)
    (after : LineState) : State.EntriesKept n e.address b (t.finishTurn n x continues rep retry after) := by
  intro a y ha hy
  obtain ⟨p, hp⟩ := h.only.entry _ _ hy
  have hreported : (t.reported n e.address f records).station? n a = some { y with pending := p } := by
    rw [station?_reported h.steady.key, if_neg ha]; exact hp
  obtain ⟨q, hq⟩ := (h.only_settled retry.isNone).entry _ _ hreported
  exact ⟨q, (h.station?_finish continues retry after _).trans hq⟩

theorem now_finish (h : State.Reporting n x rep e f records b t) (continues : Bool) (retry : Option Exchange)
    (after : LineState) : (t.finishTurn n x continues rep retry after).now = b.now :=
  (turnEnded_finishTurn n t x continues rep retry after).now.trans h.only.now

theorem line_settled (h : State.Reporting n x rep e f records b t) (ends : Bool) : (settled t n x rep ends).line n
    = { t.line n with pool := ((settled t n x rep ends).line n).pool } := by
  have hline := (h.only_settled ends).line
  rwa [line_reported] at hline

theorem buf_finish (h : State.Reporting n x rep e f records b t) (continues : Bool) (retry : Option Exchange)
    (after : LineState) : ((t.finishTurn n x continues rep retry after).line n).buf
      = { (b.line n).buf with reserved := (b.line n).buf.reserved && retry.isSome } := by
  rw [h.finish, buf_settleHeld, line_onLine, if_pos rfl, h.line_settled, h.only.line]
  rfl

theorem sched_finish (h : State.Reporting n x rep e f records b t) (continues : Bool) (retry : Option Exchange)
    (after : LineState) : ((t.finishTurn n x continues rep retry after).line n).sched
      = { (b.line n).sched with retry := retry } := by
  rw [h.finish, sched_settleHeld, line_onLine, if_pos rfl, h.line_settled, h.only.line]
  rfl

theorem offered (h : State.Reporting n x rep e f records b t) (continues : Bool) (retry : Option Exchange) (after : LineState) :
    State.Offered n records b (t.finishTurn n x continues rep retry after) := by
  have hs := h.only_settled retry.isNone
  rw [h.finish]
  refine offered_settleHeld (w := (settled t n x rep retry.isNone).onLine n _) ?control ?er ?cq ?held ?events
  case control => rw [control_onLine, hs.control, reported_eq]; exact h.only.control
  case er => rw [er_onLine, hs.er, reported_eq]; exact h.only.er
  case cq => rw [cq_onLine, hs.cq, reported_eq]; exact h.only.cq
  case held => rw [line_onLine, if_pos rfl, h.line_settled, h.only.line]; rfl
  case events =>
    rw [events_onLine, hs.events, reported_eq]
    exact events_foldl_offer_congr records h.only.control h.only.er h.only.events

theorem admin_finish (h : State.Reporting n x rep e f records b t) (continues : Bool) (retry : Option Exchange)
    (after : LineState) : (t.finishTurn n x continues rep retry after).admin = b.admin := by
  rw [h.finish, admin_settleHeld, admin_onLine, (h.only_settled _).admin, reported_eq]; exact h.only.admin

theorem port_finish (h : State.Reporting n x rep e f records b t) (continues : Bool) (retry : Option Exchange)
    (after : LineState) : (t.finishTurn n x continues rep retry after).port = b.port := by
  rw [h.finish, port_settleHeld, port_onLine, (h.only_settled _).port, reported_eq]; exact h.only.port

/-! ### When nothing is flushed -/

/-- R24 flushes nothing when the entry does not end OFFLINE. -/
theorem unflushed_of_ne (h : State.Reporting n x rep e f records b t) (hne : (f e).liveness ≠ .offline) :
    t.applyReport n x rep = t.reported n e.address f records := by
  obtain ⟨p, hp⟩ := h.only.entry _ _ h.entry
  have hreported := station?_reported_self h.steady.key records hp
  rw [h.steady.pending] at hreported
  rcases h.report with hr | hr
  · rw [hr]; exact flushOffline_of_ne hreported hne
  · exact hr

section
variable (hquiet : t.applyReport n x rep = t.reported n e.address f records)

include hquiet

theorem request?_finish (h : State.Reporting n x rep e f records b t) {k : SlotNo} {q : Request} (hq : t.request? n k = some q)
    (hstate : q.state ≠ .answering) (continues : Bool) (retry : Option Exchange) (after : LineState) :
    (t.finishTurn n x continues rep retry after).request? n k = some q := by
  have hslot : (t.reported n e.address f records).request? n k = some q := by rw [request?_reported]; exact hq
  rw [request?_congr (congrArg Pool.slots (h.pool_finish continues retry after)), settled, hquiet]
  exact request?_settleAnswering hslot hstate x _

theorem requestsKept (h : State.Reporting n x rep e f records b t) {k : Option SlotNo} (hkept : State.RequestsKept n k b t)
    (continues : Bool) (retry : Option Exchange) (after : LineState) :
    State.RequestsKept n k b (t.finishTurn n x continues rep retry after) := fun j r hj hr hstate =>
  h.request?_finish hquiet (hkept j r hj hr hstate) hstate continues retry after

/-- What is left of the list is settled. -/
theorem headSettled (h : State.Reporting n x rep e f records b t) {gone : Option SlotNo}
    (hlist : t.station? n e.address = some { e with pending := e.pending.filter fun j => decide (gone ≠ some j) })
    (hkept : ∀ k r, gone ≠ some k → b.request? n k = some r → r.state = .answering → t.request? n k = some r)
    (horder : (t.line n).pool.doneOrder = (b.line n).pool.doneOrder ++ gone.toList)
    (continues : Bool) (retry : Option Exchange) (after : LineState)
    (hnew : ∀ k q, t.request? n k = some q → q.state = .answering →
      (∀ r, b.request? n k = some r → r.state ≠ .answering) → ¬ q.Overdue retry.isNone b.now) :
    State.HeadSettled n e gone retry.isNone b (t.finishTurn n x continues rep retry after) := by
  have hreported := station?_reported_self h.steady.key records hlist
  rw [h.steady.pending] at hreported
  have haddress : (f e).address = e.address := congrArg Prod.snd (h.steady.key e)
  have hpool := h.pool_finish continues retry after
  rw [settled, hquiet] at hpool
  have hnow : (t.reported n e.address f records).now = t.now := by rw [reported_eq]; rfl
  refine headSettled_of (x := x) (v := t.reported n e.address f records)
    (g := { f e with pending := e.pending.filter fun j => decide (gone ≠ some j) }) ?running ?station ?entry rfl
    (fun k r hk hr hstate => ?kept) (fun k q hk hq hstate hold => ?new) ?order ?spacing (fun k => ?slots) ?order' ?now
  case running => rw [reported_eq]; exact h.running'
  case station => exact h.station.trans (congrArg some haddress.symm)
  case entry => exact (congrArg ((t.reported n e.address f records).station? n) haddress).trans hreported
  case kept =>
    have hmem : k ∈ e.pending.filter fun j => decide (gone ≠ some j) := List.mem_of_head? hk
    have hother : gone ≠ some k := by simpa using (List.mem_filter.1 hmem).2
    rw [request?_reported]
    exact hkept k r hother hr hstate
  case new =>
    rw [request?_reported] at hq
    rw [hnow, h.only.now]
    exact hnew k q hq hstate hold
  case order => rw [line_reported]; exact horder
  case spacing => rw [line_reported, h.only.config]
  case slots => exact request?_congr (congrArg Pool.slots hpool) k
  case order' => rw [hpool]
  case now => rw [hnow]; exact (turnEnded_finishTurn n t x continues rep retry after).now

end

end State.Reporting

/-! ### The request's result -/

section
variable {b : State} {n : LineNo} {e : Station} {k : SlotNo} {r : Request}

/-- A slot made DONE leaves every other request. -/
theorem requestsKept_makeDone (st : LineStatus) (f : Request → Request) :
    State.RequestsKept n (some k) b (b.makeDone n k st f) := fun j r hj hr _ => by
  rw [request?_makeDone, if_neg fun h => hj (congrArg some h.2.symm)]; exact hr

theorem requestsKept_onRequest (f : Request → Request) : State.RequestsKept n (some k) b (b.onRequest n k f) :=
  fun j r hj hr _ => by
    rw [request?_onRequest, if_neg fun h => hj (congrArg some h.2.symm)]; exact hr

/-- The list of the entry of a slot made DONE, as HeadSettled words it. -/
theorem station?_makeDone_gone (hentry : b.station? n e.address = some e) (hr : b.request? n k = some r)
    (hopen : r.state ≠ .done) (st : LineStatus) (f : Request → Request) : (b.makeDone n k st f).station? n e.address
      = some { e with pending := e.pending.filter fun j => decide (some k ≠ some j) } := by
  have hsame : (fun j => decide (j ≠ k)) = fun j => decide (some k ≠ some j) := by
    funext j
    simp only [ne_eq, Option.some.injEq, eq_comm]
  rw [station?_makeDone_self hentry hr hopen, hsame]

/-- With no slot gone the list stands. -/
theorem station?_none_gone (hentry : b.station? n e.address = some e) : b.station? n e.address
    = some { e with pending := e.pending.filter fun j => decide ((none : Option SlotNo) ≠ some j) } := by
  rw [hentry]; simp

end

end Sys2Proof.Machine

/-! Replies to a SELECT: ACCEPT, REJECT and BUSY (6.3, R113, R114). -/

namespace Sys2Proof.Machine

/-! ### A plain turn (R112 step 3) -/

section
variable {s b t : State} {n : LineNo} {T : Turn} {e : Station}

theorem State.PlainTurn.active (h : s.PlainTurn n T e) : s.active = true := (active_iff s).2 (.inl h.1)

/-- The report of a turn's end, for the entry with what is left of its list. -/
theorem State.PlainTurn.reporting {rep : Report} {f : Station → Station} {records : List EventRecord} (h : b.PlainTurn n T e)
    (honly : State.OnlyRequests n b t) (hsteady : Station.Steady f)
    (hreport : ∀ p, t.station? n e.address = some { e with pending := p } →
      t.applyReport n T.exch rep = (t.reported n e.address f records).flushOffline n e.address) :
    State.Reporting n T.exch rep e f records b t := by
  obtain ⟨hrunning, hidle, -, hstation, -, hentry, -⟩ := h
  obtain ⟨p, hp⟩ := honly.entry _ _ hentry
  exact ⟨hrunning, hidle, honly, hstation, hentry, hsteady, .inl (hreport p hp)⟩

/-! R61 to R70: the reports of a plain turn. -/

theorem State.PlainTurn.accepted (h : b.PlainTurn n T e) (honly : State.OnlyRequests n b t) (seq : Seq) :
    State.Reporting n T.exch (.success (.accepted seq)) e (fun y => { y.succeeded with txSeq := seq + 1 }) (onlineRecords n e)
      b t :=
  h.reporting honly ⟨fun _ => rfl, fun _ _ => rfl⟩ fun p hp =>
    applyReport_accepted (e := { e with pending := p }) h.2.2.2.1 hp h.2.2.2.2.2.2 seq

theorem State.PlainTurn.stored (h : b.PlainTurn n T e) (honly : State.OnlyRequests n b t) (seq : Seq) :
    State.Reporting n T.exch (.success (.stored seq)) e
      (fun y => { y.succeeded with lastAck := some seq, rxExpect := seq + 1 }) (onlineRecords n e) b t :=
  h.reporting honly ⟨fun _ => rfl, fun _ _ => rfl⟩ fun p hp =>
    applyReport_stored (e := { e with pending := p }) h.2.2.2.1 hp h.2.2.2.2.2.2 seq

theorem State.PlainTurn.plain (h : b.PlainTurn n T e) (honly : State.OnlyRequests n b t) :
    State.Reporting n T.exch (.success .plain) e Station.succeeded (onlineRecords n e) b t :=
  h.reporting honly steady_succeeded fun p hp =>
    applyReport_plain (e := { e with pending := p }) h.2.2.2.1 hp h.2.2.2.2.2.2

theorem State.PlainTurn.busy (h : b.PlainTurn n T e) (honly : State.OnlyRequests n b t) :
    State.Reporting n T.exch (.success .busy) e (fun y => { y.succeeded with holdoff := some (b.now + y.busyHoldoff) })
      (onlineRecords n e) b t :=
  h.reporting honly ⟨fun _ => rfl, fun _ _ => rfl⟩ fun p hp => by
    rw [← honly.now]
    exact applyReport_busy (e := { e with pending := p }) h.2.2.2.1 hp h.2.2.2.2.2.2

theorem State.PlainTurn.outOfStep (h : b.PlainTurn n T e) (honly : State.OnlyRequests n b t) (detail : Nat) :
    State.Reporting n T.exch (.success (.outOfStep detail)) e (fun y => e.succeeded.unstepped y.succeeded)
      (onlineRecords n e ++ lostRecords n e.succeeded (BitVec.ofNat 16 detail)) b t :=
  h.reporting honly (steady_succeeded.comp (steady_unstepped e.succeeded)) fun p hp =>
    applyReport_outOfStep (e := { e with pending := p }) h.2.2.2.1 hp h.2.2.2.2.2.2 detail

theorem State.PlainTurn.synced (h : b.PlainTurn n T e) (honly : State.OnlyRequests n b t) :
    State.Reporting n T.exch (.success .synced) e Station.synced (syncRecords n e) b t :=
  h.reporting honly steady_synced fun p hp =>
    applyReport_synced (e := { e with pending := p }) h.2.2.2.1 hp h.2.2.2.2.2.2

theorem State.PlainTurn.silent (h : b.PlainTurn n T e) (honly : State.OnlyRequests n b t) :
    State.Reporting n T.exch .silent e (fun y => y) [] b t :=
  h.reporting honly ⟨fun _ => rfl, fun _ _ => rfl⟩ fun p hp =>
    applyReport_silent (e := { e with pending := p }) h.2.2.2.1 hp h.2.2.2.2.2.2

/-- No rule overrides a result: the device is RUNNING, no admin request is in progress, and neither a cancel mark nor
detach_pending is set. -/
theorem override_of_clear {x : Exchange} (hrunning : s.control.device = .running) (hidle : s.admin.work = .none)
    (hmark : ∀ k r, x.slot = some k → s.request? n k = some r → r.cancelMark = false)
    (hattached : ∀ y, s.entryOf n x = some y → y.detachPending = false) : s.override n x = none := by
  have hnotStopping : s.stopping = false := by simp [State.stopping, hrunning]
  have hnotDisabling : s.disabling n = false := by simp [State.disabling, hidle]
  have hnoMark : ∀ r, x.slot.bind (s.request? n) = some r → r.cancelMark = false := fun r hr => by
    obtain ⟨k, hk, hr⟩ := Option.bind_eq_some_iff.1 hr
    exact hmark k r hk hr
  unfold State.override
  simp only [hnotStopping, hnotDisabling, Bool.false_eq_true, if_false]
  have hfirst : ¬ (match x.slot.bind (s.request? n) with
      | some r => r.cancelMark
      | none => false) = true := by
    cases hslot : x.slot.bind (s.request? n) with
    | none => exact Bool.false_ne_true
    | some r => simp [hnoMark r hslot]
  have hsecond : ¬ (match x.station.bind (s.station? n) with
      | some e => e.detachPending
      | none => false) = true := by
    cases hentry : x.station.bind (s.station? n) with
    | none => exact Bool.false_ne_true
    | some y => simp [hattached y hentry]
  exact (if_neg hfirst).trans (if_neg hsecond)

theorem State.PlainTurn.override (h : s.PlainTurn n T e)
    (hmark : ∀ k r, T.exch.slot = some k → s.request? n k = some r → r.cancelMark = false) : s.override n T.exch = none := by
  obtain ⟨hrunning, hidle, -, hstation, -, hentry, hattached⟩ := h
  refine override_of_clear hrunning hidle hmark fun y hy => ?_
  rw [entryOf_of_station hstation hentry] at hy
  cases hy
  exact hattached

theorem settleContinuing_of_kept {x : Exchange} {k : SlotNo} (hslot : x.slot = some k) (hover : s.override n x = none)
    (stay final : Request → Request) : s.settleContinuing n x stay final = s.onRequest n k stay := by
  simp only [State.settleContinuing, hslot, hover]

end

/-! ### What is left of the list, by the request's result -/

namespace State.Reporting

variable {n : LineNo} {x : Exchange} {rep : Report} {e : Station} {f : Station → Station} {records : List EventRecord}
  {b : State} {k : SlotNo} {r : Request}

theorem headSettled_makeDone {st : LineStatus} {final : Request → Request}
    (h : State.Reporting n x rep e f records b (b.makeDone n k st final)) (hne : (f e).liveness ≠ .offline)
    (hr : b.request? n k = some r) (hopen : r.state ≠ .done) (continues : Bool) (retry : Option Exchange) (after : LineState) :
    State.HeadSettled n e (some k) retry.isNone b ((b.makeDone n k st final).finishTurn n x continues rep retry after) := by
  refine headSettled (h.unflushed_of_ne hne) h (station?_makeDone_gone h.entry hr hopen st final)
    (fun j q hj hq _ => ?_) (doneOrder_makeDone hr hopen st final) continues retry after fun j q hq hstate hold => ?_
  · rw [request?_makeDone, if_neg fun h => hj (congrArg some h.2.symm)]; exact hq
  · by_cases hj : j = k
    · subst hj
      rw [request?_makeDone_self hr hopen] at hq
      cases hq
      cases hstate
    · rw [request?_makeDone, if_neg fun h => hj h.2] at hq
      exact absurd hstate (hold q hq)

theorem headSettled_onRequest {stay : Request → Request}
    (h : State.Reporting n x rep e f records b (b.onRequest n k stay)) (hne : (f e).liveness ≠ .offline)
    (hr : b.request? n k = some r) (hstate : r.state ≠ .answering) (continues : Bool) (retry : Option Exchange)
    (after : LineState) (hfresh : (stay r).state = .answering → ¬ (stay r).Overdue retry.isNone b.now) :
    State.HeadSettled n e none retry.isNone b ((b.onRequest n k stay).finishTurn n x continues rep retry after) := by
  refine headSettled (h.unflushed_of_ne hne) h ((station?_onRequest ..).trans (station?_none_gone h.entry))
    (fun j q _ hq hq' => ?_) ((doneOrder_onRequest ..).trans (by rw [Option.toList_none, List.append_nil])) continues retry after
    fun j q hq hq' hold => ?_
  · have hj : j ≠ k := by rintro rfl; rw [hr] at hq; cases hq; exact hstate hq'
    rw [request?_onRequest, if_neg fun h => hj h.2]; exact hq
  · by_cases hj : j = k
    · subst hj
      rw [request?_onRequest, if_pos ⟨rfl, rfl⟩, hr] at hq
      cases hq
      exact hfresh hq'
    · rw [request?_onRequest, if_neg fun h => hj h.2] at hq
      exact absurd hq' (hold q hq)

theorem headSettled_same (h : State.Reporting n x rep e f records b b)
    (hquiet : b.applyReport n x rep = b.reported n e.address f records)
    (continues : Bool) (retry : Option Exchange) (after : LineState) :
    State.HeadSettled n e none retry.isNone b (b.finishTurn n x continues rep retry after) :=
  headSettled hquiet h (station?_none_gone h.entry) (fun _ _ _ hr _ => hr) (by rw [Option.toList_none, List.append_nil])
    continues retry after fun _ q hq hstate hold => absurd hstate (hold q hq)

end State.Reporting

/-- A request that has just become ANSWERING, its query-poll due time set, stays as it is. -/
theorem request?_settleAnswering_fresh {s : State} {n : LineNo} {x : Exchange} {e : Station} {k : SlotNo} {r : Request}
    {ended : Bool} (hrunning : s.control.device = .running) (hstation : x.station = some e.address)
    (hentry : s.station? n e.address = some e) (hr : s.request? n k = some r)
    (hdue : r.queryPollDue = some (s.now + (s.line n).config.querySpacing)) (hfresh : ¬ r.Overdue ended s.now) :
    (s.settleAnswering n x ended).request? n k = some r := by
  by_cases hhead : ∃ j q, s.head? n e = some (j, q) ∧ q.state = .answering
  · obtain ⟨j, q, hhead, hq⟩ := hhead
    obtain ⟨hover, hkept⟩ := settleAnswering_of_head (ended := ended) hrunning hstation hentry hhead hq
    by_cases hj : k = j
    · subst hj
      obtain rfl : q = r := Option.some.inj ((head?_eq_some.1 hhead).2.symm.trans hr)
      rw [hkept hfresh, request?_onRequest, if_pos ⟨rfl, rfl⟩, hr, ← hdue]
      rfl
    · by_cases ho : q.Overdue ended s.now
      · rw [hover ho, request?_makeDone, if_neg fun h => hj h.2]; exact hr
      · rw [hkept ho, request?_onRequest, if_neg fun h => hj h.2]; exact hr
  · push Not at hhead
    rw [settleAnswering_of_idle hstation hentry hhead]
    exact hr

theorem State.Reporting.request?_finish_fresh {n : LineNo} {x : Exchange} {rep : Report} {e : Station} {f : Station → Station}
    {records : List EventRecord} {b t : State} {k : SlotNo} {q : Request} (h : State.Reporting n x rep e f records b t)
    (hquiet : t.applyReport n x rep = t.reported n e.address f records)
    (hq : t.request? n k = some q) (hdue : q.queryPollDue = some (b.now + (b.line n).config.querySpacing))
    (continues : Bool) (retry : Option Exchange) (after : LineState) (hfresh : ¬ q.Overdue retry.isNone b.now) :
    (t.finishTurn n x continues rep retry after).request? n k = some q := by
  obtain ⟨p, hp⟩ := h.only.entry _ _ h.entry
  have haddress : (f e).address = e.address := congrArg Prod.snd (h.steady.key e)
  have hreported := station?_reported_self h.steady.key records hp
  rw [h.steady.pending] at hreported
  have hnow : (t.reported n e.address f records).now = b.now := by rw [reported_eq]; exact h.only.now
  rw [request?_congr (congrArg Pool.slots (h.pool_finish continues _ after)), settled, hquiet]
  refine request?_settleAnswering_fresh (e := { f e with pending := p }) ?running ?station ?entry ?slot ?due ?fresh
  case running => rw [reported_eq]; exact h.running'
  case station => exact h.station.trans (congrArg some haddress.symm)
  case entry => exact (congrArg ((t.reported n e.address f records).station? n) haddress).trans hreported
  case slot => rw [request?_reported]; exact hq
  case due => rw [line_reported, hnow, h.only.config]; exact hdue
  case fresh => rw [hnow]; exact hfresh

/-! ### Replies to a SELECT (R113, R114) -/

section
variable {s : State} {n : LineNo} {t : Turn} {control : Byte} {payload : List Byte}

theorem onFrame_of_wellFormed {reply : Reply} (h : classify t.exch.frame t.exch.control control payload = .wellFormed reply) :
    s.onFrame n t control payload = s.onReply n t control reply := by
  rw [State.onFrame, h]

theorem classify_accept {sentControl : Byte} (hkind : control.extractLsb' 4 4 = 0xA)
    (hseq : control.extractLsb' 0 3 = sentControl.extractLsb' 0 3) :
    classify .select sentControl control [] = .wellFormed .accept := by
  simp [classify, controlKind, controlSeq, hkind, hseq]

theorem classify_busy {sentControl : Byte} (hkind : control.extractLsb' 4 4 = 0xB) :
    classify .select sentControl control [] = .wellFormed .busy := by
  simp [classify, controlKind, hkind]

theorem classify_selectReject {sentControl : Byte} (hkind : control.extractLsb' 4 4 = 0xC) (hlength : payload.length ≤ 1) :
    classify .select sentControl control payload = .wellFormed (.reject payload.head?) := by
  simp [classify, controlKind, hkind, hlength]

/-- R62: an exchange success leaves an entry that was ONLINE or SUSPECT ONLINE. -/
theorem succeeded_liveness {e : Station} (h : e.liveness = .online ∨ e.liveness = .suspect) :
    e.succeeded.liveness = .online := by
  rcases h with h | h <;> simp [Station.succeeded, h]

theorem lostRecords_of_online {e : Station} (h : e.liveness = .online ∨ e.liveness = .suspect) (detail : Half) :
    lostRecords n e.succeeded detail = if e.outOfStep then []
      else [⟨.stationOutOfStep, BitVec.ofNat 8 n.val, e.address, detail, 0, false⟩] := by
  unfold lostRecords
  rw [succeeded_liveness h]
  cases hs : e.outOfStep with
  | false => exact if_pos ⟨by decide, hs⟩
  | true => exact if_neg fun h' => by have := h'.2; rw [show e.succeeded.outOfStep = e.outOfStep from rfl, hs] at this; cases this

/-- R45: the detail of a REJECT. -/
theorem rejectDetail_eq (payload : List Byte) :
    BitVec.ofNat 16 (rejectDetail payload.head?) = (payload.head?.map fun b => b.setWidth 16).getD 255 := by
  cases payload with
  | nil => rfl
  | cons b _ => exact BitVec.ofNat_toNat 16 b

end

/-- R113: what ACCEPT makes of the request: a QUERY is ANSWERING, anything else DONE with OK. -/
theorem onAccept_eq {s : State} {n : LineNo} {x : Exchange} {k : SlotNo} {r : Request} (hslot : x.slot = some k)
    (hr : s.request? n k = some r) (hover : s.override n x = none) :
    (r.kind = .query → s.onAccept n x = (s.onRequest n k fun q => q.enterAnswering s.now (s.line n).config.querySpacing).finishTurn
      n x true (.success (.accepted (x.control.extractLsb' 0 3))) none .idle)
    ∧ (r.kind ≠ .query → s.onAccept n x = (s.makeDone n k .ok fun q => { q with deliveryUnknown := false }).finishTurn
      n x false (.success (.accepted (x.control.extractLsb' 0 3))) none .idle) := by
  unfold State.onAccept
  simp only [hslot, hr]
  refine ⟨fun h => ?_, fun h => if_neg h⟩
  rw [if_pos h, settleContinuing_of_kept hslot hover]

/-- Settles O45 (R62, R68, R69, R113, R120). -/
theorem acceptAndRejectSettleSelect : Obligations.AcceptAndRejectSettleSelect := by
  rintro s n t e k r control payload online hplain hframe hslot hr hstate hmark hlive hend rfl
  have hmarks : ∀ j q, t.exch.slot = some j → s.request? n j = some q → q.cancelMark = false := by
    intro j q hj hq
    obtain rfl : k = j := Option.some.inj (hslot.symm.trans hj)
    obtain rfl : r = q := Option.some.inj (hr.symm.trans hq)
    exact hmark
  have hover := hplain.override hmarks
  have hrun := exec_endReceived hplain.active hplain.2.2.1 hend
  have hstation := hplain.2.2.2.1
  have hattached : e.detachPending = false := hplain.2.2.2.2.2.2
  have hentry : s.station? n e.address = some e := hplain.2.2.2.2.2.1
  have hnotAnswering : r.state ≠ .answering := by rw [hstate]; decide
  have hnotDone : r.state ≠ .done := by rw [hstate]; decide
  refine ⟨fun q hkind hempty hseq hq hwindow => ?accept, fun hkind hlength => ?reject⟩
  case accept =>
    subst hempty
    have hclass : classify t.exch.frame t.exch.control control [] = .wellFormed .accept := by
      rw [hframe]; exact classify_accept hkind hseq
    rw [onFrame_of_wellFormed hclass] at hrun
    obtain ⟨hasQuery, hasOther⟩ := onAccept_eq hslot hr hover
    have hne : e.succeeded.liveness ≠ .offline := by rw [succeeded_liveness hlive]; decide
    by_cases hquery : r.kind = .query
    case pos =>
      rw [if_pos hquery] at hq ⊢
      have hrep := hplain.accepted (onlyRequests_onRequest n s k fun q => q.enterAnswering s.now (s.line n).config.querySpacing)
        (t.exch.control.extractLsb' 0 3)
      have hfresh : ∀ ends, ¬ q.Overdue ends s.now := by
        rintro ends ⟨-, d, hd, hle⟩
        rw [hq] at hd
        obtain rfl : s.now + r.answerWindow.toNat = d := Option.some.inj hd
        have := hwindow hquery
        omega
      have hslotNow : (s.onRequest n k fun q => q.enterAnswering s.now (s.line n).config.querySpacing).request? n k = some q := by
        rw [request?_onRequest, if_pos ⟨rfl, rfl⟩, hr, hq]; rfl
      obtain ⟨p, hp⟩ := hrep.entry_finish true none .idle
      refine ⟨_, hrun.trans (congrArg Host.Outcome.next (hasQuery hquery)), hrep.turnOver true none,
        State.Reporting.requestsKept (hrep.unflushed_of_ne hne) hrep (requestsKept_onRequest _) true none .idle,
        hrep.entriesKept _ _ _, hrep.now_finish _ _ _, hrep.offered true none .idle,
        hrep.request?_finish_fresh (hrep.unflushed_of_ne hne) hslotNow ?due true none .idle (hfresh _),
        hrep.headSettled_onRequest hne hr hnotAnswering true none .idle fun _ => ?overdue, _, hp, rfl, succeeded_liveness hlive,
        rfl, rfl, rfl, rfl, rfl, rfl, rfl⟩
      case due => rw [hq]
      case overdue => rw [hq] at hfresh; exact hfresh _
    case neg =>
      rw [if_neg hquery] at hq ⊢
      have hrep := hplain.accepted (onlyRequests_makeDone n s k .ok fun q => { q with deliveryUnknown := false })
        (t.exch.control.extractLsb' 0 3)
      obtain ⟨p, hp⟩ := hrep.entry_finish false none .idle
      refine ⟨_, hrun.trans (congrArg Host.Outcome.next (hasOther hquery)), hrep.turnOver false none,
        State.Reporting.requestsKept (hrep.unflushed_of_ne hne) hrep (requestsKept_makeDone _ _) false none .idle,
        hrep.entriesKept _ _ _, hrep.now_finish _ _ _, hrep.offered false none .idle,
        State.Reporting.request?_finish (hrep.unflushed_of_ne hne) hrep ?slot ?state false none .idle,
        hrep.headSettled_makeDone hne hr hnotDone false none .idle, _, hp, rfl, succeeded_liveness hlive, rfl, rfl, rfl, rfl, rfl,
        rfl, rfl⟩
      case slot => rw [request?_makeDone_self hr hnotDone, hq]; rfl
      case state => rw [hq]; intro h; cases h
  case reject =>
    have hclass : classify t.exch.frame t.exch.control control payload = .wellFormed (.reject payload.head?) := by
      rw [hframe]; exact classify_selectReject hkind hlength
    have hreply : s.onReply n t control (.reject payload.head?)
        = (s.onRequest n k fun q => { q with state := .waiting, resent := true }).finishTurn n t.exch true
          (.success (.outOfStep (rejectDetail payload.head?))) none .idle := by
      simp only [State.onReply, hframe]
      rw [State.onSelectReject, settleContinuing_of_kept hslot hover]
    rw [onFrame_of_wellFormed hclass, hreply] at hrun
    have hrep := hplain.outOfStep (onlyRequests_onRequest n s k fun q => { q with state := .waiting, resent := true })
      (rejectDetail payload.head?)
    have hne : (e.succeeded.unstepped e.succeeded).liveness ≠ .offline := by
      show e.succeeded.liveness ≠ .offline
      rw [succeeded_liveness hlive]; decide
    obtain ⟨p, hp⟩ := hrep.entry_finish true none .idle
    refine ⟨_, hrun, hrep.turnOver true none, ?kept, hrep.entriesKept _ _ _, hrep.now_finish _ _ _, fun detail hdetail => ?offered, ?slot,
      ?head, _, hp, ?step, succeeded_liveness hlive, rfl, rfl, rfl, rfl, rfl, rfl⟩
    case kept => exact State.Reporting.requestsKept (hrep.unflushed_of_ne hne) hrep (requestsKept_onRequest _) true none .idle
    case offered =>
      have hoffered := hrep.offered true none .idle
      rw [lostRecords_of_online hlive, rejectDetail_eq, ← hdetail] at hoffered
      exact hoffered
    case slot =>
      refine State.Reporting.request?_finish (hrep.unflushed_of_ne hne) hrep ?_ (by intro h; cases h) true none .idle
      rw [request?_onRequest, if_pos ⟨rfl, rfl⟩, hr]; rfl
    case head => exact hrep.headSettled_onRequest hne hr hnotAnswering true none .idle (fun h => by cases h)
    case step => 
      show (e.outOfStep || (decide (e.succeeded.liveness ≠ .offline) && !e.outOfStep)) = true
      rw [succeeded_liveness hlive]
      cases e.outOfStep <;> rfl

/-- R114: what BUSY makes of the request. -/
theorem onBusy_eq {s : State} {n : LineNo} {x : Exchange} {e : Station} {k : SlotNo} {r : Request} (hslot : x.slot = some k)
    (hr : s.request? n k = some r) (hentry : s.entryOf n x = some e) (hover : s.override n x = none) :
    (r.busyCount < e.busyLimit → s.onBusy n x
      = (s.onRequest n k fun q => { q with state := .waiting, busyCount := q.busyCount + 1 }).finishTurn n x true (.success .busy)
        none .idle)
    ∧ (¬ r.busyCount < e.busyLimit →
      s.onBusy n x = (s.makeDone n k .refused id).finishTurn n x false (.success .busy) none .idle) := by
  unfold State.onBusy
  simp only [hslot, hentry, hr]
  refine ⟨fun h => ?_, fun h => if_neg h⟩
  rw [if_pos h, settleContinuing_of_kept hslot hover]

/-- Settles O46 (R62, R70, R114). -/
theorem busyHoldsOffOrRefuses : Obligations.BusyHoldsOffOrRefuses := by
  intro s n t e k r control hplain hframe hslot hr hstate hmark hlive hend hkind
  have hmarks : ∀ j q, t.exch.slot = some j → s.request? n j = some q → q.cancelMark = false := by
    intro j q hj hq
    obtain rfl : k = j := Option.some.inj (hslot.symm.trans hj)
    obtain rfl : r = q := Option.some.inj (hr.symm.trans hq)
    exact hmark
  have hclass : classify t.exch.frame t.exch.control control [] = .wellFormed .busy := by
    rw [hframe]; exact classify_busy hkind
  have hrun := exec_endReceived hplain.active hplain.2.2.1 hend
  rw [onFrame_of_wellFormed hclass] at hrun
  obtain ⟨hkept, hrefused⟩ :=
    onBusy_eq hslot hr (entryOf_of_station hplain.2.2.2.1 hplain.2.2.2.2.2.1) (hplain.override hmarks)
  have hne : e.succeeded.liveness ≠ .offline := by rw [succeeded_liveness hlive]; decide
  by_cases hbusy : r.busyCount < e.busyLimit
  case pos =>
    have hrep := hplain.busy (onlyRequests_onRequest n s k fun q => { q with state := .waiting, busyCount := q.busyCount + 1 })
    obtain ⟨p, hp⟩ := hrep.entry_finish true none .idle
    rw [if_pos hbusy]
    refine ⟨_, hrun.trans (congrArg Host.Outcome.next (hkept hbusy)), hrep.turnOver true none,
      State.Reporting.requestsKept (hrep.unflushed_of_ne hne) hrep (requestsKept_onRequest _) true none .idle,
      hrep.entriesKept _ _ _, hrep.now_finish _ _ _, hrep.offered true none .idle, fun _ => ?waiting,
      fun h => absurd hbusy (Nat.not_lt.2 h),
      hrep.headSettled_onRequest hne hr (by rw [hstate]; decide) true none .idle (fun h => by cases h),
      _, hp, rfl, rfl, succeeded_liveness hlive, rfl, rfl, rfl, rfl, rfl⟩
    case waiting =>
      refine State.Reporting.request?_finish (hrep.unflushed_of_ne hne) hrep ?_ (fun h => by cases h) true none .idle
      rw [request?_onRequest, if_pos ⟨rfl, rfl⟩, hr]; rfl
  case neg =>
    have hnotDone : r.state ≠ .done := by rw [hstate]; decide
    have hrep := hplain.busy (onlyRequests_makeDone n s k .refused id)
    obtain ⟨p, hp⟩ := hrep.entry_finish false none .idle
    rw [if_neg hbusy]
    refine ⟨_, hrun.trans (congrArg Host.Outcome.next (hrefused hbusy)), hrep.turnOver false none,
      State.Reporting.requestsKept (hrep.unflushed_of_ne hne) hrep (requestsKept_makeDone _ _) false none .idle,
      hrep.entriesKept _ _ _, hrep.now_finish _ _ _, hrep.offered false none .idle, fun h => absurd h hbusy, fun _ => ?refused,
      hrep.headSettled_makeDone hne hr hnotDone false none .idle, _, hp, rfl, rfl, succeeded_liveness hlive, rfl, rfl, rfl, rfl,
      rfl⟩
    case refused =>
      exact State.Reporting.request?_finish (hrep.unflushed_of_ne hne) hrep (request?_makeDone_self hr hnotDone _ _)
        (fun h => by cases h) false none .idle

end Sys2Proof.Machine

/-! Accepted DATA stored: the end of its turn (6.3, 7.2, R130 to R132). -/

namespace Sys2Proof.Machine

section
variable {s b u : State} {n : LineNo}

/-! ### Frames judged against another state of the same line -/

theorem requestsKept_congr {k : Option SlotNo} (hpool : (b.line n).pool = (s.line n).pool) (h : State.RequestsKept n k b u) :
    State.RequestsKept n k s u := fun j r hj hr hstate =>
  h j r hj ((request?_congr (congrArg Pool.slots hpool) j).trans hr) hstate

theorem headSettled_congr {e : Station} {gone : Option SlotNo} {ends : Bool} (hpool : (b.line n).pool = (s.line n).pool)
    (hconfig : (b.line n).config = (s.line n).config) (h : State.HeadSettled n e gone ends b u) :
    State.HeadSettled n e gone ends s u := by
  have hslots : ∀ k, b.request? n k = s.request? n k := request?_congr (congrArg Pool.slots hpool)
  unfold State.HeadSettled at h ⊢
  simpa only [hslots, hpool, hconfig] using h

/-! ### Writes of accepted DATA (R130, R132) -/

theorem exec_bufferWriteDone {a : Access} (h : s.Awaits (.bufferWrite n) a) :
    exec .bufferWriteDone s = .next ((s.finishAccess a).bufferStored n) := by
  obtain ⟨hflight, hkind, hheeds⟩ := h
  change Host.Outcome.next s.afterBufferWrite = _
  simp [State.afterBufferWrite, hflight, hkind, hheeds]

theorem exec_answerWriteDone {a : Access} (h : s.Awaits (.answerWrite n) a) :
    exec .answerWriteDone s = .next ((s.finishAccess a).answerStored n) := by
  obtain ⟨hflight, hkind, hheeds⟩ := h
  change Host.Outcome.next s.afterAnswerWrite = _
  simp [State.afterAnswerWrite, hflight, hkind, hheeds]

theorem bufferStored_eq {t : Turn} {d : Descriptor} {rest : List Descriptor} {st : Store} (hstate : (s.line n).state = .turn t)
    (hcache : (s.line n).buf.cache = d :: rest) (hstore : t.store = some st) : s.bufferStored n
      = (s.postArrival n d t.exch.address st).finishTurn n t.exch false (.success (.stored st.seq)) none .idle := by
  simp only [State.bufferStored, turn?_of_state hstate, hcache, hstore]

theorem answerStored_eq {t : Turn} {k : SlotNo} {st : Store} (hstate : (s.line n).state = .turn t)
    (hslot : t.exch.slot = some k) (hstore : t.store = some st) : s.answerStored n
      = (s.makeDone n k .ok fun r => { r with answerLength := st.length, truncated := st.truncated }).finishTurn n t.exch false
        (.success (.stored st.seq)) none .idle := by
  simp only [State.answerStored, turn?_of_state hstate, hslot, hstore]

end

/-- Settles O48 (R62, R68, R130, R132). -/
theorem storedDataIsReported : Obligations.StoredDataIsReported := by
  rintro s n a t e st online hplain hstore hlive rfl
  have hstate := hplain.2.2.1
  have hne : e.succeeded.liveness ≠ .offline := by rw [succeeded_liveness hlive]; decide
  refine ⟨fun d rest hawaits _ hcache => ?buffer, fun k r hawaits hslot hr hanswering => ?answer⟩
  case buffer =>
    have hline : ((s.finishAccess a).postArrival n d t.exch.address st).line n = { s.line n with
        buf := { (s.line n).buf with cache := rest, reserved := false }
        post := { (s.line n).post with
          queue := (s.line n).post.queue ++ [arrivalOf n d.tag t.exch.address st.length st.truncated], reservation := false } } := by
      rw [State.postArrival, line_onLine, if_pos rfl, ← List.tail_cons (a := d) (as := rest), ← hcache]
      rfl
    have hplain' : ((s.finishAccess a).postArrival n d t.exch.address st).PlainTurn n t e := by
      obtain ⟨hrunning, hidle, -, hstation, haddress, hentry, hattached⟩ := hplain
      exact ⟨hrunning, hidle, by rw [hline]; exact hstate, hstation, haddress, hentry, hattached⟩
    have hrep := hplain'.stored (.refl n _) st.seq
    have hquiet := hrep.unflushed_of_ne hne
    have hpool : (((s.finishAccess a).postArrival n d t.exch.address st).line n).pool = (s.line n).pool := by rw [hline]
    have hended := turnEnded_finishTurn n ((s.finishAccess a).postArrival n d t.exch.address st) t.exch false
      (.success (.stored st.seq)) none .idle
    obtain ⟨p, hp⟩ := hrep.entry_finish false none .idle
    refine ⟨_, (exec_bufferWriteDone hawaits).trans (congrArg Host.Outcome.next (bufferStored_eq hstate hcache hstore)),
      TurnOver.of_onLine rfl (hrep.turnOver false none), ?kept, hrep.entriesKept _ _ _, hrep.now_finish _ _ _, ?offered, ?cache,
      ?reserved, ?head, ?queue, _, hp, rfl, rfl, succeeded_liveness hlive, rfl, rfl, rfl, rfl⟩
    case kept =>
      exact requestsKept_congr hpool
        (State.Reporting.requestsKept hquiet hrep (fun _ _ _ hr _ => hr : State.RequestsKept n none _ _) false none .idle)
    case offered =>
      exact offered_congr (b := (s.finishAccess a).postArrival n d t.exch.address st) rfl rfl rfl (by rw [hline]) rfl
        (hrep.offered false none .idle)
    case cache => rw [hrep.buf_finish, hline]
    case reserved => rw [hrep.buf_finish, hline]; rfl
    case head => exact headSettled_congr hpool (by rw [hline]) (hrep.headSettled_same hquiet false none .idle)
    case queue =>
      rw [hended.queue, hline, hplain.2.2.2.2.1]
      rfl
  case answer =>
    have hrep := State.PlainTurn.stored (b := s.finishAccess a) hplain
      (onlyRequests_makeDone n (s.finishAccess a) k .ok fun r => { r with answerLength := st.length, truncated := st.truncated })
      st.seq
    have hquiet := hrep.unflushed_of_ne hne
    have hopen : r.state ≠ .done := by rw [hanswering]; decide
    have hmade := request?_makeDone_self (s := s.finishAccess a) (n := n) (k := k) hr hopen .ok
      fun r => { r with answerLength := st.length, truncated := st.truncated }
    have hended := turnEnded_finishTurn n
      ((s.finishAccess a).makeDone n k .ok fun r => { r with answerLength := st.length, truncated := st.truncated }) t.exch false
      (.success (.stored st.seq)) none .idle
    obtain ⟨p, hp⟩ := hrep.entry_finish false none .idle
    refine ⟨_, (exec_answerWriteDone hawaits).trans
        (congrArg Host.Outcome.next (answerStored_eq (s := s.finishAccess a) hstate hslot hstore)),
      hrep.turnOver false none, ?kept',
      hrep.entriesKept _ _ _, hrep.now_finish _ _ _, ?slot, offered_congr (b := s.finishAccess a) rfl rfl rfl rfl rfl (hrep.offered false none .idle),
      ?head', ?cache', ?queue', _, hp, rfl, rfl,
      succeeded_liveness hlive, rfl, rfl, rfl, rfl⟩
    case kept' =>
      exact requestsKept_congr (b := s.finishAccess a) rfl
        (State.Reporting.requestsKept hquiet hrep (requestsKept_makeDone _ _) false none .idle)
    case head' =>
      exact headSettled_congr (b := s.finishAccess a) rfl rfl (hrep.headSettled_makeDone (r := r) hne hr hopen false none .idle)
    case slot => exact State.Reporting.request?_finish hquiet hrep hmade (fun h => by cases h) false none .idle
    case cache' => rw [hrep.buf_finish]; rfl
    case queue' => exact hended.queue.trans (by rw [line_makeDone]; rfl)

end Sys2Proof.Machine

/-! Replies to a POLL and to a RESET (6.3, R113, R115, R116, R130, R132). -/

namespace Sys2Proof.Machine

/-! ### Classification -/

section
variable {control sentControl : Byte} {payload : List Byte}

theorem classify_pollIdle (hkind : control.extractLsb' 4 4 = 0x9) :
    classify .poll sentControl control [] = .wellFormed .idle := by
  simp [classify, controlKind, hkind]

theorem classify_pollData (hkind : control.extractLsb' 4 4 = 0x8) (h1 : 1 ≤ payload.length) (h240 : payload.length ≤ 240) :
    classify .poll sentControl control payload = .wellFormed (.data (control.extractLsb' 0 3) payload) :=
  if_pos ⟨hkind, h1, h240⟩

theorem classify_pollReject (hkind : control.extractLsb' 4 4 = 0xC) (hlength : payload.length ≤ 1) :
    classify .poll sentControl control payload = .wellFormed (.reject payload.head?) := by
  simp [classify, controlKind, hkind, hlength]

theorem classify_ready (hkind : control.extractLsb' 4 4 = 0xD) :
    classify .reset sentControl control [] = .wellFormed .ready := by
  simp [classify, controlKind, hkind]

end

/-! ### A turn that ends with its request and its slot untouched -/

/-- What the end of a turn that leaves its request as it was leaves: entry `e` become `g`, and `records` offered. -/
structure State.EndedAsIs (n : LineNo) (retry : Option Exchange) (e g : Station) (records : List EventRecord) (s u : State) :
    Prop where
  turnOver : State.TurnOver n retry s u
  requests : State.RequestsKept n none s u
  entries : State.EntriesKept n e.address s u
  now : u.now = s.now
  buf : (u.line n).buf = { (s.line n).buf with reserved := (s.line n).buf.reserved && retry.isSome }
  offered : State.Offered n records s u
  head : State.HeadSettled n e none retry.isNone s u
  entry : ∃ p, u.station? n e.address = some { g with pending := p }

section
variable {s : State} {n : LineNo} {x : Exchange} {rep : Report} {e : Station} {f : Station → Station}
  {records : List EventRecord} {retry : Option Exchange}

theorem State.Reporting.endedAsIs (h : State.Reporting n x rep e f records s s)
    (hquiet : s.applyReport n x rep = s.reported n e.address f records) (continues : Bool) (retry : Option Exchange) :
    State.EndedAsIs n retry e (f e) records s (s.finishTurn n x continues rep retry .idle) where
  turnOver := h.turnOver continues retry
  requests := State.Reporting.requestsKept hquiet h (fun _ _ _ hr _ => hr) continues retry .idle
  entries := h.entriesKept continues retry .idle
  now := h.now_finish continues retry .idle
  buf := h.buf_finish continues retry .idle
  offered := h.offered continues retry .idle
  head := h.headSettled_same hquiet continues retry .idle
  entry := h.entry_finish continues retry .idle

/-- Records offered after others. -/
theorem offered_append {b u : State} {rs qs : List EventRecord} (hcontrol : b.control = s.control) (her : b.er = s.er)
    (hcq : b.cq = s.cq) (hheld : (b.line n).post.held = (s.line n).post.held) (hevents : b.events = (rs.foldl State.offer s).events)
    (h : State.Offered n qs b u) : State.Offered n (rs ++ qs) s u := by
  have hcqOf : b.cqOf n = s.cqOf n := by unfold State.cqOf State.cqRing; rw [hcq]
  have hrecords : ∀ ws : List EventRecord, (ws.foldl State.offer b).events = ((rs ++ ws).foldl State.offer s).events :=
    fun ws => by
      rw [List.foldl_append]
      exact events_foldl_offer_congr ws (hcontrol.trans (control_foldl_offer ..).symm) (her.trans (er_foldl_offer ..).symm) hevents
  unfold State.Offered at h ⊢
  rw [heldOnset_iff] at h ⊢
  simpa only [hcqOf, hrecords, hheld, List.append_assoc] using h

/-! A change of the entry and records before the turn's end are part of it. -/

theorem turnOver_of_reported {u : State} {rs : List EventRecord} {a : Byte} (hkey : ∀ y, (f y).key = y.key)
    (h : State.TurnOver n retry (s.reported n a f rs) u) : State.TurnOver n retry s u := by
  unfold State.TurnOver State.OthersKept at h ⊢
  rw [reported_eq] at h
  obtain ⟨hstate, hsched, hres, hwriting, hconfig, hfetch, hstreak, htx, hrx, hreading, hdevice, hadmin, hport, hothers⟩ := h
  refine ⟨hstate, hsched, hres, hwriting, hconfig, hfetch, hstreak, htx, hrx, hreading, hdevice, hadmin, hport,
    fun m hm => ⟨(hothers m hm).1, (hothers m hm).2.trans ?_⟩⟩
  exact ((settling_onStation n s a f hkey).others m hm).2

theorem entriesKept_of_reported {u : State} {rs : List EventRecord} {a : Byte} (hkey : ∀ y, (f y).key = y.key)
    (h : State.EntriesKept n a (s.reported n a f rs) u) : State.EntriesKept n a s u := fun b y hb hy =>
  h b y hb ((station?_reported hkey s rs b).trans (by rw [if_neg hb]; exact hy))

theorem offered_of_reported {u : State} {rs : List EventRecord} {a : Byte}
    (h : State.Offered n records (s.reported n a f rs) u) : State.Offered n (rs ++ records) s u := by
  refine offered_append (b := s.reported n a f rs) ?_ ?_ ?_ (by rw [line_reported]) (by rw [reported_eq]) h
  · rw [reported_eq]; rfl
  · rw [reported_eq]; rfl
  · rw [reported_eq]; rfl

theorem now_reported (s : State) (n : LineNo) (a : Byte) (f : Station → Station) (rs : List EventRecord) :
    (s.reported n a f rs).now = s.now := by
  rw [reported_eq]; rfl

/-- What is left of the list, when the entry was changed before. -/
theorem headSettled_of_reported {u : State} {rs : List EventRecord} {a : Byte} {gone : Option SlotNo} {ends : Bool}
    (hlist : (f e).pending = e.pending) (h : State.HeadSettled n (f e) gone ends (s.reported n a f rs) u) :
    State.HeadSettled n e gone ends s u := by
  refine headSettled_congr (b := s.reported n a f rs) (by rw [line_reported]) (by rw [line_reported]) ?_
  unfold State.HeadSettled at h ⊢
  rwa [hlist] at h

theorem State.EndedAsIs.of_reported {u : State} {g : Station} {rs : List EventRecord} (hsteady : Station.Steady f)
    (hlist : (f e).pending = e.pending) (h : State.EndedAsIs n retry (f e) g records (s.reported n e.address f rs) u) :
    State.EndedAsIs n retry e g (rs ++ records) s u := by
  have haddress : (f e).address = e.address := congrArg Prod.snd (hsteady.key e)
  obtain ⟨hturnOver, hrequests, hentries, hnow, hbuf, hoffered, hhead, p, hp⟩ := h
  rw [haddress] at hentries hp
  exact ⟨turnOver_of_reported hsteady.key hturnOver, requestsKept_congr (by rw [line_reported]) hrequests,
    entriesKept_of_reported hsteady.key hentries, hnow.trans (now_reported ..), hbuf.trans (by rw [line_reported]),
    offered_of_reported hoffered, headSettled_of_reported hlist hhead, p, hp⟩

end

/-! ### Replies to a POLL that complete nothing (R115, R116) -/

theorem onRequest_id (s : State) (n : LineNo) (k : SlotNo) : s.onRequest n k id = s := by
  refine onLine_of_fixed ?_
  unfold Line.onRequest
  cases h : (s.line n).held? k with
  | none => rfl
  | some r =>
    have hslot := held?_eq h
    have hsame : (s.line n).pool.slots.set k (.held r) = (s.line n).pool.slots := by
      rw [← hslot]; exact Vector.set_getElem_self k.isLt
    simp only [Line.setSlot, id, hsame]

section
variable {s : State} {n : LineNo} {t : Turn} {e : Station} {control : Byte} {payload : List Byte}

/-- R115: the ANSWERING head the turn served, if any, stays as it is. -/
theorem onPollPlain_eq (hover : s.override n t.exch = none) (eff : ReplyEffect) :
    ∃ served, s.onPollPlain n t.exch eff = s.finishTurn n t.exch served (.success eff) none .idle := by
  have hsame : s.settleContinuing n t.exch id id = s := by
    unfold State.settleContinuing
    cases hslot : t.exch.slot with
    | none => rfl
    | some k => simp only [hover]; exact onRequest_id s n k
  unfold State.onPollPlain
  simp only [hsame, ite_self]
  exact ⟨_, rfl⟩

/-- The end of a POLL whose reply is an exchange success that completes nothing. -/
theorem endedAsIs_onPollPlain (hplain : s.PlainTurn n t e) (hover : s.override n t.exch = none)
    (hlive : e.liveness = .online ∨ e.liveness = .suspect) :
    State.EndedAsIs n none e e.succeeded (onlineRecords n e) s (s.onPollPlain n t.exch .plain) := by
  obtain ⟨served, hserved⟩ := onPollPlain_eq hover .plain
  rw [hserved]
  have hrep := hplain.plain (.refl n s)
  exact hrep.endedAsIs (hrep.unflushed_of_ne (by rw [succeeded_liveness hlive]; decide)) served none

theorem endedAsIs_onPollPlain_outOfStep (hplain : s.PlainTurn n t e) (hover : s.override n t.exch = none)
    (hlive : e.liveness = .online ∨ e.liveness = .suspect) (detail : Nat) :
    State.EndedAsIs n none e (e.succeeded.unstepped e.succeeded)
      (onlineRecords n e ++ lostRecords n e.succeeded (BitVec.ofNat 16 detail)) s
      (s.onPollPlain n t.exch (.outOfStep detail)) := by
  obtain ⟨served, hserved⟩ := onPollPlain_eq hover (.outOfStep detail)
  rw [hserved]
  have hne : (e.succeeded.unstepped e.succeeded).liveness ≠ .offline := by
    rw [show (e.succeeded.unstepped e.succeeded).liveness = e.succeeded.liveness from rfl, succeeded_liveness hlive]; decide
  have hrep := hplain.outOfStep (.refl n s) detail
  exact hrep.endedAsIs (hrep.unflushed_of_ne hne) served none

/-- R53: an entry with a protocol error counted. -/
def Station.misread (e : Station) : Station := { e with protocolErrors := min (e.protocolErrors + 1) 65535 }

theorem steady_misread : Station.Steady Station.misread := ⟨fun _ => rfl, fun _ _ => rfl⟩

/-- R53: the record of a protocol error. -/
def misreadRecord (n : LineNo) (e : Station) (control : Byte) : EventRecord :=
  ⟨.protocolError, BitVec.ofNat 8 n.val, e.address, control.setWidth 16, 0, false⟩

theorem reportProtocolError_eq (s : State) (n : LineNo) (e : Station) (control : Byte) :
    s.reportProtocolError n e.address control = s.reported n e.address Station.misread [misreadRecord n e control] := by
  rw [misreadRecord, ← BitVec.ofNat_toNat]
  rfl

theorem State.PlainTurn.reported {f : Station → Station} (h : s.PlainTurn n t e) (hkey : ∀ y, (f y).key = y.key)
    (hattached : (f e).detachPending = e.detachPending) (rs : List EventRecord) :
    (s.reported n e.address f rs).PlainTurn n t (f e) := by
  obtain ⟨hrunning, hidle, hstate, hstation, haddress, hentry, hfree⟩ := h
  have hsame : (f e).address = e.address := congrArg Prod.snd (hkey e)
  have hfound := station?_reported_self hkey rs hentry
  refine ⟨?_, ?_, ?_, hstation.trans (congrArg some hsame.symm), haddress.trans hsame.symm,
    (congrArg _ hsame).trans hfound, hattached.trans hfree⟩
  · rw [reported_eq]; exact hrunning
  · rw [reported_eq]; exact hidle
  · rw [line_reported]; exact hstate

/-- R116: DATA though the POLL carried no READY. -/
theorem endedAsIs_misread (hplain : s.PlainTurn n t e)
    (hmark : ∀ k r, t.exch.slot = some k → s.request? n k = some r → r.cancelMark = false)
    (hlive : e.liveness = .online ∨ e.liveness = .suspect) :
    State.EndedAsIs n none e e.misread.succeeded ([misreadRecord n e control] ++ onlineRecords n e) s
      ((s.reported n e.address Station.misread [misreadRecord n e control]).onPollPlain n t.exch .plain) := by
  have hplain' := hplain.reported steady_misread.key rfl [misreadRecord n e control]
  refine State.EndedAsIs.of_reported (f := Station.misread) steady_misread rfl
    (endedAsIs_onPollPlain hplain' (hplain'.override fun k r hk hr => hmark k r hk ?_) hlive)
  rwa [request?_reported] at hr

/-! ### DATA in answer to a POLL (R115, R116) -/

theorem onPollData_of_unready (hplain : s.PlainTurn n t e) (hkind : t.exch.kind ≠ .slow)
    (hready : t.exch.control.getLsbD 3 = false) (seq : Seq) : s.onPollData n t control seq payload
      = (s.reported n e.address Station.misread [misreadRecord n e control]).onPollPlain n t.exch .plain := by
  have hentry := entryOf_of_station hplain.2.2.2.1 hplain.2.2.2.2.2.1
  unfold State.onPollData
  simp only [hentry, hready, if_true]
  rw [noteProtocolError_of_counted hentry hkind hplain.2.2.2.2.2.2, reportProtocolError_eq]

theorem onPollData_of_ready (hplain : s.PlainTurn n t e) (hready : t.exch.control.getLsbD 3 = true) (seq : Seq) :
    s.onPollData n t control seq payload = if seq = e.rxExpect then
        if s.readyUnbacked n t.exch then s.onPollPlain n t.exch .plain else s.beginStore n t seq payload
      else if seq = e.rxExpect - 1 then s.onPollPlain n t.exch .plain
      else s.onPollPlain n t.exch (.outOfStep (256 + seq.toNat)) := by
  have hentry := entryOf_of_station hplain.2.2.2.1 hplain.2.2.2.2.2.1
  unfold State.onPollData
  simp only [hentry, hready, Bool.true_eq_false, if_false]

/-- R116: the POLL's READY has nothing behind it any more. -/
theorem readyUnbacked_iff (x : Exchange) : s.readyUnbacked n x = true ↔ x.frame = .poll ∧ x.control.getLsbD 3 = true
    ∧ (s.line n).buf.reserved = false ∧ ∀ k r, x.slot = some k → s.request? n k = some r → r.state ≠ .answering := by
  unfold State.readyUnbacked
  simp only [Bool.and_eq_true, decide_eq_true_eq, Bool.not_eq_true', and_assoc]
  refine and_congr_right fun _ => and_congr_right fun _ => and_congr_right fun _ => ?_
  cases hslot : x.slot with
  | none => simp
  | some k =>
    have hslots : (∀ j r, some k = some j → s.request? n j = some r → r.state ≠ .answering)
        ↔ ∀ r, s.request? n k = some r → r.state ≠ .answering :=
      ⟨fun h r hr => h k r rfl hr, fun h j r hj hr => by cases hj; exact h r hr⟩
    rw [hslots]
    cases hr : s.request? n k with
    | none => simp [State.slotIs, hr]
    | some r => simp [State.slotIs, hr]

/-! ### DATA begins its write (R130, R132) -/

/-- R130, R132: the write of accepted DATA asked for. -/
def storing (t : Turn) (answer : Bool) (seq : Seq) (room : Nat) (payload : List Byte) : Turn :=
  { t with
    phase := .store, gapEnd := none, collector := none
    store := some ⟨answer, seq, min payload.length room, decide (room < payload.length)⟩ }

theorem beginStore_of_buffer {d : Descriptor} {rest : List Descriptor} {size : Nat} (hslot : t.exch.slot = none)
    (hcache : (s.line n).buf.cache = d :: rest) (hsize : (s.line n).config.bufferSize = some size) (seq : Seq) :
    s.beginStore n t seq payload = (s.setTurn n (storing t false seq size payload)).request
      (writeAccess (.bufferWrite n) d.address (payload.take size)) := by
  unfold State.beginStore
  simp only [hslot, Option.bind_none, hcache, hsize]
  rfl

theorem beginStore_of_answer {k : SlotNo} {r : Request} (hslot : t.exch.slot = some k) (hr : s.request? n k = some r)
    (seq : Seq) : s.beginStore n t seq payload
      = (s.setTurn n (storing t true seq r.answerCap.toNat payload)).request
        (writeAccess (.answerWrite n) r.answerAddr (payload.take r.answerCap.toNat)) := by
  have hfound : t.exch.slot.bind (s.request? n) = some r := by rw [hslot]; exact hr
  unfold State.beginStore
  simp only [hfound]
  rfl

end

/-! ### READY in answer to RESET (R65, R113) -/

section
variable {s : State} {n : LineNo} {t : Turn} {e : Station}

/-- R113: the request a RESET served, if any, DONE with OK. -/
def State.readied (s : State) (n : LineNo) (x : Exchange) : State := (x.slot.elim s fun k => s.makeDone n k .ok id)

theorem onReady_eq (x : Exchange) :
    s.onReady n x = (s.readied n x).finishTurn n x false (.success .synced) none .idle := by
  unfold State.onReady State.readied
  cases x.slot <;> rfl

theorem onlyRequests_readied (x : Exchange) : State.OnlyRequests n s (s.readied n x) := by
  unfold State.readied
  cases x.slot with
  | none => exact .refl n s
  | some k => exact onlyRequests_makeDone n s k .ok id

theorem requestsKept_readied (x : Exchange) : State.RequestsKept n x.slot s (s.readied n x) := by
  unfold State.readied
  cases x.slot with
  | none => exact fun _ _ _ hr _ => hr
  | some k => exact requestsKept_makeDone .ok id

theorem synced_ne (e : Station) : e.synced.liveness ≠ .offline := by intro h; cases h

/-- R97: with its request DONE, or none served, what is left of the list is settled. -/
theorem headSettled_readied (hplain : s.PlainTurn n t e)
    (hactive : ∀ k, t.exch.slot = some k → ∃ r, s.request? n k = some r ∧ r.state = .active) :
    State.HeadSettled n e t.exch.slot true s
      ((s.readied n t.exch).finishTurn n t.exch false (.success .synced) none .idle) := by
  cases hslot : t.exch.slot with
  | none =>
    have hsame : s.readied n t.exch = s := by rw [State.readied, hslot]; rfl
    rw [hsame]
    have hrep := hplain.synced (.refl n s)
    exact hrep.headSettled_same (hrep.unflushed_of_ne (synced_ne e)) false none .idle
  | some k =>
    have hdone : s.readied n t.exch = s.makeDone n k .ok id := by rw [State.readied, hslot]; rfl
    obtain ⟨r, hr, hstate⟩ := hactive k hslot
    rw [hdone]
    exact (hplain.synced (onlyRequests_makeDone n s k .ok id)).headSettled_makeDone (synced_ne e) hr (by rw [hstate]; decide)
      false none .idle

end

/-! ### The three kinds of reply that complete nothing (R115, R116) -/

/-- IDLE, DATA one behind, or DATA that nothing backs any more. -/
def SettlesPoll (s : State) (n : LineNo) (x : Exchange) (e : Station) (control : Byte) (payload : List Byte) : Prop :=
  (control.extractLsb' 4 4 = 0x9 ∧ payload = [])
    ∨ (control.extractLsb' 4 4 = 0x8 ∧ 1 ≤ payload.length ∧ payload.length ≤ 240
      ∧ x.control.getLsbD 3 = true ∧ (control.extractLsb' 0 3 = e.rxExpect - 1
        ∨ (control.extractLsb' 0 3 = e.rxExpect ∧ (s.line n).buf.reserved = false
          ∧ ∀ k r, x.slot = some k → s.request? n k = some r → r.state ≠ .answering)))

/-- REJECT, or DATA out of sequence. -/
def LosesStep (x : Exchange) (e : Station) (control : Byte) (payload : List Byte) : Prop :=
  (control.extractLsb' 4 4 = 0xC ∧ payload.length ≤ 1)
    ∨ (control.extractLsb' 4 4 = 0x8 ∧ 1 ≤ payload.length ∧ payload.length ≤ 240
      ∧ x.control.getLsbD 3 = true ∧ control.extractLsb' 0 3 ≠ e.rxExpect ∧ control.extractLsb' 0 3 ≠ e.rxExpect - 1)

/-- DATA though the POLL carried no READY. -/
def MisreadsPoll (x : Exchange) (control : Byte) (payload : List Byte) : Prop :=
  control.extractLsb' 4 4 = 0x8 ∧ 1 ≤ payload.length ∧ payload.length ≤ 240 ∧ x.control.getLsbD 3 = false

section
variable {s : State} {n : LineNo} {t : Turn} {e : Station} {control : Byte} {payload : List Byte}

theorem LosesStep.not_settles (h : LosesStep t.exch e control payload) : ¬ SettlesPoll s n t.exch e control payload := by
  rintro (⟨hkind, -⟩ | ⟨hkind, -, -, -, hseq⟩) <;> rcases h with ⟨hkind', -⟩ | ⟨hkind', -, -, -, hne, hne'⟩
  · rw [hkind] at hkind'; exact absurd hkind' (by decide)
  · rw [hkind] at hkind'; exact absurd hkind' (by decide)
  · rw [hkind] at hkind'; exact absurd hkind' (by decide)
  · rcases hseq with hseq | ⟨hseq, -⟩
    · exact hne' hseq
    · exact hne hseq

theorem MisreadsPoll.not_settles (h : MisreadsPoll t.exch control payload) : ¬ SettlesPoll s n t.exch e control payload := by
  obtain ⟨hkind', -, -, hready'⟩ := h
  rintro (⟨hkind, -⟩ | ⟨-, -, -, hready, -⟩)
  · rw [hkind] at hkind'; exact absurd hkind' (by decide)
  · rw [hready] at hready'; cases hready'

theorem MisreadsPoll.not_loses (h : MisreadsPoll t.exch control payload) : ¬ LosesStep t.exch e control payload := by
  obtain ⟨hkind', -, -, hready'⟩ := h
  rintro (⟨hkind, -⟩ | ⟨-, -, -, hready, -⟩)
  · rw [hkind] at hkind'; exact absurd hkind' (by decide)
  · rw [hready] at hready'; cases hready'

theorem onFrame_of_settles (hplain : s.PlainTurn n t e) (hframe : t.exch.frame = .poll)
    (h : SettlesPoll s n t.exch e control payload) : s.onFrame n t control payload = s.onPollPlain n t.exch .plain := by
  rcases h with ⟨hkind, rfl⟩ | ⟨hkind, h1, h240, hready, hseq⟩
  · exact onFrame_of_wellFormed (by rw [hframe]; exact classify_pollIdle hkind)
  · have hclass : classify t.exch.frame t.exch.control control payload = .wellFormed (.data (control.extractLsb' 0 3) payload) := by
      rw [hframe]; exact classify_pollData hkind h1 h240
    refine (onFrame_of_wellFormed hclass).trans ((onPollData_of_ready hplain hready _).trans ?_)
    rcases hseq with hbehind | ⟨hexpected, hreserved, hslot⟩
    · have hne : control.extractLsb' 0 3 ≠ e.rxExpect := by
        rw [hbehind]; intro h; bv_omega
      rw [if_neg hne, if_pos hbehind]
    · rw [if_pos hexpected, if_pos ((readyUnbacked_iff _).2 ⟨hframe, hready, hreserved, hslot⟩)]

/-- R45, R69: the detail of STATION_OUT_OF_STEP. -/
theorem onFrame_of_loses (hplain : s.PlainTurn n t e) (hframe : t.exch.frame = .poll)
    (h : LosesStep t.exch e control payload) : ∃ detail, s.onFrame n t control payload = s.onPollPlain n t.exch (.outOfStep detail)
      ∧ (control.extractLsb' 4 4 = 0xC → BitVec.ofNat 16 detail = (payload.head?.map fun b => b.setWidth 16).getD 255)
      ∧ (control.extractLsb' 4 4 = 0x8 → BitVec.ofNat 16 detail = 256 + (control.extractLsb' 0 3).setWidth 16) := by
  rcases h with ⟨hkind, hlength⟩ | ⟨hkind, h1, h240, hready, hne, hne'⟩
  · have hclass : classify t.exch.frame t.exch.control control payload = .wellFormed (.reject payload.head?) := by
      rw [hframe]; exact classify_pollReject hkind hlength
    refine ⟨rejectDetail payload.head?, (onFrame_of_wellFormed hclass).trans ?_, fun _ => rejectDetail_eq payload, fun hdata => ?_⟩
    · simp only [State.onReply, hframe]
    · rw [hkind] at hdata; exact absurd hdata (by decide)
  · have hclass : classify t.exch.frame t.exch.control control payload = .wellFormed (.data (control.extractLsb' 0 3) payload) := by
      rw [hframe]; exact classify_pollData hkind h1 h240
    refine ⟨256 + (control.extractLsb' 0 3).toNat, (onFrame_of_wellFormed hclass).trans ?_, fun hreject => ?_, fun _ => ?_⟩
    · refine (onPollData_of_ready hplain hready _).trans ?_
      rw [if_neg hne, if_neg hne']
    · rw [hkind] at hreject; exact absurd hreject (by decide)
    · rw [BitVec.ofNat_add, BitVec.ofNat_toNat]
      rfl

theorem onFrame_of_misreads (hplain : s.PlainTurn n t e) (hframe : t.exch.frame = .poll) (hkind : t.exch.kind ≠ .slow)
    (h : MisreadsPoll t.exch control payload) : s.onFrame n t control payload
      = (s.reported n e.address Station.misread [misreadRecord n e control]).onPollPlain n t.exch .plain := by
  obtain ⟨hdata, h1, h240, hready⟩ := h
  have hclass : classify t.exch.frame t.exch.control control payload = .wellFormed (.data (control.extractLsb' 0 3) payload) := by
    rw [hframe]; exact classify_pollData hdata h1 h240
  exact (onFrame_of_wellFormed hclass).trans (onPollData_of_unready hplain hkind hready _)

end

/-- Settles O47 (R53, R62, R65, R68, R69, R113, R115, R116, R130, R132). -/
theorem pollAndResetRepliesSettle : Obligations.PollAndResetRepliesSettle := by
  intro s n t e control payload hplain hend
  have hrun := exec_endReceived hplain.active hplain.2.2.1 hend
  refine ⟨fun settles loses errs hframe hkind hlive hmark hsettles hloses herrs hcases => ?plain,
    fun hframe hdata h1 h240 hready hseq => ⟨fun d rest size hslot hreserved hcache hsize => ?buffer,
      fun k r hslot hr hstate => ?answer⟩, fun hframe hkind hempty => ?ready⟩
  case plain =>
    have hsettles' : settles ↔ SettlesPoll s n t.exch e control payload := hsettles
    have hloses' : loses ↔ LosesStep t.exch e control payload := hloses
    have herrs' : errs ↔ MisreadsPoll t.exch control payload := herrs
    have hover := hplain.override hmark
    have hlive' := succeeded_liveness hlive
    rcases hcases with h | h | h
    case inl =>
      have hsettles := hsettles'.1 h
      have hnoLoss : ¬ loses := fun h' => (hloses'.1 h').not_settles hsettles
      have hnoError : ¬ errs := fun h' => (herrs'.1 h').not_settles hsettles
      obtain ⟨hturnOver, hrequests, hentries, hnow, hbuf, hoffered, hhead, p, hp⟩ := endedAsIs_onPollPlain hplain hover hlive
      rw [onFrame_of_settles hplain hframe hsettles] at hrun
      refine ⟨_, hrun, hturnOver, hrequests, hentries, hnow, hbuf.trans (by rw [Option.isSome_none, Bool.and_false]), fun errors online lost detail _ herrors honline _ _ _ hlost => ?_,
        hhead, _, hp, hlive', rfl, rfl, ⟨.inl, fun h' => h'.resolve_right hnoLoss⟩, rfl, rfl, rfl, rfl, rfl,
        fun h' => absurd h' hnoError, fun _ => rfl⟩
      rw [herrors hnoError, hlost fun h' => hnoLoss h'.1, honline, List.append_nil, List.nil_append]
      exact hoffered
    case inr.inl =>
      have hloses := hloses'.1 h
      have hnoError : ¬ errs := fun h' => (herrs'.1 h').not_loses hloses
      obtain ⟨d, hframed, hreject, hdata⟩ := onFrame_of_loses hplain hframe hloses
      obtain ⟨hturnOver, hrequests, hentries, hnow, hbuf, hoffered, hhead, p, hp⟩ :=
        endedAsIs_onPollPlain_outOfStep hplain hover hlive d
      rw [hframed] at hrun
      refine ⟨_, hrun, hturnOver, hrequests, hentries, hnow, hbuf.trans (by rw [Option.isSome_none, Bool.and_false]),
        fun errors online lost detail _ herrors honline hdetailC hdetail8 hlost hnotLost => ?_,
        hhead, _, hp, hlive', rfl, rfl, ⟨fun _ => .inr h, fun _ => ?_⟩, rfl, rfl, rfl, rfl, rfl,
        fun h' => absurd h' hnoError, fun _ => rfl⟩
      case refine_1 =>
        have hdetail : BitVec.ofNat 16 d = detail := by
          rcases hloses with ⟨hkind, -⟩ | ⟨hkind, -⟩
          · rw [hreject hkind, hdetailC hkind]
          · rw [hdata hkind, hdetail8 hkind]
        rw [lostRecords_of_online hlive, hdetail] at hoffered
        rw [herrors hnoError, honline, List.nil_append]
        cases hstep : e.outOfStep with
        | false => rw [hlost ⟨h, hstep⟩]; rw [hstep] at hoffered; exact hoffered
        | true => rw [hnotLost fun h' => (by rw [hstep] at h'; cases h'.2)]; rw [hstep] at hoffered; exact hoffered
      case refine_2 =>
        show (e.outOfStep || (decide (e.succeeded.liveness ≠ .offline) && !e.outOfStep)) = true
        rw [hlive']
        cases e.outOfStep <;> rfl
    case inr.inr =>
      have herrs := herrs'.1 h
      have hnoLoss : ¬ loses := fun h' => herrs.not_loses (hloses'.1 h')
      obtain ⟨hturnOver, hrequests, hentries, hnow, hbuf, hoffered, hhead, p, hp⟩ :=
        endedAsIs_misread (control := control) hplain hmark hlive
      rw [onFrame_of_misreads hplain hframe hkind herrs] at hrun
      refine ⟨_, hrun, hturnOver, hrequests, hentries, hnow, hbuf.trans (by rw [Option.isSome_none, Bool.and_false]), fun errors online lost detail herrors _ honline _ _ _ hlost => ?_,
        hhead, _, hp, hlive', rfl, rfl, ⟨.inl, fun h' => h'.resolve_right hnoLoss⟩, rfl, rfl, rfl, rfl, rfl, fun _ => rfl,
        fun h' => absurd h h'⟩
      rw [herrors h, hlost fun h' => hnoLoss h'.1, honline, List.append_nil]
      exact hoffered
  case buffer =>
    have hclass : classify t.exch.frame t.exch.control control payload = .wellFormed (.data (control.extractLsb' 0 3) payload) := by
      rw [hframe]; exact classify_pollData hdata h1 h240
    have hbacked : ¬ s.readyUnbacked n t.exch = true := by
      rw [readyUnbacked_iff]; rintro ⟨-, -, h, -⟩; rw [hreserved] at h; cases h
    have hreply : s.onReply n t control (.data (control.extractLsb' 0 3) payload)
        = s.onPollData n t control (control.extractLsb' 0 3) payload := rfl
    rw [hrun, onFrame_of_wellFormed hclass, hreply, onPollData_of_ready hplain hready, if_pos hseq, if_neg hbacked,
      beginStore_of_buffer hslot hcache hsize, hseq]
    rfl
  case answer =>
    have hclass : classify t.exch.frame t.exch.control control payload = .wellFormed (.data (control.extractLsb' 0 3) payload) := by
      rw [hframe]; exact classify_pollData hdata h1 h240
    have hbacked : ¬ s.readyUnbacked n t.exch = true := by
      rw [readyUnbacked_iff]; rintro ⟨-, -, -, h⟩; exact h k r hslot hr hstate
    have hreply : s.onReply n t control (.data (control.extractLsb' 0 3) payload)
        = s.onPollData n t control (control.extractLsb' 0 3) payload := rfl
    rw [hrun, onFrame_of_wellFormed hclass, hreply, onPollData_of_ready hplain hready, if_pos hseq, if_neg hbacked,
      beginStore_of_answer hslot hr, hseq]
    rfl
  case ready =>
    subst hempty
    have hclass : classify t.exch.frame t.exch.control control [] = .wellFormed .ready := by
      rw [hframe]; exact classify_ready hkind
    have hreply : s.onReply n t control .ready
        = (s.readied n t.exch).finishTurn n t.exch false (.success .synced) none .idle := onReady_eq _
    rw [onFrame_of_wellFormed hclass, hreply] at hrun
    have hrep := hplain.synced (onlyRequests_readied t.exch)
    have hquiet := hrep.unflushed_of_ne (synced_ne e)
    obtain ⟨p, hp⟩ := hrep.entry_finish false none .idle
    refine ⟨_, hrun, hrep.turnOver false none, State.Reporting.requestsKept hquiet hrep (requestsKept_readied _) false none .idle,
      hrep.entriesKept _ _ _, hrep.now_finish _ _ _, fun code hcode => ?offered, fun k r hslot hr hstate => ?slot,
      fun hactive => headSettled_readied hplain hactive, _, hp, rfl, rfl, rfl, rfl, rfl, rfl, rfl, rfl, rfl, rfl⟩
    case offered =>
      have hcode' : BitVec.ofNat 16 e.liveness.code.toNat = code := by
        rw [hcode]; cases e.liveness <;> rfl
      rw [← hcode']
      exact hrep.offered false none .idle
    case slot =>
      refine State.Reporting.request?_finish hquiet hrep ?_ (fun h => by cases h) false none .idle
      rw [State.readied, hslot]
      exact request?_makeDone_self hr (by rw [hstate]; decide) .ok id

end Sys2Proof.Machine

/-! A turn given up in GUARD (R108). -/

namespace Sys2Proof.Machine

section
variable {s : State} {n : LineNo} {t : Turn} {e : Station} {d : Nat}

theorem exec_jamTimerExpiry (hactive : s.active = true) (hstate : (s.line n).state = .turn t) (hphase : t.phase = .guard)
    (hend : t.jamEnd = some d) : exec (.jamTimerExpiry n) s = .next ((s.reach d).jamTurn n t.exch) := by
  change Host.Outcome.next (s.afterJamExpiry n) = _
  simp only [State.afterJamExpiry, liveTurn_of_state hactive hstate, hphase, hend]

end

/-! ### The request of a turn given up -/

/-- R108: delivery_unknown of a SELECT's retry turn. -/
def Exchange.mark (x : Exchange) (r : Request) : Request :=
  { r with deliveryUnknown := r.deliveryUnknown || (decide (x.frame = .select) && decide (1 < x.turns)) }

/-- R108: an ACTIVE request returns to WAITING. -/
def Exchange.returned (x : Exchange) (r : Request) : Request :=
  if r.state = .active then { x.mark r with state := .waiting } else r

/-- R108: the request of a turn given up, if it is ACTIVE or ANSWERING, under the overriding rules. -/
def State.returned (s : State) (n : LineNo) (x : Exchange) : State :=
  if x.slot.any fun k => s.slotIs n k .answering || s.slotIs n k .active then
    s.settleContinuing n x x.returned fun r => if r.state = .active then x.mark r else r
  else s

/-- R108: the record of a jam. -/
def jamRecord (n : LineNo) (x : Exchange) : EventRecord :=
  ⟨.lineJammed, BitVec.ofNat 8 n.val, x.station.getD 0, BitVec.ofNat 16 x.frame.code.toNat, 0, false⟩

section
variable {s b t u : State} {n : LineNo} {x : Exchange}

theorem jamTurn_eq (s : State) (n : LineNo) (x : Exchange) :
    s.jamTurn n x = ((s.returned n x).offer (jamRecord n x)).finishTurn n x true .silent none .jammed := by
  unfold State.jamTurn State.returned jamRecord
  cases x.slot <;> cases x.station <;> rfl

theorem onlyRequests_returned : State.OnlyRequests n s (s.returned n x) := by
  unfold State.returned
  split
  · exact onlyRequests_settleContinuing n s x _ _
  · exact .refl n s

theorem requestsKept_returned : State.RequestsKept n x.slot s (s.returned n x) := by
  unfold State.returned
  split
  · unfold State.settleContinuing
    cases x.slot with
    | none => exact fun _ _ _ hr _ => hr
    | some k =>
      dsimp only
      split
      · exact requestsKept_makeDone _ _
      · exact requestsKept_onRequest _
  · exact fun _ _ _ hr _ => hr

/-- With no rule overriding, the request of the slot, if it is ACTIVE, returns to WAITING, and nothing else changes. -/
theorem returned_of_kept (hover : s.override n x = none) : s.returned n x = x.slot.elim s fun k => s.onRequest n k x.returned := by
  unfold State.returned
  cases hslot : x.slot with
  | none => rfl
  | some k =>
    simp only [Option.any_some, Option.elim_some]
    split
    · exact settleContinuing_of_kept hslot hover _ _
    · next hstates =>
      have hfixed : ∀ r, (s.line n).held? k = some r → x.returned r = r := fun r hr => by
        have hstates' : r.state ≠ .active := fun h => hstates (by simp [State.slotIs, State.request?, hr, h])
        exact if_neg hstates'
      refine (onLine_of_fixed ?_).symm
      unfold Line.onRequest
      cases hr : (s.line n).held? k with
      | none => rfl
      | some r =>
        have hsame : (s.line n).pool.slots.set k (.held r) = (s.line n).pool.slots := by
          rw [← held?_eq hr]; exact Vector.set_getElem_self k.isLt
        simp only [Line.setSlot, hfixed r hr, hsame]

theorem request?_returned (hover : s.override n x = none) (j : SlotNo) :
    (s.returned n x).request? n j = if x.slot = some j then (s.request? n j).map x.returned else s.request? n j := by
  rw [returned_of_kept hover]
  cases hslot : x.slot with
  | none => rfl
  | some k =>
    rw [Option.elim_some, request?_onRequest]
    by_cases hj : j = k
    · subst hj; rw [if_pos ⟨rfl, rfl⟩, if_pos rfl]
    · rw [if_neg (fun h => hj h.2), if_neg (fun h => hj (Option.some.inj h).symm)]

theorem station?_returned (hover : s.override n x = none) (a : Byte) : (s.returned n x).station? n a = s.station? n a := by
  rw [returned_of_kept hover]
  cases x.slot <;> rfl

theorem doneOrder_returned (hover : s.override n x = none) :
    ((s.returned n x).line n).pool.doneOrder = (s.line n).pool.doneOrder := by
  rw [returned_of_kept hover]
  cases x.slot with
  | none => rfl
  | some k => exact doneOrder_onRequest ..

/-- A record offered before requests change, or after. -/
theorem State.OnlyRequests.offered (h : State.OnlyRequests n s t) (r : EventRecord) :
    State.OnlyRequests n (s.offer r) (t.offer r) := by
  have hevents := events_offer_congr h.control h.er h.events r
  rw [offer_eq s, offer_eq t, hevents]
  obtain ⟨⟨hdevice, hnow, hflight, hcursor, hres, hothers, hkeys, -, hline⟩, -, hadmin, hport, hlines, hentry, habsent⟩ := h
  exact ⟨⟨hdevice, hnow, hflight, hcursor, hres, hothers, hkeys, fun _ _ h => h, hline⟩, rfl, hadmin, hport, hlines, hentry, habsent⟩

theorem State.PlainTurn.offered {T : Turn} {e : Station} (h : s.PlainTurn n T e) (r : EventRecord) :
    (s.offer r).PlainTurn n T e := by
  rw [offer_eq]; exact h

/-- R24 flushes nothing from a list that is empty or begins with a RESYNC. -/
theorem flushSlots_of_stop {ks : List SlotNo}
    (h : ∀ k, ks.head? = some k → ∀ r, s.request? n k = some r → r.kind = .resync) : s.flushSlots n ks = s := by
  cases ks with
  | nil => rfl
  | cons k ks =>
    unfold State.flushSlots
    cases hr : s.request? n k with
    | none => rfl
    | some r =>
      refine if_neg fun hflush => ?_
      have hkind := h k rfl r hr
      rw [hkind] at hflush
      rcases hflush.1 with h | h <;> cases h

theorem flushOffline_of_stop {a : Byte} {e : Station} (hentry : s.station? n a = some e)
    (h : e.liveness = .offline → ∀ k, e.pending.head? = some k → ∀ r, s.request? n k = some r → r.kind = .resync) :
    s.flushOffline n a = s := by
  rw [State.flushOffline, hentry]
  simp only
  split
  · next hoffline => exact flushSlots_of_stop (h hoffline)
  · rfl

end

theorem kind_returned (x : Exchange) (r : Request) : (x.returned r).kind = r.kind := by
  unfold Exchange.returned Exchange.mark
  split <;> rfl

/-- A line that is JAMMED is not held: the records offered are all there is. -/
theorem events_of_jammed {s u : State} {n : LineNo} {records : List EventRecord} (h : State.Offered n records s u)
    (hjammed : (u.line n).state = .jammed) : u.events = (records.foldl State.offer s).events := by
  refine (h.2 fun honset => ?_).1
  have hidle := honset.2.2.1
  rw [hjammed] at hidle
  cases hidle

section
variable {s : State} {n : LineNo} {t : Turn} {e : Station}

/-- The turn given up, as a turn's end with nothing to report. -/
theorem reporting_jam (hplain : s.PlainTurn n t e) : State.Reporting n t.exch .silent e (fun y => y) []
    (s.offer (jamRecord n t.exch)) ((s.returned n t.exch).offer (jamRecord n t.exch)) :=
  (hplain.offered _).silent (onlyRequests_returned.offered _)

/-- R24 flushes nothing behind a turn given up: the list stands, its head a RESYNC if the entry is OFFLINE. -/
theorem unflushed_jam (hplain : s.PlainTurn n t e) (hover : s.override n t.exch = none)
    (hstop : e.liveness = .offline → ∀ k, e.pending.head? = some k → ∃ r, s.request? n k = some r ∧ r.kind = .resync) :
    ((s.returned n t.exch).offer (jamRecord n t.exch)).applyReport n t.exch .silent
      = ((s.returned n t.exch).offer (jamRecord n t.exch)).reported n e.address (fun y => y) [] := by
  have hentry : ((s.returned n t.exch).offer (jamRecord n t.exch)).station? n e.address = some e := by
    rw [station?_offer, station?_returned hover]; exact hplain.2.2.2.2.2.1
  rw [applyReport_silent hplain.2.2.2.1 hentry hplain.2.2.2.2.2.2, reported_none]
  refine flushOffline_of_stop hentry fun hoffline k hk r hr => ?_
  obtain ⟨q, hq, hkind⟩ := hstop hoffline k hk
  rw [request?_offer, request?_returned hover, hq] at hr
  split at hr
  · cases hr; exact (kind_returned _ _).trans hkind
  · cases hr; exact hkind

theorem headSettled_jam (hplain : s.PlainTurn n t e) (hover : s.override n t.exch = none)
    (hstop : e.liveness = .offline → ∀ k, e.pending.head? = some k → ∃ r, s.request? n k = some r ∧ r.kind = .resync) :
    State.HeadSettled n e none true (s.offer (jamRecord n t.exch))
      (((s.returned n t.exch).offer (jamRecord n t.exch)).finishTurn n t.exch true .silent none .jammed) := by
  have hsame : ∀ r : Request, r.state = .answering → t.exch.returned r = r := fun r hr => if_neg (by rw [hr]; decide)
  refine State.Reporting.headSettled (unflushed_jam hplain hover hstop) (reporting_jam hplain) ?_ (fun k r _ hr hstate => ?_) ?_
    true none .jammed fun k q hq hstate hold => ?_
  · rw [station?_offer, station?_returned hover]
    exact station?_none_gone hplain.2.2.2.2.2.1
  · rw [request?_offer] at hr ⊢
    rw [request?_returned hover, hr]
    split
    · rw [Option.map_some, hsame r hstate]
    · rfl
  · rw [line_offer, line_offer, doneOrder_returned hover, Option.toList_none, List.append_nil]
  · rw [request?_offer, request?_returned hover] at hq
    refine absurd hstate fun hanswering => ?_
    split at hq
    · obtain ⟨r, hr, rfl⟩ := Option.map_eq_some_iff.1 hq
      have hstate' : r.state = .answering := by
        by_cases hactive : r.state = .active
        · rw [Exchange.returned, if_pos hactive] at hanswering; cases hanswering
        · rw [Exchange.returned, if_neg hactive] at hanswering; exact hanswering
      exact hold r ((request?_offer ..).trans hr) hstate'
    · exact hold q ((request?_offer ..).trans hq) hanswering

end

theorem slotsKept_onRequest (s : State) (n : LineNo) (k : SlotNo) (f : Request → Request) :
    State.SlotsKept n k s (s.onRequest n k f) := fun j hj => by
  unfold State.onRequest
  rw [line_onLine, if_pos rfl]
  unfold Line.onRequest
  split
  · exact slots_set_ne hj ..
  · rfl

theorem broadcast_onRequest (s : State) (n : LineNo) (k : SlotNo) (f : Request → Request) :
    ((s.onRequest n k f).line n).pool.broadcast = (s.line n).pool.broadcast := by
  unfold State.onRequest
  rw [line_onLine, if_pos rfl]
  unfold Line.onRequest
  split <;> rfl

/-- A turn to no station given up: the request of its slot returns to WAITING, and the line is JAMMED. -/
theorem jamTurn_of_broadcast {s : State} {n : LineNo} {x : Exchange} {k : SlotNo} (hrunning : s.control.device = .running)
    (hidle : s.admin.work = .none) (hstation : x.station = none) (hslot : x.slot = some k) (hover : s.override n x = none) :
    s.jamTurn n x = (((s.onRequest n k x.returned).offer (jamRecord n x)).onLine n fun l => l.turnOver none .jammed).settleHeld n := by
  rw [jamTurn_eq, returned_of_kept hover, hslot, Option.elim_some]
  refine finishTurn_of_broadcast ?_ ?_ n hstation _ _ _
  · rw [control_offer]; exact hrunning
  · rw [admin_offer]; exact hidle

/-- Settles O49 (R24, R97, R108). -/
theorem jammedTurnIsGivenUp : Obligations.JammedTurnIsGivenUp := by
  intro s n t d code hphase hend hcode
  have hcode' : t.exch.frame.code.toNat = code := by rw [hcode]; cases t.exch.frame <;> rfl
  refine ⟨fun e hplain hstop => ?toStation,
    fun k r hrunning hidle hstate hframe hstation hslot hr hactive hmark => ?toNone⟩
  case toStation =>
    have hbase : (s.reach d).PlainTurn n t e := hplain
    have hrep := reporting_jam hbase
    have hended := ((settling_offer n (s.reach d) (jamRecord n t.exch)).trans hrep.only.settling).turnEnded
      (turnEnded_finishTurn n (((s.reach d).returned n t.exch).offer (jamRecord n t.exch)) t.exch true .silent none .jammed)
    have hjam : jamRecord n t.exch = ⟨.lineJammed, BitVec.ofNat 8 n.val, e.address, BitVec.ofNat 16 code, 0, false⟩ := by
      rw [jamRecord, hplain.2.2.2.1, hcode']; rfl
    have hoffers : ((s.reach d).offer (jamRecord n t.exch)).events = (s.offer (jamRecord n t.exch)).events :=
      events_offer_congr (s := s) (t := s.reach d) rfl rfl rfl _
    have hpool : (((s.reach d).offer (jamRecord n t.exch)).line n).pool = (s.line n).pool := by rw [line_offer]; rfl
    have hover (hmark : ∀ k r, t.exch.slot = some k → s.request? n k = some r → r.cancelMark = false) :
        (s.reach d).override n t.exch = none := hbase.override hmark
    have hkept : State.RequestsKept n t.exch.slot ((s.reach d).offer (jamRecord n t.exch))
        (((s.reach d).returned n t.exch).offer (jamRecord n t.exch)) := fun j q hj hq hstate => by
      rw [request?_offer] at hq ⊢; exact requestsKept_returned j q hj hq hstate
    have hkeptBy (hquiet : (((s.reach d).returned n t.exch).offer (jamRecord n t.exch)).applyReport n t.exch .silent
        = (((s.reach d).returned n t.exch).offer (jamRecord n t.exch)).reported n e.address (fun y => y) []) :=
      requestsKept_congr hpool (State.Reporting.requestsKept hquiet hrep hkept true none .jammed)
    obtain ⟨p, hp⟩ := hrep.entry_finish true none .jammed
    have hentries := hrep.entriesKept true none .jammed
    rw [show State.EntriesKept n e.address ((s.reach d).offer (jamRecord n t.exch)) = State.EntriesKept n e.address s by
      funext u; unfold State.EntriesKept; simp only [station?_offer]; rfl] at hentries
    refine ⟨_, (exec_jamTimerExpiry hplain.active hplain.2.2.1 hphase hend).trans (congrArg Host.Outcome.next (jamTurn_eq ..)),
      hended.state, ?retry, hended.reservation, ?buf, ⟨_, hp, rfl⟩, ?now, ?events, fun k r hslot hr hactive hmark => ?slot,
      fun hmark => ⟨?head, ?kept⟩, fun hne => ?keptOnline, hentries, hended.device, ?admin, ?port,
      hended.others⟩
    case retry => rw [hrep.sched_finish]
    case buf => rw [hrep.buf_finish, line_offer, Option.isSome_none, Bool.and_false]; rfl
    case now => rw [hrep.now_finish, now_offer]; rfl
    case events =>
      rw [events_of_jammed (hrep.offered true none .jammed) hended.state, List.foldl_nil, hoffers, hjam]
    case slot =>
      have hmark' : ∀ j q, t.exch.slot = some j → s.request? n j = some q → q.cancelMark = false := fun j q hj hq => by
        obtain rfl : k = j := Option.some.inj (hslot.symm.trans hj)
        obtain rfl : r = q := Option.some.inj (hr.symm.trans hq)
        exact hmark
      refine State.Reporting.request?_finish (unflushed_jam hbase (hover hmark') hstop) hrep ?_ (fun h => by cases h) true none
        .jammed
      rw [request?_offer, request?_returned (hover hmark'), if_pos hslot]
      refine (congrArg (Option.map t.exch.returned) hr).trans ?_
      rw [Option.map_some, Exchange.returned, if_pos hactive]
      rfl
    case head =>
      exact headSettled_congr hpool (by rw [line_offer]; rfl) (headSettled_jam hbase (hover hmark) hstop)
    case kept => exact hkeptBy (unflushed_jam hbase (hover hmark) hstop)
    case keptOnline => exact hkeptBy (hrep.unflushed_of_ne hne)
    case admin => rw [hrep.admin_finish, admin_offer]; rfl
    case port => rw [hrep.port_finish, port_offer]; rfl
  case toNone =>
    have hover : (s.reach d).override n t.exch = none := by
      refine override_of_clear hrunning hidle (fun j q hj hq => ?_) fun y hy => ?_
      · obtain rfl : k = j := Option.some.inj (hslot.symm.trans hj)
        obtain rfl : r = q := Option.some.inj (hr.symm.trans hq)
        exact hmark
      · rw [State.entryOf, hstation] at hy; cases hy
    have hrun := (exec_jamTimerExpiry ((active_iff s).2 (.inl hrunning)) hstate hphase hend).trans
      (congrArg Host.Outcome.next (jamTurn_eq ..))
    have hform := (jamTurn_eq ..).symm.trans (jamTurn_of_broadcast (s := s.reach d) hrunning hidle hstation hslot hover)
    have hended := (((onlyRequests_returned (s := s.reach d)).settling).trans (settling_offer n _ (jamRecord n t.exch))).turnEnded
      (turnEnded_finishTurn n (((s.reach d).returned n t.exch).offer (jamRecord n t.exch)) t.exch true .silent none .jammed)
    have hjam : jamRecord n t.exch = ⟨.lineJammed, BitVec.ofNat 8 n.val, 0, 4, 0, false⟩ := by
      rw [jamRecord, hstation, hframe]; rfl
    have hoffers := events_offer_congr (s := s) (t := (s.reach d).onRequest n k t.exch.returned) rfl rfl rfl (jamRecord n t.exch)
    generalize hw : ((s.reach d).onRequest n k t.exch.returned).offer (jamRecord n t.exch) = w at *
    have hslots : ∀ j, w.request? n j = if j = k then some (t.exch.returned r) else s.request? n j := fun j => by
      rw [← hw, request?_offer, request?_onRequest]
      by_cases hj : j = k
      · rw [if_pos ⟨rfl, hj⟩, if_pos hj]; exact congrArg (Option.map t.exch.returned) hr
      · rw [if_neg fun h => hj h.2, if_neg hj]; rfl
    have hline : w.line n = { s.line n with pool := (w.line n).pool } := by
      rw [← hw, line_offer]; exact line_onRequest ..
    have hreturned : t.exch.returned r = { r with state := .waiting } := by
      rw [Exchange.returned, if_pos hactive, Exchange.mark, hframe]
      simp
    have hkept : ∀ j, j ≠ k → (w.line n).pool.slots[j] = (s.line n).pool.slots[j] := fun j hj => by
      rw [← hw, line_offer]
      exact slotsKept_onRequest (s.reach d) n k t.exch.returned j hj
    have hsame : (w.line n).pool.doneOrder = (s.line n).pool.doneOrder ∧ (w.line n).pool.broadcast = (s.line n).pool.broadcast := by
      rw [← hw, line_offer]
      exact ⟨doneOrder_onRequest .., broadcast_onRequest ..⟩
    rw [hform] at hrun hended
    have hpool : (((w.onLine n fun l => l.turnOver none .jammed).settleHeld n).line n).pool = (w.line n).pool := by
      rw [pool_settleHeld]; exact pool_onLine rfl
    refine ⟨_, hrun, hended.state, ?sched, hended.reservation, ?buf, hended.now, ?events, ?slot, fun j hj => ?slots, ?order, ?list,
      ?stations, hended.device, ?admin, ?port, hended.others⟩
    case sched => rw [sched_settleHeld, line_onLine, if_pos rfl]; rfl
    case buf =>
      rw [buf_settleHeld, line_onLine, if_pos rfl, hline, Line.turnOver, Option.isSome_none, Bool.and_false]
    case events =>
      rw [events_of_jammed (offered_settleHeld (records := []) rfl rfl rfl rfl rfl) hended.state, List.foldl_nil, events_onLine,
        hoffers, hjam]
    case slot => rw [request?_congr (s := w) (congrArg Pool.slots hpool), hslots, if_pos rfl, hreturned]
    case slots => rw [hpool]; exact hkept j hj
    case order => rw [hpool]; exact hsame.1
    case list => rw [hpool]; exact hsame.2
    case stations => rw [stations_settleHeld, stations_onLine, ← hw, stations_offer]; rfl
    case admin => rw [admin_settleHeld, admin_onLine, ← hw, admin_offer]; rfl
    case port => rw [port_settleHeld, port_onLine, ← hw, port_offer]; rfl

end Sys2Proof.Machine

/-! Requests that become DONE one after the other, and what stays as it is while they do (R24, R84, R167). -/

namespace Sys2Proof.Machine

/-! ### DONE requests stay DONE, in the order they became so -/

/-- The DONE order of line `n` has only grown, and its DONE requests are as they were. -/
structure State.Grows (n : LineNo) (s t : State) : Prop where
  order : (s.line n).pool.doneOrder <+: (t.line n).pool.doneOrder
  done : ∀ j r, s.request? n j = some r → r.state = .done → t.request? n j = some r

section
variable {n : LineNo} {s t u : State}

theorem State.Grows.refl (n : LineNo) (s : State) : State.Grows n s s := ⟨List.prefix_refl _, fun _ _ hr _ => hr⟩

theorem State.Grows.trans (h : State.Grows n s t) (k : State.Grows n t u) : State.Grows n s u :=
  ⟨h.order.trans k.order, fun j r hr hd => k.done j r (h.done j r hr hd) hd⟩

/-- A line with the same pool. -/
theorem State.Grows.of_pool (h : (t.line n).pool = (s.line n).pool) : State.Grows n s t :=
  ⟨by rw [h], fun j _ hr _ => (request?_congr (congrArg Pool.slots h) j).trans hr⟩

theorem grows_makeDone (n : LineNo) (s : State) (k : SlotNo) (st : LineStatus) (f : Request → Request) :
    State.Grows n s (s.makeDone n k st f) where
  order := by
    cases hr : s.request? n k with
    | none => simp only [State.makeDone, hr]; exact List.prefix_refl _
    | some r =>
      by_cases hd : r.state = .done
      · simp only [State.makeDone, hr, if_pos hd]; exact List.prefix_refl _
      · rw [doneOrder_makeDone hr hd]; exact List.prefix_append _ _
  done := fun _ _ hr hd => request?_makeDone_done hr hd k st f

theorem grows_onRequest {k : SlotNo} (hopen : ∀ r, s.request? n k = some r → r.state ≠ .done) (f : Request → Request) :
    State.Grows n s (s.onRequest n k f) where
  order := by rw [doneOrder_onRequest]
  done := fun j r hr hd => by
    have hj : j ≠ k := by rintro rfl; exact hopen r hr hd
    rw [request?_onRequest, if_neg fun h => hj h.2]; exact hr

theorem grows_foldl {α : Type} {f : State → α → State} (h : ∀ s a, State.Grows n s (f s a)) :
    ∀ (as : List α) (s : State), State.Grows n s (as.foldl f s)
  | [], s => .refl n s
  | a :: as, s => (h s a).trans (grows_foldl h as (f s a))

theorem grows_endAll (n : LineNo) (s : State) (st : LineStatus) (ks : List SlotNo) : State.Grows n s (s.endAll n st ks) :=
  grows_foldl (fun t k => by
    split
    · exact grows_makeDone n t k st id
    · exact .refl n t) ks s

theorem grows_flushSlots (n : LineNo) : ∀ (ks : List SlotNo) (s : State), State.Grows n s (s.flushSlots n ks)
  | [], s => .refl n s
  | k :: ks, s => by
    unfold State.flushSlots
    split
    · split
      · exact (grows_makeDone n s k .offline id).trans (grows_flushSlots n ks _)
      · exact .refl n s
    · exact .refl n s

theorem grows_flushOffline (n : LineNo) (s : State) (a : Byte) : State.Grows n s (s.flushOffline n a) := by
  unfold State.flushOffline
  split
  · split
    · exact grows_flushSlots n _ s
    · exact .refl n s
  · exact .refl n s

theorem grows_settleAnswering (n : LineNo) (s : State) (x : Exchange) (ended : Bool) :
    State.Grows n s (s.settleAnswering n x ended) := by
  unfold State.settleAnswering
  split
  · exact .refl n s
  · split
    · exact .refl n s
    · next e _ k r hhead =>
      split
      · next hr =>
        split_ifs
        · exact grows_makeDone n s k .answerTimeout id
        · refine grows_onRequest (fun q hq => ?_) _
          obtain rfl : r = q := Option.some.inj ((head?_eq_some.1 hhead).2.symm.trans hq)
          rw [hr]; decide
      · exact .refl n s

theorem grows_abortBehind (n : LineNo) (s : State) (x : Exchange) : State.Grows n s (s.abortBehind n x) := by
  unfold State.abortBehind
  split
  · split
    · split
      · exact grows_endAll n s .aborted _
      · exact .refl n s
    · exact grows_endAll n s .aborted _
  · exact .refl n s

end

theorem State.Reporting.grows {n : LineNo} {x : Exchange} {rep : Report} {e : Station} {f : Station → Station}
    {records : List EventRecord} {b t : State} (h : State.Reporting n x rep e f records b t) (continues : Bool)
    (retry : Option Exchange) (after : LineState) : State.Grows n t (t.finishTurn n x continues rep retry after) := by
  have hreport : State.Grows n t (t.applyReport n x rep) := by
    have hreported : State.Grows n t (t.reported n e.address f records) := .of_pool (by rw [line_reported])
    rcases h.report with hr | hr <;> rw [hr]
    · exact hreported.trans (grows_flushOffline n _ _)
    · exact hreported
  exact (hreport.trans (grows_settleAnswering n _ x _)).trans (.of_pool (h.pool_finish continues retry after))

/-! ### A list of open requests made DONE in order -/

/-- The requests of `ks`, in this order, have become DONE with `st`, and everything else is as it was. -/
structure State.EndedEach (n : LineNo) (st : LineStatus) (ks : List SlotNo) (s t : State) : Prop where
  order : (t.line n).pool.doneOrder = (s.line n).pool.doneOrder ++ ks
  ended : ∀ k ∈ ks, ∀ r, s.request? n k = some r → t.request? n k = some (r.ended st)
  kept : ∀ j, j ∉ ks → t.request? n j = s.request? n j
  entry : ∀ a e, s.station? n a = some e →
    t.station? n a = some { e with pending := e.pending.filter fun j => decide (j ∉ ks) }
  broadcast : (t.line n).pool.broadcast = (s.line n).pool.broadcast.filter fun j => decide (j ∉ ks)

theorem endedEach_foldl (n : LineNo) (st : LineStatus) : ∀ (ks : List SlotNo) (s : State), ks.Nodup →
    (∀ k ∈ ks, ∃ r, s.request? n k = some r ∧ r.state ≠ .done) →
    State.EndedEach n st ks s (ks.foldl (fun t k => t.makeDone n k st id) s)
  | [], s, _, _ => by
    refine ⟨by simp, fun k hk => (List.not_mem_nil hk).elim, fun _ _ => rfl, fun a e he => ?_, ?_⟩
    · simp only [List.not_mem_nil, not_false_eq_true, decide_true, List.filter_true]; exact he
    · simp
  | k :: ks, s, hnodup, hopen => by
    obtain ⟨hk, hks⟩ := List.nodup_cons.1 hnodup
    obtain ⟨r, hr, hd⟩ := hopen k List.mem_cons_self
    have hother : ∀ j, j ≠ k → (s.makeDone n k st id).request? n j = s.request? n j := fun j hj => by
      rw [request?_makeDone, if_neg fun h => hj h.2]
    have hrest := endedEach_foldl n st ks (s.makeDone n k st id) hks fun j hj => by
      obtain ⟨q, hq, hqd⟩ := hopen j (List.mem_cons_of_mem k hj)
      exact ⟨q, (hother j fun h => hk (h ▸ hj)).trans hq, hqd⟩
    rw [List.foldl_cons]
    refine ⟨?order, fun j hj q hq => ?ended, fun j hj => ?kept, fun a e he => ?entry, ?broadcast⟩
    case order => rw [hrest.order, doneOrder_makeDone hr hd, List.append_assoc]; rfl
    case ended =>
      rcases List.mem_cons.1 hj with rfl | hj
      · rw [hrest.kept j hk, request?_makeDone_self hr hd]
        obtain rfl : r = q := Option.some.inj (hr.symm.trans hq)
        rfl
      · exact hrest.ended j hj q ((hother j fun h => hk (h ▸ hj)).trans hq)
    case kept =>
      obtain ⟨hjk, hjks⟩ := not_or.1 (mt List.mem_cons.2 hj)
      rw [hrest.kept j hjks, hother j hjk]
    case entry =>
      rw [hrest.entry a _ (station?_makeDone_self he hr hd st id), List.filter_filter]
      simp only [List.mem_cons, not_or, Bool.decide_and, Bool.and_comm]
    case broadcast =>
      rw [hrest.broadcast, broadcast_makeDone hr hd, List.filter_filter]
      simp only [List.mem_cons, not_or, Bool.decide_and, Bool.and_comm]

/-! ### The flush of an OFFLINE entry (R24) -/

/-- A request that R24 flushes. -/
def Request.Flushed (r : Request) : Prop :=
  (r.kind = .send ∨ r.kind = .query) ∧ (r.state = .waiting ∨ r.state = .answering)

theorem flushSlots_append (n : LineNo) {post : List SlotNo} : ∀ (pre : List SlotNo) (s : State), (pre ++ post).Nodup →
    (∀ k ∈ pre, ∃ r, s.request? n k = some r ∧ r.Flushed) →
    (∀ k, post.head? = some k → ∀ r, s.request? n k = some r → r.kind = .resync) →
    s.flushSlots n (pre ++ post) = pre.foldl (fun t k => t.makeDone n k .offline id) s
  | [], _, _, _, hstop => flushSlots_of_stop hstop
  | k :: pre, s, hnodup, hflushed, hstop => by
    obtain ⟨hk, hrest⟩ := List.nodup_cons.1 hnodup
    obtain ⟨r, hr, hflush⟩ := hflushed k List.mem_cons_self
    have hother : ∀ j, j ≠ k → (s.makeDone n k .offline id).request? n j = s.request? n j := fun j hj => by
      rw [request?_makeDone, if_neg fun h => hj h.2]
    rw [List.cons_append, State.flushSlots, hr, List.foldl_cons]
    refine (if_pos hflush).trans (flushSlots_append n pre _ hrest (fun j hj => ?_) fun j hj q hq => ?_)
    · obtain ⟨q, hq⟩ := hflushed j (List.mem_cons_of_mem k hj)
      refine ⟨q, (hother j ?_).trans hq.1, hq.2⟩
      rintro rfl
      exact hk (List.mem_append_left post hj)
    · refine hstop j hj q ((hother j ?_).symm.trans hq)
      rintro rfl
      exact hk (List.mem_append_right pre (List.mem_of_head? hj))

theorem Request.Flushed.open {r : Request} (h : r.Flushed) : r.state ≠ .done := by
  rcases h.2 with h | h <;> rw [h] <;> decide

end Sys2Proof.Machine

/-! Failed turns: counted, retried, or the failure of the exchange (4.3, R61, R63, R69, R117, R118). -/

namespace Sys2Proof.Machine

section
variable {s : State} {n : LineNo} {t : Turn} {d : Nat}

theorem exec_replyTimerExpiry (hactive : s.active = true) (hstate : (s.line n).state = .turn t) (hphase : t.phase = .listen)
    (hend : t.replyEnd = some d) : exec (.replyTimerExpiry n) s = .next ((s.reach d).failTurn n t.exch) := by
  change Host.Outcome.next (s.afterReplyExpiry n) = _
  simp only [State.afterReplyExpiry, liveTurn_of_state hactive hstate, hphase, hend]

theorem exec_gapTimerExpiry (hactive : s.active = true) (hstate : (s.line n).state = .turn t) (hphase : t.phase = .receive)
    (hend : t.gapEnd = some d) : exec (.gapTimerExpiry n) s = .next ((s.reach d).failTurn n t.exch) := by
  change Host.Outcome.next (s.afterGapExpiry n) = _
  simp only [State.afterGapExpiry, liveTurn_of_state hactive hstate, hphase, hend]

end

/-! ### What a failure changes in the entry (R61, R63, R69) -/

/-- R61: an entry with a failed turn counted. -/
def Station.tried (e : Station) : Station := { e with failedTurns := min (e.failedTurns + 1) 65535 }

theorem steady_tried : Station.Steady Station.tried := ⟨fun _ => rfl, fun _ _ => rfl⟩

/-- R63: the liveness a failure leads entry `e` to. -/
def Station.fallen (e : Station) : Liveness := livenessAfterFailure e.liveness (min (e.missCount + 1) 15) e.missLimit

theorem fallen_eq {e : Station} (h : e.liveness ≠ .offline) : e.fallen = if e.liveness = .online then .suspect
    else if e.missLimit ≤ min (e.missCount + 1) 15 then .offline else e.liveness := by
  unfold Station.fallen livenessAfterFailure
  cases hlive : e.liveness
  case offline => exact absurd hlive h
  all_goals rfl

/-- R69: a failure of this frame loses the step. -/
def FrameKind.losing (frame : FrameKind) : Bool := decide (frame = .select ∨ frame = .reset)

/-- R63, R69: an exchange failure of entry `e`. -/
def Station.failedBy (e : Station) (frame : FrameKind) (y : Station) : Station :=
  if e.liveness = .offline then { y with exchanges := y.exchanges + 1 }
  else
    { y with
      exchanges := y.exchanges + 1, missCount := min (e.missCount + 1) 15, liveness := e.fallen
      outOfStep := y.outOfStep || frame.losing }

theorem steady_failedBy (e : Station) (frame : FrameKind) : Station.Steady (e.failedBy frame) where
  key := fun y => by unfold Station.failedBy; split <;> rfl
  pending := fun y p => by unfold Station.failedBy; split <;> rfl

/-- R63, R72: the record of the liveness a failure leads to. -/
def fallenRecords (n : LineNo) (e : Station) (frame : FrameKind) : List EventRecord :=
  if e.liveness = .online then
    [⟨.stationSuspect, BitVec.ofNat 8 n.val, e.address, BitVec.ofNat 16 frame.code.toNat, 0, false⟩]
  else if e.fallen = .offline then
    [⟨.stationOffline, BitVec.ofNat 8 n.val, e.address, BitVec.ofNat 16 frame.code.toNat, 0, false⟩]
  else []

/-- R69, R72: the record of the step a failure loses. -/
def unsteppedRecords (n : LineNo) (e : Station) (frame : FrameKind) : List EventRecord :=
  if frame.losing && !e.outOfStep then [⟨.stationOutOfStep, BitVec.ofNat 8 n.val, e.address, 512, 0, false⟩] else []

/-- R63, R69: the records of an exchange failure. -/
def failureRecords (n : LineNo) (e : Station) (frame : FrameKind) : List EventRecord :=
  if e.liveness = .offline then [] else fallenRecords n e frame ++ unsteppedRecords n e frame

section
variable {s b t : State} {n : LineNo} {x : Exchange} {e : Station} {T : Turn} {frame : FrameKind}

theorem failureEvent_eq (h : e.liveness ≠ .offline) (s : State) :
    s.failureEvent n e.address e.liveness e.fallen frame = (fallenRecords n e frame).foldl State.offer s := by
  unfold State.failureEvent fallenRecords
  by_cases honline : e.liveness = .online
  · rw [if_pos honline, if_pos honline]; rfl
  · rw [if_neg honline, if_neg honline]
    by_cases hfallen : e.fallen = .offline
    · rw [if_pos hfallen, if_pos ⟨hfallen, h⟩]; rfl
    · rw [if_neg hfallen, if_neg fun h => hfallen h.1]; rfl

theorem noteFailure_eq (s : State) (n : LineNo) (e : Station) (frame : FrameKind) :
    s.noteFailure n e.address e frame = s.reported n e.address (e.failedBy frame) (failureRecords n e frame) := by
  by_cases hoffline : e.liveness = .offline
  case pos =>
    have hchange : e.failedBy frame = fun y => { y with exchanges := y.exchanges + 1 } := by
      funext y; exact if_pos hoffline
    rw [State.noteFailure, if_pos hoffline, failureRecords, if_pos hoffline, hchange]
    rfl
  case neg =>
    have hchange : e.failedBy frame = fun y => { y with
        exchanges := y.exchanges + 1, missCount := min (e.missCount + 1) 15, liveness := e.fallen
        outOfStep := y.outOfStep || frame.losing } := by
      funext y; exact if_neg hoffline
    rw [State.noteFailure, if_neg hoffline, failureRecords, if_neg hoffline, hchange, State.reported, List.foldl_append,
      ← failureEvent_eq hoffline, unsteppedRecords]
    split
    · next hlost => exact if_pos hlost
    · next hkept => exact if_neg hkept

theorem applyReport_failure (hstation : x.station = some e.address) (hentry : s.station? n e.address = some e)
    (hattached : e.detachPending = false) (hkind : x.kind ≠ .slow) : s.applyReport n x .failure
      = (s.reported n e.address (e.failedBy x.frame) (failureRecords n e x.frame)).flushOffline n e.address := by
  unfold State.applyReport
  simp only [hstation, hentry, hattached, Bool.false_eq_true, if_false]
  rw [if_neg hkind, noteFailure_eq]

/-- R66: a SLOW turn that drew no READY reports nothing. -/
theorem applyReport_failure_slow (hkind : x.kind = .slow) : s.applyReport n x .failure = s := by
  unfold State.applyReport
  simp only [hkind, if_true, ite_self]
  split
  · rfl
  · split <;> rfl

/-- R67: an abandoned POLL reports nothing. -/
theorem applyReport_abandoned_poll (hstation : x.station = some e.address) (hentry : s.station? n e.address = some e)
    (hattached : e.detachPending = false) (hframe : x.frame = .poll) : s.applyReport n x .abandoned
      = (s.reported n e.address (fun y => y) []).flushOffline n e.address := by
  unfold State.applyReport
  simp only [hstation, hentry, hattached, Bool.false_eq_true, if_false]
  rw [State.noteAbandoned, if_neg (by rw [hframe]; rintro ⟨-, h | h⟩ <;> cases h), reported_none]

theorem State.PlainTurn.failure (h : b.PlainTurn n T e) (honly : State.OnlyRequests n b t) (hkind : T.exch.kind ≠ .slow) :
    State.Reporting n T.exch .failure e (e.failedBy T.exch.frame) (failureRecords n e T.exch.frame) b t :=
  h.reporting honly (steady_failedBy e _) fun p hp =>
    applyReport_failure (e := { e with pending := p }) h.2.2.2.1 hp h.2.2.2.2.2.2 hkind

theorem State.PlainTurn.failure_slow (h : b.PlainTurn n T e) (hkind : T.exch.kind = .slow) :
    State.Reporting n T.exch .failure e (fun y => y) [] b b :=
  ⟨h.1, h.2.1, .refl n b, h.2.2.2.1, h.2.2.2.2.2.1, ⟨fun _ => rfl, fun _ _ => rfl⟩, .inr (by
    rw [applyReport_failure_slow hkind, reported_none])⟩

theorem State.PlainTurn.abandoned_poll (h : b.PlainTurn n T e) (honly : State.OnlyRequests n b t) (hframe : T.exch.frame = .poll) :
    State.Reporting n T.exch .abandoned e (fun y => y) [] b t :=
  h.reporting honly ⟨fun _ => rfl, fun _ _ => rfl⟩ fun p hp =>
    applyReport_abandoned_poll (e := { e with pending := p }) h.2.2.2.1 hp h.2.2.2.2.2.2 hframe

end

end Sys2Proof.Machine

/-! How a failed turn goes on: its retry, or the failure of the exchange with what follows it (R24, R117, R118). -/

namespace Sys2Proof.Machine

/-! ### The flush of an OFFLINE entry, with its list cut where it stops (R24) -/

theorem filter_not_mem_append {α : Type} [DecidableEq α] {pre post : List α} (h : (pre ++ post).Nodup) :
    (pre ++ post).filter (fun j => decide (j ∉ pre)) = post := by
  have hnone : pre.filter (fun j => decide (j ∉ pre)) = [] := List.filter_eq_nil_iff.2 fun j hj => by simp [hj]
  have hall : post.filter (fun j => decide (j ∉ pre)) = post := List.filter_eq_self.2 fun j hj =>
    decide_eq_true fun hpre => (List.disjoint_of_nodup_append h) hpre hj
  rw [List.filter_append, hnone, hall, List.nil_append]

section
variable {s : State} {n : LineNo} {a : Byte} {f : Station} {pre post : List SlotNo}

theorem endedEach_flushOffline (hentry : s.station? n a = some f) (hoffline : f.liveness = .offline)
    (hlist : f.pending = pre ++ post) (hnodup : (pre ++ post).Nodup)
    (hpre : ∀ k ∈ pre, ∃ r, s.request? n k = some r ∧ r.Flushed)
    (hpost : ∀ k, post.head? = some k → ∀ r, s.request? n k = some r → r.kind = .resync) :
    State.EndedEach n .offline pre s (s.flushOffline n a) := by
  have hflush : s.flushOffline n a = pre.foldl (fun t k => t.makeDone n k .offline id) s := by
    rw [State.flushOffline, hentry]
    exact (if_pos hoffline).trans (hlist ▸ flushSlots_append n pre s hnodup hpre hpost)
  rw [hflush]
  refine endedEach_foldl n .offline pre s (List.Nodup.of_append_left hnodup) fun k hk => ?_
  obtain ⟨r, hr, hflushed⟩ := hpre k hk
  exact ⟨r, hr, hflushed.open⟩

/-- R24: what stands behind the flush is the rest of the list. -/
theorem station?_flushOffline (hentry : s.station? n a = some f) (hlist : f.pending = pre ++ post) (hnodup : (pre ++ post).Nodup)
    (h : State.EndedEach n .offline pre s (s.flushOffline n a)) :
    (s.flushOffline n a).station? n a = some { f with pending := post } := by
  rw [h.entry a f hentry, hlist, filter_not_mem_append hnodup]

end

/-! ### The request of a failed exchange (R118) -/

/-- R118, Figure 6-5: the request a failed exchange ends: an ANSWERING head of a POLL, an ACTIVE request of any other frame. -/
def Exchange.Serves (x : Exchange) (r : Request) : Prop :=
  (x.frame = .poll ∧ r.state = .answering) ∨ (x.frame ≠ .poll ∧ r.state = .active)

/-- R118: delivery_unknown after a SELECT. -/
def Exchange.unanswered (x : Exchange) (r : Request) : Request :=
  { r with deliveryUnknown := r.deliveryUnknown || decide (x.frame = .select) }

theorem unanswered_poll {x : Exchange} (h : x.frame = .poll) : x.unanswered = id := by
  funext r
  simp [Exchange.unanswered, h]

section
variable {s : State} {n : LineNo} {x : Exchange} {k : SlotNo} {r : Request}

theorem Exchange.Serves.open (h : x.Serves r) : r.state ≠ .done := by
  rcases h with ⟨-, h⟩ | ⟨-, h⟩ <;> rw [h] <;> decide

theorem settleFailure_of_none (hslot : x.slot = none) : s.settleFailure n x = s := by
  rw [State.settleFailure, hslot]

theorem settleFailure_of_serves (hslot : x.slot = some k) (hr : s.request? n k = some r) (hserves : x.Serves r) :
    s.settleFailure n x = s.makeDone n k .noReply x.unanswered := by
  rw [State.settleFailure, hslot]
  rcases hserves with ⟨hframe, hstate⟩ | ⟨hframe, -⟩
  · have hanswering : s.slotIs n k .answering = true := by simp [State.slotIs, hr, hstate]
    simp only [hframe, if_true, hanswering, unanswered_poll]
  · exact if_neg hframe

theorem onlyRequests_settleFailure : State.OnlyRequests n s (s.settleFailure n x) := by
  unfold State.settleFailure
  split
  · exact .refl n s
  · split
    · split
      · exact onlyRequests_makeDone n s _ .noReply id
      · exact .refl n s
    · exact onlyRequests_makeDone n s _ .noReply _

theorem requestsKept_settleFailure : State.RequestsKept n x.slot s (s.settleFailure n x) := by
  unfold State.settleFailure
  split
  · next hslot => rw [hslot]; exact fun _ _ _ hr _ => hr
  · next k hslot =>
    rw [hslot]
    split
    · split
      · exact requestsKept_makeDone .noReply id
      · exact fun _ _ _ hr _ => hr
    · exact requestsKept_makeDone .noReply _

end

/-! ### A failed turn (R117) -/

section
variable {s c : State} {n : LineNo} {t : Turn} {e : Station} {x : Exchange}

/-- R61: entry `e` with the failed turn counted. -/
def State.tried (s : State) (n : LineNo) (e : Station) : State := s.reported n e.address Station.tried []

theorem State.PlainTurn.tried (h : s.PlainTurn n t e) : (s.tried n e).PlainTurn n t e.tried :=
  h.reported steady_tried.key rfl []

theorem request?_tried (k : SlotNo) : (s.tried n e).request? n k = s.request? n k := request?_reported ..

theorem line_tried : (s.tried n e).line n = s.line n := line_reported ..

theorem noteFailedTurn_of_counted (hplain : s.PlainTurn n t e) (hkind : t.exch.kind ≠ .slow) :
    s.noteFailedTurn n t.exch = s.tried n e := by
  have hentry := entryOf_of_station hplain.2.2.2.1 hplain.2.2.2.2.2.1
  have hcounted : ¬ (t.exch.kind = .slow ∨ e.detachPending = true) := by
    rw [hplain.2.2.2.2.2.2]
    rintro (h | h)
    · exact hkind h
    · cases h
  rw [State.noteFailedTurn, hentry]
  exact if_neg hcounted

theorem noteFailedTurn_of_slow (hplain : s.PlainTurn n t e) (hkind : t.exch.kind = .slow) : s.noteFailedTurn n t.exch = s := by
  rw [State.noteFailedTurn, entryOf_of_station hplain.2.2.2.1 hplain.2.2.2.2.2.1]
  exact if_pos (.inl hkind)

theorem retriesLeft_iff (hplain : s.PlainTurn n t e) :
    s.retriesLeft n t.exch = true ↔ t.exch.kind ≠ .slow ∧ t.exch.turns ≤ e.retryLimit := by
  rw [State.retriesLeft, entryOf_of_station hplain.2.2.2.1 hplain.2.2.2.2.2.1]
  simp

theorem failTurn_of_retry (hnote : s.noteFailedTurn n x = c) (hleft : c.retriesLeft n x = true) (hover : c.override n x = none) :
    s.failTurn n x = if c.readyUnbacked n x then c.finishTurn n x true .abandoned none .idle
      else c.finishTurn n x true .silent (some x) .idle := by
  simp only [State.failTurn, hnote, hleft, hover, if_true, Option.isSome_none, Bool.false_eq_true, if_false]

theorem failTurn_of_used (hnote : s.noteFailedTurn n x = c) (hleft : ¬ c.retriesLeft n x = true) :
    s.failTurn n x = (c.settleFailure n x).finishTurn n x false .failure none .idle := by
  simp only [State.failTurn, hnote, hleft, Bool.false_eq_true, if_false]

/-- The entry is not OFFLINE, or its head is a RESYNC: R24 flushes nothing. -/
def State.Unflushed (s : State) (n : LineNo) (e : Station) : Prop :=
  e.liveness ≠ .offline ∨ ∃ k rest r, e.pending = k :: rest ∧ s.request? n k = some r ∧ r.kind = .resync

theorem State.Reporting.unflushed {rep : Report} (h : State.Reporting n x rep e (fun y => y) [] s s) (hkept : s.Unflushed n e) :
    s.applyReport n x rep = s.reported n e.address (fun y => y) [] := by
  rcases hkept with hne | ⟨k, rest, r, hlist, hr, hkind⟩
  · exact h.unflushed_of_ne hne
  · rcases h.report with hreport | hreport
    · rw [hreport, reported_none]
      refine flushOffline_of_stop h.entry fun _ j hj q hq => ?_
      rw [hlist, List.head?_cons] at hj
      cases hj
      cases hr.symm.trans hq
      exact hkind
    · exact hreport

theorem slow_failTurn (hplain : s.PlainTurn n t e) (hkind : t.exch.kind = .slow) (hslot : t.exch.slot = none) :
    State.EndedAsIs n none e e [] s (s.failTurn n t.exch) := by
  have hleft : ¬ s.retriesLeft n t.exch = true := fun h => ((retriesLeft_iff hplain).1 h).1 hkind
  rw [failTurn_of_used (noteFailedTurn_of_slow hplain hkind) hleft, settleFailure_of_none hslot]
  exact (hplain.failure_slow hkind).endedAsIs (by rw [applyReport_failure_slow hkind, reported_none]) false none

/-- R117: with retries left the turn's end reports nothing; the retry follows unless nothing backs the POLL's READY. -/
theorem retried_failTurn (hplain : s.PlainTurn n t e) (hkind : t.exch.kind ≠ .slow) (hleft : t.exch.turns ≤ e.retryLimit)
    (hmark : ∀ k r, t.exch.slot = some k → s.request? n k = some r → r.cancelMark = false) (hkept : s.Unflushed n e) :
    (s.readyUnbacked n t.exch = true → State.EndedAsIs n none e e.tried [] s (s.failTurn n t.exch))
    ∧ (¬ s.readyUnbacked n t.exch = true → State.EndedAsIs n (some t.exch) e e.tried [] s (s.failTurn n t.exch)) := by
  have hplain' := hplain.tried
  have hunbacked : (s.tried n e).readyUnbacked n t.exch = true ↔ s.readyUnbacked n t.exch = true := by
    simp only [readyUnbacked_iff, line_tried, request?_tried]
  have hkept' : (s.tried n e).Unflushed n e.tried := by
    unfold State.Unflushed
    simp only [request?_tried]
    exact hkept
  have hover := hplain'.override fun k r hk hr => hmark k r hk ((request?_tried k).symm.trans hr)
  rw [failTurn_of_retry (noteFailedTurn_of_counted hplain hkind) ((retriesLeft_iff hplain').2 ⟨hkind, hleft⟩) hover]
  refine ⟨fun h => ?abandoned, fun h => ?silent⟩
  case abandoned =>
    rw [if_pos (hunbacked.2 h)]
    have hrep := hplain'.abandoned_poll (.refl n _) ((readyUnbacked_iff _).1 h).1
    exact .of_reported steady_tried rfl (hrep.endedAsIs (hrep.unflushed hkept') true none)
  case silent =>
    rw [if_neg (mt hunbacked.1 h)]
    have hrep := hplain'.silent (.refl n _)
    exact .of_reported steady_tried rfl (hrep.endedAsIs (hrep.unflushed hkept') true (some t.exch))

end

end Sys2Proof.Machine

/-! The failure of an exchange (R24, R63, R69, R118). -/

namespace Sys2Proof.Machine

section
variable {s : State} {n : LineNo} {t : Turn} {e : Station}

/-- The state the failure is reported in. -/
def State.unanswered (s : State) (n : LineNo) (x : Exchange) (e : Station) : State := (s.tried n e).settleFailure n x

/-- The state at the end of the turn. -/
def State.failed (s : State) (n : LineNo) (x : Exchange) (e : Station) : State :=
  (s.unanswered n x e).finishTurn n x false .failure none .idle

theorem failTurn_of_exhausted (hplain : s.PlainTurn n t e) (hkind : t.exch.kind ≠ .slow) (hused : e.retryLimit < t.exch.turns) :
    s.failTurn n t.exch = s.failed n t.exch e := by
  have hleft : ¬ (s.tried n e).retriesLeft n t.exch = true := fun h =>
    absurd ((retriesLeft_iff hplain.tried).1 h).2 (Nat.not_le.2 hused)
  exact failTurn_of_used (noteFailedTurn_of_counted hplain hkind) hleft

theorem State.PlainTurn.failed (hplain : s.PlainTurn n t e) (hkind : t.exch.kind ≠ .slow) :
    State.Reporting n t.exch .failure e.tried (e.tried.failedBy t.exch.frame) (failureRecords n e t.exch.frame)
      (s.tried n e) (s.unanswered n t.exch e) :=
  hplain.tried.failure onlyRequests_settleFailure hkind

theorem unanswered_of_serves {k : SlotNo} {r : Request} (hslot : t.exch.slot = some k) (hr : s.request? n k = some r)
    (hserves : t.exch.Serves r) : s.unanswered n t.exch e = (s.tried n e).makeDone n k .noReply t.exch.unanswered :=
  settleFailure_of_serves hslot ((request?_tried k).trans hr) hserves

/-- R84: the request of the failed exchange is DONE, and joins the DONE order. -/
theorem request?_unanswered {k : SlotNo} {r : Request} (hslot : t.exch.slot = some k) (hr : s.request? n k = some r)
    (hserves : t.exch.Serves r) : (s.unanswered n t.exch e).request? n k = some ((t.exch.unanswered r).ended .noReply)
      ∧ ((s.unanswered n t.exch e).line n).pool.doneOrder = (s.line n).pool.doneOrder ++ [k] := by
  have hr' := (request?_tried (e := e) k).trans hr
  rw [unanswered_of_serves hslot hr hserves]
  exact ⟨request?_makeDone_self hr' hserves.open .noReply t.exch.unanswered,
    (doneOrder_makeDone hr' hserves.open .noReply t.exch.unanswered).trans (by rw [line_tried])⟩

/-- The slot of the exchange, when it holds a request the failure ends. -/
def State.ServesSlot (s : State) (n : LineNo) (x : Exchange) : Prop :=
  ∀ k, x.slot = some k → ∃ r, s.request? n k = some r ∧ x.Serves r

/-- What the request's result leaves, whether the exchange served a request or not. -/
theorem unanswered_leaves (hplain : s.PlainTurn n t e) (hserves : s.ServesSlot n t.exch) :
    (s.unanswered n t.exch e).station? n e.address
      = some { e.tried with pending := e.pending.filter fun j => decide (t.exch.slot ≠ some j) }
    ∧ ((s.unanswered n t.exch e).line n).pool.doneOrder = (s.line n).pool.doneOrder ++ t.exch.slot.toList
    ∧ ∀ j, t.exch.slot ≠ some j → (s.unanswered n t.exch e).request? n j = s.request? n j := by
  have hentry := hplain.tried.2.2.2.2.2.1
  cases hslot : t.exch.slot with
  | none =>
    have hsame : s.unanswered n t.exch e = s.tried n e := settleFailure_of_none hslot
    rw [hsame, line_tried, Option.toList_none, List.append_nil]
    exact ⟨station?_none_gone hentry, rfl, fun j _ => request?_tried j⟩
  | some k =>
    obtain ⟨r, hr, hopen⟩ := hserves k hslot
    refine ⟨?list, (request?_unanswered hslot hr hopen).2, fun j hj => ?kept⟩
    case list =>
      rw [unanswered_of_serves hslot hr hopen]
      exact station?_makeDone_gone hentry ((request?_tried k).trans hr) hopen.open .noReply t.exch.unanswered
    case kept =>
      rw [unanswered_of_serves hslot hr hopen, request?_makeDone, if_neg fun h => hj (congrArg some h.2.symm), request?_tried]

/-- What is left of the list is settled, when the entry is not OFFLINE afterwards. -/
theorem headSettled_failed (hplain : s.PlainTurn n t e) (hkind : t.exch.kind ≠ .slow) (hserves : s.ServesSlot n t.exch)
    (hne : (e.tried.failedBy t.exch.frame e.tried).liveness ≠ .offline) :
    State.HeadSettled n e t.exch.slot true s (s.failed n t.exch e) := by
  have hrep := hplain.failed hkind
  refine headSettled_of_reported (f := Station.tried) (rs := []) (a := e.address) rfl ?_
  change State.HeadSettled n e.tried t.exch.slot true (s.tried n e) _
  unfold State.failed
  cases hslot : t.exch.slot with
  | none =>
    have hsame : s.unanswered n t.exch e = s.tried n e := settleFailure_of_none hslot
    rw [hsame] at hrep ⊢
    exact hrep.headSettled_same (hrep.unflushed_of_ne hne) false none .idle
  | some k =>
    obtain ⟨r, hr, hopen⟩ := hserves k hslot
    rw [unanswered_of_serves hslot hr hopen] at hrep ⊢
    exact hrep.headSettled_makeDone hne ((request?_tried k).trans hr) hopen.open false none .idle

/-- R84: the request of the failed exchange stays DONE while what follows it is settled. -/
theorem request?_failed (hplain : s.PlainTurn n t e) (hkind : t.exch.kind ≠ .slow) {k : SlotNo} {r : Request}
    (hslot : t.exch.slot = some k) (hr : s.request? n k = some r) (hserves : t.exch.Serves r) :
    (s.failed n t.exch e).request? n k = some ((t.exch.unanswered r).ended .noReply)
      ∧ (s.line n).pool.doneOrder ++ [k] <+: ((s.failed n t.exch e).line n).pool.doneOrder := by
  have hgrows := (hplain.failed hkind).grows false none .idle
  obtain ⟨hdone, horder⟩ := request?_unanswered (e := e) hslot hr hserves
  exact ⟨hgrows.done _ _ hdone rfl, horder ▸ hgrows.order⟩

/-- R24: an entry OFFLINE afterwards is flushed, and nothing is left to settle behind the flush. -/
theorem flushed_failed (hplain : s.PlainTurn n t e) (hkind : t.exch.kind ≠ .slow) (hserves : s.ServesSlot n t.exch)
    (hoffline : (e.tried.failedBy t.exch.frame e.tried).liveness = .offline) {pre post : List SlotNo}
    (hlist : e.pending.filter (fun j => decide (t.exch.slot ≠ some j)) = pre ++ post) (hnodup : (pre ++ post).Nodup)
    (hpre : ∀ j ∈ pre, ∃ r, s.request? n j = some r ∧ r.Flushed)
    (hpost : ∀ j rest, post = j :: rest → ∃ r, s.request? n j = some r ∧ r.kind = .resync ∧ r.state = .waiting) :
    (s.failed n t.exch e).station? n e.address = some { e.tried.failedBy t.exch.frame e.tried with pending := post }
    ∧ ((s.failed n t.exch e).line n).pool.doneOrder = (s.line n).pool.doneOrder ++ t.exch.slot.toList ++ pre
    ∧ (∀ j ∈ pre, ∀ r, s.request? n j = some r → (s.failed n t.exch e).request? n j = some (r.ended .offline))
    ∧ ∀ j r, j ∉ pre → t.exch.slot ≠ some j → s.request? n j = some r → (s.failed n t.exch e).request? n j = some r := by
  obtain ⟨hentry, horder, hothers⟩ := unanswered_leaves hplain hserves
  have hrep := hplain.failed hkind
  have hreport : (s.unanswered n t.exch e).applyReport n t.exch .failure
      = ((s.unanswered n t.exch e).reported n e.address (e.tried.failedBy t.exch.frame)
        (failureRecords n e t.exch.frame)).flushOffline n e.address :=
    applyReport_failure (e := { e.tried with pending := e.pending.filter fun j => decide (t.exch.slot ≠ some j) })
      hplain.2.2.2.1 hentry hplain.2.2.2.2.2.2 hkind
  have hfound := station?_reported_self (steady_failedBy e.tried t.exch.frame).key (failureRecords n e t.exch.frame) hentry
  rw [(steady_failedBy e.tried t.exch.frame).pending, hlist] at hfound
  set v := (s.unanswered n t.exch e).reported n e.address (e.tried.failedBy t.exch.frame) (failureRecords n e t.exch.frame)
    with hv
  have hunchanged : ∀ j, t.exch.slot ≠ some j → v.request? n j = s.request? n j := fun j hj => by
    rw [hv, request?_reported, hothers j hj]
  have hmem : ∀ j ∈ pre ++ post, t.exch.slot ≠ some j := fun j hj => by
    rw [← hlist] at hj; simpa using (List.mem_filter.1 hj).2
  have hended := endedEach_flushOffline hfound hoffline rfl hnodup
    (fun j hj => by rw [hunchanged j (hmem j (List.mem_append_left _ hj))]; exact hpre j hj)
    (fun j hj r hr => by
      obtain ⟨rest, hrest⟩ : ∃ rest, post = j :: rest := List.head?_eq_some_iff.1 hj
      obtain ⟨q, hq, hkindq, -⟩ := hpost j rest hrest
      rw [hunchanged j (hmem j (List.mem_append_right _ (List.mem_of_head? hj)))] at hr
      cases hq.symm.trans hr
      exact hkindq)
  have hflushed := station?_flushOffline hfound rfl hnodup hended
  have haddress : (e.tried.failedBy t.exch.frame e.tried).address = e.address :=
    congrArg Prod.snd ((steady_failedBy e.tried t.exch.frame).key e.tried)
  have hsettled : State.Reporting.settled (s.unanswered n t.exch e) n t.exch .failure true = v.flushOffline n e.address := by
    rw [State.Reporting.settled, hreport]
    refine settleAnswering_of_idle (e := { e.tried.failedBy t.exch.frame e.tried with pending := post })
      (hplain.2.2.2.1.trans (congrArg some haddress.symm)) ((congrArg _ haddress).trans hflushed) fun j r hhead hanswering => ?_
    obtain ⟨hj, hr⟩ := head?_eq_some.1 hhead
    obtain ⟨rest, hrest⟩ : ∃ rest, post = j :: rest := List.head?_eq_some_iff.1 hj
    obtain ⟨q, hq, -, hwaiting⟩ := hpost j rest hrest
    have hnotPre : j ∉ pre := fun h => (List.disjoint_of_nodup_append hnodup) h (List.mem_of_head? hj)
    rw [hended.kept j hnotPre, hunchanged j (hmem j (List.mem_append_right _ (List.mem_of_head? hj)))] at hr
    cases hq.symm.trans hr
    rw [hwaiting] at hanswering
    cases hanswering
  have hpool := hrep.pool_finish false none .idle
  have hstation := hrep.station?_finish false none .idle e.address
  rw [Option.isNone_none, hsettled] at hpool hstation
  have hslots : ∀ j, (s.failed n t.exch e).request? n j = (v.flushOffline n e.address).request? n j :=
    request?_congr (congrArg Pool.slots hpool)
  refine ⟨hstation.trans hflushed, ?order, fun j hj r hr => ?ended, fun j r hj hslot hr => ?kept⟩
  case order =>
    rw [State.failed, hpool, hended.order, hv, line_reported, horder]
  case ended =>
    rw [hslots]
    exact hended.ended j hj r ((hunchanged j (hmem j (List.mem_append_left _ hj))).trans hr)
  case kept => rw [hslots, hended.kept j hj, hunchanged j hslot]; exact hr

end

end Sys2Proof.Machine

/-! Failed turns, settled (R51, R61, R63, R66, R69, R111, R117, R118). -/

namespace Sys2Proof.Machine

section
variable {s : State} {n : LineNo} {t : Turn} {e : Station} {d : Nat}

/-- R51, R111: either timer's expiry ends the turn as a failed turn. -/
theorem exec_failTurn {c : Instr} (hplain : s.PlainTurn n t e)
    (h : (c = .replyTimerExpiry n ∧ t.phase = .listen ∧ t.replyEnd = some d)
      ∨ (c = .gapTimerExpiry n ∧ t.phase = .receive ∧ t.gapEnd = some d)) :
    exec c s = .next ((s.reach d).failTurn n t.exch) := by
  rcases h with ⟨rfl, hphase, hend⟩ | ⟨rfl, hphase, hend⟩
  · exact exec_replyTimerExpiry hplain.active hplain.2.2.1 hphase hend
  · exact exec_gapTimerExpiry hplain.active hplain.2.2.1 hphase hend

/-- Records offered do not depend on the time reached. -/
theorem offered_of_reach {u : State} {records : List EventRecord} (h : State.Offered n records (s.reach d) u) :
    State.Offered n records s u :=
  offered_append (rs := []) (b := s.reach d) rfl rfl rfl rfl rfl h

/-- The entry of the failed exchange. -/
theorem failedBy_tried_of_offline (h : e.liveness = .offline) (frame : FrameKind) :
    e.tried.failedBy frame e.tried = { e.tried with exchanges := e.exchanges + 1 } := if_pos h

theorem failedBy_tried_of_ne (h : e.liveness ≠ .offline) (frame : FrameKind) :
    e.tried.failedBy frame e.tried
      = { e.tried with
          exchanges := e.exchanges + 1, missCount := min (e.missCount + 1) 15, liveness := e.fallen
          outOfStep := e.outOfStep || frame.losing } := if_neg h

theorem losing_iff (frame : FrameKind) : frame.losing = true ↔ frame = .select ∨ frame = .reset := by
  unfold FrameKind.losing; exact decide_eq_true_iff

theorem losing_eq (frame : FrameKind) : frame.losing = (decide (frame = .select) || decide (frame = .reset)) := by
  unfold FrameKind.losing; exact Bool.decide_or ..

/-- R63, R69: the records, as the statement words them. -/
theorem failureRecords_eq (h : e.liveness ≠ .offline) (frame : FrameKind) {code : Half}
    (hcode : BitVec.ofNat 16 frame.code.toNat = code) :
    failureRecords n e frame = (if e.liveness = .online then
        [⟨.stationSuspect, BitVec.ofNat 8 n.val, e.address, code, 0, false⟩]
      else if e.fallen = .offline then [⟨.stationOffline, BitVec.ofNat 8 n.val, e.address, code, 0, false⟩]
      else [])
    ++ if (frame = .select ∨ frame = .reset) ∧ e.outOfStep = false then
        [⟨.stationOutOfStep, BitVec.ofNat 8 n.val, e.address, 512, 0, false⟩] else [] := by
  have hlost : (frame.losing && !e.outOfStep) = true ↔ (frame = .select ∨ frame = .reset) ∧ e.outOfStep = false := by
    rw [Bool.and_eq_true, losing_iff, Bool.not_eq_true']
  rw [failureRecords, if_neg h, fallenRecords, unsteppedRecords, hcode]
  simp only [hlost]

end

/-- Settles O50 (R24, R51, R61, R63, R66, R69, R111, R117, R118). -/
theorem failedTurnRetriesOrFails : Obligations.FailedTurnRetriesOrFails := by
  intro s n t e c d unbacked code hplain hcommand hmark hunbacked hcode
  have hbase : (s.reach d).PlainTurn n t e := hplain
  have hmark' : ∀ k r, t.exch.slot = some k → (s.reach d).request? n k = some r → r.cancelMark = false := hmark
  have hrun := exec_failTurn hplain hcommand
  have hready : (s.reach d).readyUnbacked n t.exch = true ↔ unbacked := (readyUnbacked_iff _).trans hunbacked.symm
  have hcode' : BitVec.ofNat 16 t.exch.frame.code.toNat = code := by rw [hcode]; cases t.exch.frame <;> rfl
  refine ⟨fun hkind hslot => ?slow, fun hkind hflush hleft => ?retried, fun hkind hused => ?failed⟩
  case slow =>
    obtain ⟨hover, hrequests, hentries, hnow, -, hoffered, -, hentry⟩ := slow_failTurn hbase hkind hslot
    exact ⟨_, hrun, hover, hrequests, hentries, hnow, offered_of_reach hoffered, hentry⟩
  case retried =>
    obtain ⟨habandoned, hsilent⟩ := retried_failTurn hbase hkind hleft hmark' hflush
    by_cases h : (s.reach d).readyUnbacked n t.exch = true
    case pos =>
      obtain ⟨hover, hrequests, hentries, hnow, -, hoffered, hhead, hentry⟩ := habandoned h
      exact ⟨_, hrun, fun hno => absurd (hready.1 h) hno, fun _ => hover, hrequests, hentries, hnow, offered_of_reach hoffered,
        fun hno => absurd (hready.1 h) hno, fun _ => hhead, hentry⟩
    case neg =>
      obtain ⟨hover, hrequests, hentries, hnow, hbuf, hoffered, hhead, hentry⟩ := hsilent h
      exact ⟨_, hrun, fun _ => ⟨hover, hbuf.trans (by rw [Option.isSome_some, Bool.and_true]; rfl)⟩,
        fun hyes => absurd (hready.2 hyes) h, hrequests, hentries, hnow, offered_of_reach hoffered, fun _ => hhead,
        fun hyes => absurd (hready.2 hyes) h, hentry⟩
  case failed =>
    have hrep := hbase.failed hkind
    have hoffered : State.Offered n (failureRecords n e t.exch.frame) s _ :=
      offered_of_reach (offered_of_reported (rs := []) (hrep.offered false none .idle))
    obtain ⟨p, hp⟩ := hrep.entry_finish false none .idle
    rw [failTurn_of_exhausted hbase hkind hused] at hrun
    refine ⟨_, hrun, turnOver_of_reported (s := s.reach d) (rs := []) steady_tried.key (hrep.turnOver false none),
      (hrep.buf_finish false none .idle).trans ?buf, (hrep.now_finish false none .idle).trans ?now,
      entriesKept_of_reported (s := s.reach d) (rs := []) steady_tried.key (hrep.entriesKept false none .idle),
      fun k r hslot hr hserves => request?_failed hbase hkind hslot hr hserves,
      fun hoffline => ⟨?records, _, hp, ?entry⟩, fun hne => ⟨_, hp, ?entryFailed⟩,
      fun f pre post hf hoffline hserves hlist hnodup hpre hpost => ?flush⟩
    case buf => rw [line_tried, Option.isSome_none, Bool.and_false]; rfl
    case now => exact now_reported ..
    case records => rw [failureRecords, if_pos hoffline] at hoffered; exact hoffered
    case entry => rw [failedBy_tried_of_offline hoffline]; rfl
    case entryFailed =>
      have hfallen := fallen_eq hne
      have hliveness : (e.tried.failedBy t.exch.frame e.tried).liveness = e.fallen := by rw [failedBy_tried_of_ne hne]
      rw [failureRecords_eq hne _ hcode'] at hoffered
      refine ⟨?failedTurns, ?exchanges, ?missCount, ?outOfStep, hliveness.trans hfallen, ?txSeq, ?rxExpect, ?lastAck, ?holdoff,
        ?protocolErrors, fun hup => ⟨?kept, fun hserves => headSettled_failed hbase hkind hserves hup⟩, ?events⟩
      case outOfStep => rw [failedBy_tried_of_ne hne, Bool.or_assoc, ← losing_eq]
      case kept =>
        exact requestsKept_congr (by rw [line_tried]; rfl)
          (State.Reporting.requestsKept (hrep.unflushed_of_ne hup) hrep requestsKept_settleFailure false none .idle)
      case events => rw [hliveness]; exact hoffered
      all_goals rw [failedBy_tried_of_ne hne]
      all_goals rfl
    case flush =>
      cases hp.symm.trans hf
      obtain ⟨hentry, horder, hended, hkept⟩ :=
        flushed_failed hbase hkind hserves hoffline hlist hnodup hpre hpost
      cases hp.symm.trans hentry
      exact ⟨rfl, horder, hended, hkept⟩

end Sys2Proof.Machine

/-! Lists of requests ended in order, and what stays listed (R84, R75, R167, R178). -/

namespace Sys2Proof.Machine

/-! ### What stays listed -/

/-- An entry without the slots that have gone from its list. -/
def Station.without (e : Station) (gone : SlotNo → Bool) : Station :=
  { e with pending := e.pending.filter fun j => !gone j }

theorem without_without (e : Station) (f g : SlotNo → Bool) : (e.without f).without g = e.without fun j => f j || g j := by
  simp only [Station.without, List.filter_filter, Bool.not_or, Bool.and_comm]

theorem without_none (e : Station) : e.without (fun _ => false) = e := by
  simp [Station.without]

/-- The slots `gone` have left the lists of line `n`, and nothing else of the Station Table has changed. -/
structure State.Unlists (n : LineNo) (gone : SlotNo → Bool) (s t : State) : Prop where
  stations : t.stations = s.stations.map fun e => if e.line = n then e.without gone else e
  broadcast : (t.line n).pool.broadcast = (s.line n).pool.broadcast.filter fun j => !gone j

namespace State.Unlists

variable {n : LineNo} {s t u : State} {f g : SlotNo → Bool}

theorem of_same (hstations : t.stations = s.stations) (hbroadcast : (t.line n).pool.broadcast = (s.line n).pool.broadcast) :
    State.Unlists n (fun _ => false) s t where
  stations := by simp [hstations, without_none]
  broadcast := by simp [hbroadcast]

theorem refl (n : LineNo) (s : State) : State.Unlists n (fun _ => false) s s := .of_same rfl rfl

theorem trans (h : State.Unlists n f s t) (k : State.Unlists n g t u) : State.Unlists n (fun j => f j || g j) s u where
  stations := by
    rw [k.stations, h.stations, List.map_map]
    congr 1
    funext e
    by_cases he : e.line = n
    · simp only [Function.comp_apply, if_pos he, if_pos (show (e.without f).line = n from he), without_without]
    · simp only [Function.comp_apply, if_neg he]
  broadcast := by
    rw [k.broadcast, h.broadcast, List.filter_filter]
    simp only [Bool.not_or, Bool.and_comm]

theorem congr (h : State.Unlists n f s t) (hfg : ∀ j, f j = g j) : State.Unlists n g s t := by
  rwa [← (funext hfg : f = g)]

theorem ring (h : State.Unlists n f s t) : t.ring n = (s.ring n).map fun e => e.without f := by
  unfold State.ring
  rw [h.stations, List.filter_map]
  have hline : ((fun e : Station => decide (e.line = n)) ∘ fun e : Station => if e.line = n then e.without f else e)
      = fun e => decide (e.line = n) := by
    funext e
    by_cases he : e.line = n
    · simp [he, Station.without]
    · simp [he]
  rw [hline]
  exact List.map_congr_left fun e he => if_pos (of_decide_eq_true (List.mem_filter.1 he).2)

theorem station? (h : State.Unlists n f s t) (a : Byte) : t.station? n a = (s.station? n a).map fun e => e.without f := by
  unfold State.station?
  rw [h.stations, find?_map_key _ fun e => by split <;> rfl]
  cases he : s.stations.find? fun e => decide (e.line = n) && decide (e.address = a) with
  | none => rfl
  | some e => simp [(station?_key (show s.station? n a = some e from he)).1]

theorem listed (h : State.Unlists n f s t) : t.listed n = (s.listed n).filter fun j => !f j := by
  unfold State.listed
  rw [h.ring, h.broadcast, List.flatMap_map, List.filter_append, List.filter_flatMap]
  rfl

theorem addresses (h : State.Unlists n f s t) : (t.ring n).map Station.address = (s.ring n).map Station.address := by
  rw [h.ring, List.map_map]
  rfl

end State.Unlists

section
variable {n : LineNo} {s : State} {k : SlotNo} {r : Request}

theorem makeDone_of_closed (h : ∀ r, s.request? n k = some r → r.state = .done) (st : LineStatus) (f : Request → Request) :
    s.makeDone n k st f = s := by
  unfold State.makeDone
  cases hr : s.request? n k with
  | none => rfl
  | some r => exact if_pos (h r hr)

/-- R84: a slot made DONE leaves the lists. -/
theorem unlists_makeDone (hr : s.request? n k = some r) (hopen : r.state ≠ .done) (st : LineStatus) (f : Request → Request) :
    State.Unlists n (fun j => decide (j = k)) s (s.makeDone n k st f) where
  stations := by
    simp only [State.makeDone, hr, if_neg hopen, State.unlist, stations_onLine]
    simp only [Station.without, ← decide_not]
  broadcast := by
    rw [broadcast_makeDone hr hopen]
    simp only [← decide_not]

theorem unlists_onRequest (f : Request → Request) : State.Unlists n (fun _ => false) s (s.onRequest n k f) :=
  .of_same rfl (broadcast_onRequest ..)

end

/-! ### The requests of a list that satisfy a condition, ended in list order -/

/-- The slots of a list whose requests satisfy `p` become DONE with `st`, in list order. -/
def State.endEach (s : State) (n : LineNo) (st : LineStatus) (p : Request → Bool) (ks : List SlotNo) : State :=
  ks.foldl (fun t k => if (t.request? n k).any p then t.makeDone n k st id else t) s

/-- A request that is not DONE. -/
def Request.isOpen (r : Request) : Bool := decide (r.state ≠ .done)

/-- A request that waits for a turn or for its answer. -/
def Request.pends (r : Request) : Bool := decide (r.state = .waiting) || decide (r.state = .answering)

theorem slotIs_eq (s : State) (n : LineNo) (k : SlotNo) (st : RequestState) :
    s.slotIs n k st = (s.request? n k).any fun r => decide (r.state = st) := by
  unfold State.slotIs
  cases s.request? n k <;> rfl

theorem pends_eq (s : State) (n : LineNo) (k : SlotNo) :
    (s.slotIs n k .waiting || s.slotIs n k .answering) = (s.request? n k).any Request.pends := by
  rw [slotIs_eq, slotIs_eq]
  cases s.request? n k <;> rfl

theorem endAll_eq_endEach (s : State) (n : LineNo) (st : LineStatus) (ks : List SlotNo) :
    s.endAll n st ks = s.endEach n st Request.pends ks := by
  unfold State.endAll State.endEach
  simp only [pends_eq]

theorem foldl_makeDone_eq_endEach (s : State) (n : LineNo) (st : LineStatus) (ks : List SlotNo) :
    ks.foldl (fun t k => t.makeDone n k st id) s = s.endEach n st Request.isOpen ks := by
  unfold State.endEach
  congr 1
  funext t k
  split
  · rfl
  · next hclosed =>
    refine makeDone_of_closed (fun r hr => ?_) st id
    by_contra hopen
    exact hclosed (by simp [hr, Request.isOpen, hopen])

/-- A condition that only requests not DONE satisfy. -/
def OnlyOpen (p : Request → Bool) : Prop := ∀ r, p r = true → r.state ≠ .done

theorem onlyOpen_isOpen : OnlyOpen Request.isOpen := fun _ h => of_decide_eq_true h

theorem onlyOpen_pends : OnlyOpen Request.pends := fun r h hdone => by
  rw [Request.pends, hdone] at h
  cases h

section
variable {n : LineNo} {s : State} {st : LineStatus} {p : Request → Bool}

theorem OnlyOpen.ended (hp : OnlyOpen p) (r : Request) (st : LineStatus) : p (r.ended st) = false := by
  by_contra h
  exact hp _ (Bool.not_eq_false _ ▸ h) rfl

/-- One step of it. -/
def State.endOne (s : State) (n : LineNo) (st : LineStatus) (p : Request → Bool) (k : SlotNo) : State :=
  if (s.request? n k).any p then s.makeDone n k st id else s

theorem endEach_cons (k : SlotNo) (ks : List SlotNo) :
    s.endEach n st p (k :: ks) = (s.endOne n st p k).endEach n st p ks := rfl

theorem request?_endOne (hp : OnlyOpen p) (k j : SlotNo) : (s.endOne n st p k).request? n j
    = if j = k then (s.request? n k).map fun r => if p r then r.ended st else r else s.request? n j := by
  unfold State.endOne
  cases hr : s.request? n k with
  | none =>
    by_cases hj : j = k
    · subst hj; simp [hr]
    · simp [hj]
  | some r =>
    by_cases hpr : p r = true
    · rw [Option.any_some, if_pos hpr, request?_makeDone, hr]
      simp only [true_and, Option.map_some, if_pos hpr, if_neg (hp r hpr)]
      rfl
    · rw [Option.any_some, if_neg hpr, Option.map_some, if_neg hpr]
      by_cases hj : j = k
      · subst hj; rw [if_pos rfl, hr]
      · rw [if_neg hj]

theorem any_endOne (hp : OnlyOpen p) (k j : SlotNo) :
    ((s.endOne n st p k).request? n j).any p = (decide (j ≠ k) && (s.request? n j).any p) := by
  rw [request?_endOne hp]
  by_cases hj : j = k
  · subst hj
    cases hr : s.request? n j with
    | none => simp
    | some r => by_cases hpr : p r = true <;> simp [hpr, hp.ended]
  · simp [hj]

theorem unlists_endOne (hp : OnlyOpen p) (k : SlotNo) :
    State.Unlists n (fun j => decide (j = k) && (s.request? n j).any p) s (s.endOne n st p k) := by
  unfold State.endOne
  split
  · next hany =>
    obtain ⟨r, hr, hpr⟩ := (Option.any_eq_true _ _).1 hany
    refine (unlists_makeDone hr (hp r hpr) st id).congr fun j => ?_
    by_cases hj : j = k
    · subst hj; simp [hany]
    · simp [hj]
  · next hnone =>
    refine (State.Unlists.refl n s).congr fun j => ?_
    by_cases hj : j = k
    · subst hj; simp [hnone]
    · simp [hj]

/-- The requests of the list that satisfy the condition are DONE, and every other is as it was. -/
theorem request?_endEach (hp : OnlyOpen p) : ∀ (ks : List SlotNo) (s : State) (j : SlotNo),
    (s.endEach n st p ks).request? n j
      = if j ∈ ks then (s.request? n j).map fun r => if p r then r.ended st else r else s.request? n j
  | [], _, _ => by simp [State.endEach]
  | k :: ks, s, j => by
    rw [endEach_cons, request?_endEach hp ks, request?_endOne hp]
    by_cases hj : j = k
    · subst hj
      have htwice : ∀ r, (if p (if p r then r.ended st else r) then (if p r then r.ended st else r).ended st
          else if p r then r.ended st else r) = if p r then r.ended st else r := fun r => by
        by_cases hpr : p r = true <;> simp [hpr, hp.ended]
      cases hr : s.request? n j with
      | none => simp
      | some r => simp [htwice]
    · simp [hj]

theorem unlists_endEach (hp : OnlyOpen p) : ∀ (ks : List SlotNo) (s : State),
    State.Unlists n (fun j => decide (j ∈ ks) && (s.request? n j).any p) s (s.endEach n st p ks)
  | [], s => (State.Unlists.refl n s).congr fun j => by simp
  | k :: ks, s => by
    rw [endEach_cons]
    refine ((unlists_endOne hp k).trans (unlists_endEach hp ks _)).congr fun j => ?_
    rw [any_endOne hp]
    by_cases hj : j = k <;> simp [hj]

theorem doneOrder_endOne (hp : OnlyOpen p) (k : SlotNo) : ((s.endOne n st p k).line n).pool.doneOrder
    = (s.line n).pool.doneOrder ++ if (s.request? n k).any p then [k] else [] := by
  unfold State.endOne
  split
  · next hany =>
    cases hr : s.request? n k with
    | none => rw [hr] at hany; cases hany
    | some r =>
      rw [hr] at hany
      rw [doneOrder_makeDone hr (hp r hany)]
  · rw [List.append_nil]

/-- They join the DONE order in list order (R84). -/
theorem doneOrder_endEach (hp : OnlyOpen p) : ∀ (ks : List SlotNo) (s : State), ks.Nodup →
    ((s.endEach n st p ks).line n).pool.doneOrder
      = (s.line n).pool.doneOrder ++ ks.filter fun k => (s.request? n k).any p
  | [], _, _ => by simp [State.endEach]
  | k :: ks, s, hnodup => by
    obtain ⟨hk, hks⟩ := List.nodup_cons.1 hnodup
    have hrest : ks.filter (fun j => ((s.endOne n st p k).request? n j).any p) = ks.filter fun j => (s.request? n j).any p :=
      List.filter_congr fun j hj => by
        have hne : j ≠ k := fun h => hk (h ▸ hj)
        rw [any_endOne hp]; simp [hne]
    rw [endEach_cons, doneOrder_endEach hp ks _ hks, doneOrder_endOne hp, hrest, List.append_assoc, List.filter_cons]
    split <;> rfl

theorem onlyRequests_endEach (ks : List SlotNo) (s : State) : State.OnlyRequests n s (s.endEach n st p ks) :=
  onlyRequests_foldl (fun t k => by
    split
    · exact onlyRequests_makeDone n t k st id
    · exact .refl n t) ks s

end

/-! ### The slots a stretch of rules makes DONE -/

/-- The slots `made`, in this order, have become DONE with `st`; the DONE ones are as they were, and no slot has been filled or
freed. -/
structure State.Made (n : LineNo) (st : LineStatus) (made : List SlotNo) (s t : State) : Prop where
  order : (t.line n).pool.doneOrder = (s.line n).pool.doneOrder ++ made
  mem : ∀ k, k ∈ made ↔ (∃ r, s.request? n k = some r ∧ r.state ≠ .done) ∧ ∃ q, t.request? n k = some q ∧ q.state = .done
  outcome : ∀ k ∈ made, ∃ q, t.request? n k = some q ∧ q.outcome = some st
  done : ∀ k r, s.request? n k = some r → r.state = .done → t.request? n k = some r
  isSome : ∀ k, (t.request? n k).isSome = (s.request? n k).isSome

namespace State.Made

variable {n : LineNo} {st : LineStatus} {ks js : List SlotNo} {s t u : State}

theorem of_open (horder : (t.line n).pool.doneOrder = (s.line n).pool.doneOrder)
    (hslots : ∀ k, t.request? n k = s.request? n k ∨
      ∃ r q, s.request? n k = some r ∧ t.request? n k = some q ∧ r.state ≠ .done ∧ q.state ≠ .done) :
    State.Made n st [] s t where
  order := by rw [horder, List.append_nil]
  mem := fun k => by
    refine ⟨fun h => (List.not_mem_nil h).elim, fun ⟨⟨r, hr, hopen⟩, q, hq, hdone⟩ => ?_⟩
    rcases hslots k with h | ⟨-, q', -, hq', -, hopen'⟩
    · cases (h.symm.trans hq).symm.trans hr; exact absurd hdone hopen
    · cases hq.symm.trans hq'; exact absurd hdone hopen'
  outcome := fun k h => (List.not_mem_nil h).elim
  done := fun k r hr hdone => by
    rcases hslots k with h | ⟨r', -, hr', -, hopen, -⟩
    · exact h.trans hr
    · cases hr.symm.trans hr'; exact absurd hdone hopen
  isSome := fun k => by
    rcases hslots k with h | ⟨r, q, hr, hq, -, -⟩
    · rw [h]
    · rw [hr, hq]; rfl

theorem refl (n : LineNo) (st : LineStatus) (s : State) : State.Made n st [] s s := .of_open rfl fun _ => .inl rfl

theorem of_pool (h : (t.line n).pool = (s.line n).pool) : State.Made n st [] s t :=
  .of_open (by rw [h]) fun k => .inl (request?_congr (congrArg Pool.slots h) k)

theorem trans (h : State.Made n st ks s t) (k : State.Made n st js t u) : State.Made n st (ks ++ js) s u where
  order := by rw [k.order, h.order, List.append_assoc]
  mem := fun j => by
    have hcases : (∃ r, s.request? n j = some r ∧ r.state ≠ .done) →
        (∃ q, t.request? n j = some q ∧ q.state = .done) ∨ ∃ q, t.request? n j = some q ∧ q.state ≠ .done := fun ⟨r, hr, _⟩ => by
      obtain ⟨q, hq⟩ := Option.isSome_iff_exists.1 ((h.isSome j).trans (by rw [hr]; rfl))
      by_cases hd : q.state = .done
      · exact .inl ⟨q, hq, hd⟩
      · exact .inr ⟨q, hq, hd⟩
    have hback : (∃ q, t.request? n j = some q ∧ q.state ≠ .done) → ∃ r, s.request? n j = some r ∧ r.state ≠ .done :=
      fun ⟨q, hq, hd⟩ => by
        obtain ⟨r, hr⟩ := Option.isSome_iff_exists.1 ((h.isSome j).symm.trans (by rw [hq]; rfl))
        refine ⟨r, hr, fun hdone => hd ?_⟩
        cases (h.done j r hr hdone).symm.trans hq
        exact hdone
    rw [List.mem_append, h.mem, k.mem]
    constructor
    · rintro (⟨hopen, q, hq, hd⟩ | ⟨hopen, hdone⟩)
      · exact ⟨hopen, q, k.done j q hq hd, hd⟩
      · exact ⟨hback hopen, hdone⟩
    · rintro ⟨hopen, hdone⟩
      rcases hcases hopen with hd | hd
      · exact .inl ⟨hopen, hd⟩
      · exact .inr ⟨hd, hdone⟩
  outcome := fun j hj => by
    rcases List.mem_append.1 hj with hj | hj
    · obtain ⟨-, q, hq, hd⟩ := (h.mem j).1 hj
      obtain ⟨q', hq', hst⟩ := h.outcome j hj
      cases hq.symm.trans hq'
      exact ⟨q, k.done j q hq hd, hst⟩
    · exact k.outcome j hj
  done := fun j r hr hd => k.done j r (h.done j r hr hd) hd
  isSome := fun j => (k.isSome j).trans (h.isSome j)

end State.Made

section
variable {n : LineNo} {s : State} {st : LineStatus} {p : Request → Bool} {k : SlotNo} {r : Request}

theorem made_makeDone (hr : s.request? n k = some r) (hopen : r.state ≠ .done) (st : LineStatus) (f : Request → Request) :
    State.Made n st [k] s (s.makeDone n k st f) where
  order := doneOrder_makeDone hr hopen st f
  mem := fun j => by
    rw [List.mem_singleton]
    refine ⟨?_, fun ⟨⟨q, hq, hqopen⟩, w, hw, hdone⟩ => ?_⟩
    · rintro rfl
      exact ⟨⟨r, hr, hopen⟩, _, request?_makeDone_self hr hopen st f, rfl⟩
    · by_contra hj
      rw [request?_makeDone, if_neg fun h => hj h.2] at hw
      cases hw.symm.trans hq
      exact hqopen hdone
  outcome := fun j hj => by
    rw [List.mem_singleton.1 hj]
    exact ⟨_, request?_makeDone_self hr hopen st f, rfl⟩
  done := fun j q hq hdone => request?_makeDone_done hq hdone k st f
  isSome := fun j => by
    rw [request?_makeDone]
    by_cases hj : j = k
    · subst hj; simp [hr]
    · simp [hj]

/-- Some slots are made by a makeDone: that one, or none. -/
theorem made_makeDone_cases (s : State) (n : LineNo) (k : SlotNo) (st : LineStatus) (f : Request → Request) :
    State.Made n st ([k].filter fun j => (s.request? n j).any Request.isOpen) s (s.makeDone n k st f) := by
  by_cases h : (s.request? n k).any Request.isOpen = true
  · cases hr : s.request? n k with
    | none => rw [hr] at h; cases h
    | some r =>
      rw [List.filter_singleton, h, cond_true]
      rw [hr] at h
      exact made_makeDone hr (onlyOpen_isOpen r h) st f
  · rw [List.filter_singleton, Bool.eq_false_iff.2 h, cond_false, makeDone_of_closed fun r hr => ?_]
    · exact .refl n st s
    · by_contra hopen
      exact h (by simp [hr, Request.isOpen, hopen])

theorem made_onRequest (hkeeps : ∀ q, s.request? n k = some q → q.state ≠ .done) {f : Request → Request}
    (hf : ∀ q, (f q).state = q.state) : State.Made n st [] s (s.onRequest n k f) := by
  refine .of_open (doneOrder_onRequest ..) fun j => ?_
  rw [request?_onRequest]
  by_cases hj : j = k
  · subst hj
    cases hr : s.request? n j with
    | none => simp
    | some r =>
      refine .inr ⟨r, f r, rfl, by simp, hkeeps r hr, ?_⟩
      rw [hf]; exact hkeeps r hr
  · exact .inl (if_neg fun h => hj h.2)

/-- The slot of an exchange, if its request satisfies `p`. -/
def State.slotEnding (s : State) (n : LineNo) (slot : Option SlotNo) (p : Request → Bool) : List SlotNo :=
  slot.toList.filter fun k => (s.request? n k).any p

/-- Its request, changed by `f`, becomes DONE with `st`. -/
def State.endSlot (s : State) (n : LineNo) (slot : Option SlotNo) (p : Request → Bool) (st : LineStatus)
    (f : Request → Request) : State :=
  slot.elim s fun k => if (s.request? n k).any p then s.makeDone n k st f else s

theorem mem_slotEnding {slot : Option SlotNo} : k ∈ s.slotEnding n slot p ↔ slot = some k ∧ (s.request? n k).any p = true := by
  unfold State.slotEnding
  rw [List.mem_filter, Option.mem_toList]

/-- It is ended, or nothing is. -/
theorem endSlot_cases (s : State) (n : LineNo) (slot : Option SlotNo) (p : Request → Bool) (st : LineStatus)
    (f : Request → Request) : (s.slotEnding n slot p = [] ∧ s.endSlot n slot p st f = s)
      ∨ ∃ k r, slot = some k ∧ s.request? n k = some r ∧ p r = true ∧ s.slotEnding n slot p = [k]
        ∧ s.endSlot n slot p st f = s.makeDone n k st f := by
  unfold State.slotEnding State.endSlot
  cases slot with
  | none => exact .inl ⟨rfl, rfl⟩
  | some k =>
    by_cases hany : (s.request? n k).any p = true
    · obtain ⟨r, hr, hpr⟩ := (Option.any_eq_true _ _).1 hany
      exact .inr ⟨k, r, rfl, hr, hpr, by simp [hany], if_pos hany⟩
    · exact .inl ⟨by simp [hany], if_neg hany⟩

theorem onlyRequests_endSlot (slot : Option SlotNo) (f : Request → Request) :
    State.OnlyRequests n s (s.endSlot n slot p st f) := by
  rcases endSlot_cases s n slot p st f with ⟨-, h⟩ | ⟨k, -, -, -, -, -, h⟩ <;> rw [h]
  · exact .refl n s
  · exact onlyRequests_makeDone n s k st f

theorem made_endSlot (hp : OnlyOpen p) (slot : Option SlotNo) (f : Request → Request) :
    State.Made n st (s.slotEnding n slot p) s (s.endSlot n slot p st f) := by
  rcases endSlot_cases s n slot p st f with ⟨hnone, h⟩ | ⟨k, r, -, hr, hpr, hone, h⟩
  · rw [hnone, h]; exact .refl n st s
  · rw [hone, h]; exact made_makeDone hr (hp r hpr) st f

theorem unlists_endSlot (hp : OnlyOpen p) (slot : Option SlotNo) (f : Request → Request) :
    State.Unlists n (fun j => decide (j ∈ s.slotEnding n slot p)) s (s.endSlot n slot p st f) := by
  rcases endSlot_cases s n slot p st f with ⟨hnone, h⟩ | ⟨k, r, -, hr, hpr, hone, h⟩
  · rw [hnone, h]; exact (State.Unlists.refl n s).congr fun j => by simp
  · rw [hone, h]; exact (unlists_makeDone hr (hp r hpr) st f).congr fun j => by simp

theorem request?_endSlot_self {slot : Option SlotNo} (hslot : slot = some k) (hr : s.request? n k = some r)
    (hp : OnlyOpen p) (hpr : p r = true) (f : Request → Request) :
    (s.endSlot n slot p st f).request? n k = some ((f r).ended st) := by
  have hany : (s.request? n k).any p = true := by rw [hr]; exact hpr
  rw [State.endSlot, hslot, Option.elim_some, if_pos hany]
  exact request?_makeDone_self hr (hp r hpr) st f

theorem request?_endSlot_of_ne {slot : Option SlotNo} (h : k ∉ s.slotEnding n slot p) (f : Request → Request) :
    (s.endSlot n slot p st f).request? n k = s.request? n k := by
  rcases endSlot_cases s n slot p st f with ⟨-, hsame⟩ | ⟨j, r, -, -, -, hone, hdone⟩
  · rw [hsame]
  · rw [hone, List.mem_singleton] at h
    rw [hdone, request?_makeDone, if_neg fun hj => h hj.2]

theorem made_endEach (hp : OnlyOpen p) : ∀ (ks : List SlotNo) (s : State),
    ∃ made, State.Made n st made s (s.endEach n st p ks)
  | [], s => ⟨[], .refl n st s⟩
  | k :: ks, s => by
    obtain ⟨rest, hrest⟩ := made_endEach hp ks (s.endOne n st p k)
    have hone : ∃ first, State.Made n st first s (s.endOne n st p k) := by
      unfold State.endOne
      split
      · exact ⟨_, made_makeDone_cases s n k st id⟩
      · exact ⟨[], .refl n st s⟩
    obtain ⟨first, hfirst⟩ := hone
    exact ⟨first ++ rest, hfirst.trans hrest⟩

end

end Sys2Proof.Machine

/-! A retry pending given up (R93, R112 steps 2 to 5, R121, R167, R177, R180). -/

namespace Sys2Proof.Machine

/-! ### An exchange reported abandoned (R67, R69) -/

/-- R67, R69: abandoning the exchange costs entry `e` its step. -/
def Exchange.costs (x : Exchange) (e : Station) : Bool :=
  decide (x.sent = true ∧ (x.frame = .select ∨ x.frame = .reset) ∧ e.liveness ≠ .offline ∧ e.outOfStep = false)

theorem costs_iff (x : Exchange) (e : Station) : x.costs e = true
    ↔ x.sent = true ∧ (x.frame = .select ∨ x.frame = .reset) ∧ e.liveness ≠ .offline ∧ e.outOfStep = false :=
  decide_eq_true_iff

/-- R67, R69: what an exchange abandoned changes in its entry `e`. -/
def Exchange.abandons (x : Exchange) (e : Station) (y : Station) : Station :=
  { y with outOfStep := y.outOfStep || x.costs e }

/-- R69, R72: the record of an exchange abandoned. -/
def abandonRecords (n : LineNo) (x : Exchange) (e : Station) : List EventRecord :=
  if x.costs e then [⟨.stationOutOfStep, BitVec.ofNat 8 n.val, e.address, 512, 0, false⟩] else []

theorem steady_abandons (x : Exchange) (e : Station) : Station.Steady (x.abandons e) := ⟨fun _ => rfl, fun _ _ => rfl⟩

section
variable {s : State} {n : LineNo} {x : Exchange} {e : Station} {a : Byte}

theorem noteAbandoned_eq (h : s.station? n e.address = some e) (x : Exchange) :
    s.noteAbandoned n e.address x = s.reported n e.address (x.abandons e) (abandonRecords n x e) := by
  unfold State.noteAbandoned abandonRecords
  by_cases hreached : x.sent = true ∧ (x.frame = .select ∨ x.frame = .reset)
  case pos =>
    have hcosts : x.costs e = true ↔ e.liveness ≠ .offline ∧ e.outOfStep = false :=
      (costs_iff x e).trans ⟨fun h => h.2.2, fun h => ⟨hreached.1, hreached.2, h⟩⟩
    have hset : x.abandons e = e.unstepped := by
      have hsame : x.costs e = (decide (e.liveness ≠ .offline) && !e.outOfStep) := by
        rw [Bool.eq_iff_iff, hcosts, Bool.and_eq_true, decide_eq_true_iff, Bool.not_eq_true']
      funext y
      rw [Exchange.abandons, Station.unstepped, hsame]
    rw [if_pos hreached, setOutOfStep_eq h, hset, lostRecords]
    simp only [hcosts]
    rfl
  case neg =>
    have hfree : ¬ x.costs e = true := fun h => hreached ⟨((costs_iff x e).1 h).1, ((costs_iff x e).1 h).2.1⟩
    have hsame : x.abandons e = fun y => y := by
      funext y
      rw [Exchange.abandons, Bool.eq_false_iff.2 hfree, Bool.or_false]
    rw [if_neg hreached, if_neg hfree, hsame, reported_none]

theorem noteAbandoned_of_absent (h : s.station? n a = none) (x : Exchange) : s.noteAbandoned n a x = s := by
  unfold State.noteAbandoned State.setOutOfStep
  simp only [h, ite_self]

theorem entryOf_eq_some (h : s.entryOf n x = some e) : x.station = some e.address ∧ s.station? n e.address = some e := by
  obtain ⟨a, ha, he⟩ := Option.bind_eq_some_iff.1 h
  have haddress : e.address = a := (station?_key he).2
  rw [haddress]
  exact ⟨ha, he⟩

theorem reportAbandoned_of_entry (h : s.entryOf n x = some e) :
    s.reportAbandoned n x = s.reported n e.address (x.abandons e) (abandonRecords n x e) := by
  obtain ⟨hstation, hentry⟩ := entryOf_eq_some h
  rw [State.reportAbandoned, hstation]
  exact noteAbandoned_eq hentry x

theorem reportAbandoned_of_none (h : s.entryOf n x = none) : s.reportAbandoned n x = s := by
  unfold State.reportAbandoned
  cases hstation : x.station with
  | none => rfl
  | some a =>
    refine noteAbandoned_of_absent ?_ x
    rwa [State.entryOf, hstation] at h

end

/-! ### The ANSWERING head when an exchange is over (R112 step 5, R121) -/

/-- R112 step 5: the ANSWERING head is settled on a RUNNING device. -/
def State.exchangeOver (s : State) (n : LineNo) (x : Exchange) : State :=
  if s.running then s.settleAnswering n x true else s

section
variable {s : State} {n : LineNo} {x : Exchange} {e : Station} {k : SlotNo} {r : Request}

/-- R97, R121: it is left, its deadline decides it, or its query-poll due time is set. -/
theorem settleAnswering_cases (s : State) (n : LineNo) (x : Exchange) (ended : Bool) :
    s.settleAnswering n x ended = s
    ∨ ∃ e k r, s.entryOf n x = some e ∧ s.head? n e = some (k, r) ∧ r.state = .answering
      ∧ ((s.control.device = .running ∧ r.Overdue ended s.now ∧ s.settleAnswering n x ended = s.makeDone n k .answerTimeout id)
        ∨ s.settleAnswering n x ended
          = s.onRequest n k fun q => { q with queryPollDue := some (s.now + (s.line n).config.querySpacing) }) := by
  cases hentry : s.entryOf n x with
  | none =>
    have hbind : x.station.bind (s.station? n) = none := hentry
    exact .inl (by simp only [State.settleAnswering, hbind])
  | some e =>
    have hbind : x.station.bind (s.station? n) = some e := hentry
    cases hhead : s.head? n e with
    | none => exact .inl (by simp only [State.settleAnswering, hbind, hhead])
    | some p =>
      obtain ⟨k, r⟩ := p
      simp only [State.settleAnswering, hbind, hhead]
      by_cases hstate : r.state = .answering
      · rw [if_pos hstate]
        refine .inr ⟨e, k, r, rfl, hhead, hstate, ?_⟩
        cases hd : r.answerDeadline with
        | none => exact .inr (if_neg (by rw [Bool.and_false]; exact Bool.false_ne_true))
        | some d =>
          by_cases hover : (ended && s.running && decide (d ≤ s.now)) = true
          · obtain ⟨hboth, hdue⟩ := Bool.and_eq_true_iff.1 hover
            obtain ⟨hended, hrunning⟩ := Bool.and_eq_true_iff.1 hboth
            exact .inl ⟨of_decide_eq_true hrunning, ⟨hended, d, hd, of_decide_eq_true hdue⟩, if_pos hover⟩
          · exact .inr (if_neg hover)
      · exact .inl (if_neg hstate)

theorem exchangeOver_cases (s : State) (n : LineNo) (x : Exchange) : s.exchangeOver n x = s
    ∨ ∃ e k r, s.entryOf n x = some e ∧ s.head? n e = some (k, r) ∧ r.state = .answering
      ∧ ((s.control.device = .running ∧ r.Overdue true s.now ∧ s.exchangeOver n x = s.makeDone n k .answerTimeout id)
        ∨ s.exchangeOver n x
          = s.onRequest n k fun q => { q with queryPollDue := some (s.now + (s.line n).config.querySpacing) }) := by
  unfold State.exchangeOver
  split
  · exact settleAnswering_cases s n x true
  · exact .inl rfl

theorem exchangeOver_of_running (h : s.control.device = .running) : s.exchangeOver n x = s.settleAnswering n x true :=
  if_pos (decide_eq_true h)

theorem onlyRequests_exchangeOver (s : State) (n : LineNo) (x : Exchange) : State.OnlyRequests n s (s.exchangeOver n x) := by
  unfold State.exchangeOver
  split
  · exact onlyRequests_settleAnswering n s x true
  · exact .refl n s

theorem grows_exchangeOver (s : State) (n : LineNo) (x : Exchange) : State.Grows n s (s.exchangeOver n x) := by
  unfold State.exchangeOver
  split
  · exact grows_settleAnswering n s x true
  · exact .refl n s

/-- R121: the request of slot `k`, an answer its station's head waits for in vain. -/
def State.TimesOut (s : State) (n : LineNo) (x : Exchange) (k : SlotNo) : Prop :=
  s.control.device = .running ∧ ∃ e r d, s.entryOf n x = some e ∧ e.pending.head? = some k ∧ s.request? n k = some r
    ∧ r.state = .answering ∧ r.answerDeadline = some d ∧ d ≤ s.now

theorem exchangeOver_of_timesOut (h : s.TimesOut n x k) : s.exchangeOver n x = s.makeDone n k .answerTimeout id := by
  obtain ⟨hrunning, e, r, d, hentry, hhead, hr, hstate, hdeadline, hle⟩ := h
  obtain ⟨hstation, hfound⟩ := entryOf_eq_some hentry
  rw [exchangeOver_of_running hrunning]
  exact (settleAnswering_of_head hrunning hstation hfound (head?_eq_some.2 ⟨hhead, hr⟩) hstate).1 ⟨rfl, d, hdeadline, hle⟩

/-- An open request when an exchange is over: its answer has timed out, or it is as it was but for the query-poll due time. -/
theorem request?_exchangeOver (hr : s.request? n k = some r) :
    (s.TimesOut n x k ∧ (s.exchangeOver n x).request? n k = some (r.ended .answerTimeout))
    ∨ ∃ due, (s.exchangeOver n x).request? n k = some { r with queryPollDue := due }
      ∧ (r.state ≠ .answering → due = r.queryPollDue) := by
  rcases exchangeOver_cases s n x with hsame | ⟨e, j, q, hentry, hhead, hstate, hover⟩
  · exact .inr ⟨r.queryPollDue, by rw [hsame]; exact hr, fun _ => rfl⟩
  · obtain ⟨hj, hq⟩ := head?_eq_some.1 hhead
    have hopen : q.state ≠ .done := by rw [hstate]; decide
    by_cases hk : k = j
    · subst hk
      cases hr.symm.trans hq
      rcases hover with ⟨hrunning, ⟨-, d, hd, hle⟩, hover⟩ | hover
      · refine .inl ⟨⟨hrunning, e, r, d, hentry, hj, hr, hstate, hd, hle⟩, ?_⟩
        rw [hover, request?_makeDone_self hr hopen]
        rfl
      · refine .inr ⟨some (s.now + (s.line n).config.querySpacing), ?_, fun h => absurd hstate h⟩
        rw [hover, request?_onRequest, if_pos ⟨rfl, rfl⟩, hr]
        rfl
    · refine .inr ⟨r.queryPollDue, ?_, fun _ => rfl⟩
      rcases hover with ⟨-, -, hover⟩ | hover
      · rw [hover, request?_makeDone, if_neg fun h => hk h.2]; exact hr
      · rw [hover, request?_onRequest, if_neg fun h => hk h.2]; exact hr

/-- What leaves the lists is a request timed out. -/
theorem unlists_exchangeOver (s : State) (n : LineNo) (x : Exchange) : ∃ gone, State.Unlists n gone s (s.exchangeOver n x)
    ∧ ∀ k, gone k = true ↔ s.TimesOut n x k := by
  have hnone : (∀ k, ¬ s.TimesOut n x k) → ∀ k, (false : Bool) = true ↔ s.TimesOut n x k :=
    fun h k => ⟨fun h => (by cases h), fun ht => absurd ht (h k)⟩
  by_cases htimes : ∃ k, s.TimesOut n x k
  · obtain ⟨k, hk⟩ := htimes
    have hrun := exchangeOver_of_timesOut hk
    obtain ⟨hrunning, e, r, d, hentry, hhead, hr, hstate, hdeadline, hle⟩ := hk
    refine ⟨fun j => decide (j = k), ?_, fun j => ⟨fun h => ?_, fun ⟨_, e', _, _, hentry', hhead', _⟩ => ?_⟩⟩
    · rw [hrun]
      exact unlists_makeDone hr (by rw [hstate]; decide) .answerTimeout id
    · rw [of_decide_eq_true h]
      exact ⟨hrunning, e, r, d, hentry, hhead, hr, hstate, hdeadline, hle⟩
    · cases hentry.symm.trans hentry'
      cases hhead.symm.trans hhead'
      exact decide_eq_true rfl
  · push Not at htimes
    refine ⟨fun _ => false, ?_, hnone htimes⟩
    rcases exchangeOver_cases s n x with hsame | ⟨e, j, q, hentry, hhead, hstate, ⟨hrunning, ⟨-, d, hd, hle⟩, -⟩ | hover⟩
    · rw [hsame]; exact .refl n s
    · obtain ⟨hj, hq⟩ := head?_eq_some.1 hhead
      exact absurd ⟨hrunning, e, q, d, hentry, hj, hq, hstate, hd, hle⟩ (htimes j)
    · rw [hover]; exact unlists_onRequest _

end

/-! ### The retry given up -/

/-- R93: a line with no retry pending and its buffer released. -/
def Line.unretried (l : Line) : Line :=
  { l with sched := { l.sched with retry := none }, buf := { l.buf with reserved := false } }

/-- R93: the request of a retry given up becomes DONE. -/
def State.overRetry (s : State) (n : LineNo) (x : Exchange) (st : LineStatus) : State :=
  x.slot.elim s fun k => s.makeDone n k st x.unanswered

section
variable {s : State} {n : LineNo} {x : Exchange} {st : LineStatus}

theorem giveUpRetry_of_none (h : (s.line n).sched.retry = none) (st : LineStatus) (report : Bool) :
    s.giveUpRetry n st report = s := by
  simp only [State.giveUpRetry, h]

theorem giveUpRetry_unreported (h : (s.line n).sched.retry = some x) (st : LineStatus) :
    s.giveUpRetry n st false = ((s.overRetry n x st).exchangeOver n x).onLine n Line.unretried := by
  simp only [State.giveUpRetry, h, State.overRetry]
  cases x.slot <;> rfl

theorem giveUpRetry_reported (h : (s.line n).sched.retry = some x) (st : LineStatus) : s.giveUpRetry n st true
    = (((s.overRetry n x st).reportAbandoned n x).exchangeOver n x).onLine n Line.unretried := by
  simp only [State.giveUpRetry, h, State.overRetry, State.reportAbandoned]
  cases x.slot <;> cases x.station <;> rfl

/-- The slots of a retry given up that it makes DONE: its own, if it holds a request that is not. -/
def State.retrySlots (s : State) (n : LineNo) (x : Exchange) : List SlotNo := s.slotEnding n x.slot Request.isOpen

theorem overRetry_eq (s : State) (n : LineNo) (x : Exchange) (st : LineStatus) :
    s.overRetry n x st = s.endSlot n x.slot Request.isOpen st x.unanswered := by
  unfold State.overRetry State.endSlot
  congr 1
  funext k
  split
  · rfl
  · next hclosed =>
    refine makeDone_of_closed (fun r hr => ?_) st _
    by_contra hopen
    exact hclosed (by simp [hr, Request.isOpen, hopen])

theorem onlyRequests_overRetry : State.OnlyRequests n s (s.overRetry n x st) := by
  rw [overRetry_eq]
  exact onlyRequests_endSlot ..

theorem made_overRetry : State.Made n st (s.retrySlots n x) s (s.overRetry n x st) := by
  rw [overRetry_eq]
  exact made_endSlot onlyOpen_isOpen ..

theorem mem_retrySlots {k : SlotNo} : k ∈ s.retrySlots n x ↔ x.slot = some k ∧ (s.request? n k).any Request.isOpen = true :=
  mem_slotEnding

theorem unlists_overRetry : State.Unlists n (fun j => decide (j ∈ s.retrySlots n x)) s (s.overRetry n x st) := by
  rw [overRetry_eq]
  exact unlists_endSlot onlyOpen_isOpen ..

theorem request?_overRetry_self {k : SlotNo} {r : Request} (hslot : x.slot = some k) (hr : s.request? n k = some r)
    (hopen : r.state ≠ .done) : (s.overRetry n x st).request? n k = some ((x.unanswered r).ended st) := by
  rw [overRetry_eq]
  exact request?_endSlot_self hslot hr onlyOpen_isOpen (decide_eq_true hopen) _

theorem request?_overRetry_of_ne {k : SlotNo} (h : k ∉ s.retrySlots n x) : (s.overRetry n x st).request? n k = s.request? n k := by
  rw [overRetry_eq]
  exact request?_endSlot_of_ne h _

end

end Sys2Proof.Machine

/-! DETACH: the entry freed at once, or the wait for its turn (4.8, R75, R76, R92, R93). -/

namespace Sys2Proof.Machine

/-! ### Cursors of a ring that an entry leaves (R92) -/

theorem cursorLeaving_eq (ring : List Station) (a : Byte) (cur : Option Byte) : cursorLeaving ring a cur
    = if cur = some a then ((ring.map Station.address).takeWhile fun b => decide (b ≠ a)).getLast? else cur := by
  rw [cursorLeaving, List.takeWhile_map, List.getLast?_map]
  rfl

/-- Only the addresses of the ring matter. -/
theorem leaving_congr {ring ring' : List Station} (h : ring'.map Station.address = ring.map Station.address) (sc : Scheduler)
    (a : Byte) : sc.leaving ring' a = sc.leaving ring a := by
  have hcursor : ∀ cur, cursorLeaving ring' a cur = cursorLeaving ring a cur := fun cur => by
    rw [cursorLeaving_eq, cursorLeaving_eq, h]
  unfold Scheduler.leaving requestCursorLeaving
  simp only [hcursor]

theorem cursorLeaving_at {pre post : List Station} {y : Station} {a : Byte} (hy : y.address = a)
    (hpre : ∀ z ∈ pre, z.address ≠ a) (cur : Option Byte) :
    cursorLeaving (pre ++ y :: post) a cur = if cur = some a then pre.getLast?.map Station.address else cur := by
  rw [cursorLeaving, List.takeWhile_append_of_pos fun z hz => decide_eq_true (hpre z hz), List.takeWhile_cons_of_neg (by simp [hy]),
    List.append_nil]

/-- R92: the cursors that name the entry move to the entry before it, or to start. -/
theorem leaving_at {pre post : List Station} {y : Station} {a : Byte} (hy : y.address = a)
    (hpre : ∀ z ∈ pre, z.address ≠ a) (sc : Scheduler) : sc.leaving (pre ++ y :: post) a = { sc with
      syncCursor := if sc.syncCursor = some a then pre.getLast?.map Station.address else sc.syncCursor
      pollCursor := if sc.pollCursor = some a then pre.getLast?.map Station.address else sc.pollCursor
      slowCursor := if sc.slowCursor = some a then pre.getLast?.map Station.address else sc.slowCursor
      requestCursor := if sc.requestCursor = .station a then
        (pre.getLast?.map Station.address).elim .start .station else sc.requestCursor } := by
  have hrequest : requestCursorLeaving (pre ++ y :: post) a sc.requestCursor = if sc.requestCursor = .station a then
      (pre.getLast?.map Station.address).elim .start .station else sc.requestCursor := by
    cases hcursor : sc.requestCursor with
    | start => rfl
    | broadcast => rfl
    | station b =>
      rw [requestCursorLeaving, cursorLeaving_at hy hpre]
      by_cases hb : b = a
      · subst hb; rw [if_pos rfl, if_pos rfl]; cases pre.getLast? <;> rfl
      · rw [if_neg fun h => hb (Option.some.inj h), if_neg fun h => hb (RequestCursor.station.inj h)]
  unfold Scheduler.leaving
  rw [cursorLeaving_at hy hpre, cursorLeaving_at hy hpre, cursorLeaving_at hy hpre, hrequest]

/-! ### An entry freed (R75) -/

/-- R92: a line whose cursors leave the entry of `a`. -/
def Line.leaving (l : Line) (ring : List Station) (a : Byte) : Line := { l with sched := l.sched.leaving ring a }

/-- The entry of `a` on line `n` leaves the table. -/
def State.dropStation (s : State) (n : LineNo) (a : Byte) : State :=
  { s with stations := s.stations.filter fun y => !(decide (y.line = n) && decide (y.address = a)) }

section
variable {s : State} {n : LineNo} {a : Byte} {e : Station} {k : SlotNo}

theorem freeStation_eq (h : s.station? n a = some e) : s.freeStation n a
    = ((s.endEach n .detached Request.isOpen e.pending).onLine n fun l => l.leaving (s.ring n) a).dropStation n a := by
  rw [State.freeStation, h]
  simp only [foldl_makeDone_eq_endEach]
  rfl

theorem station?_dropStation (s : State) (n : LineNo) (a : Byte) : (s.dropStation n a).station? n a = none := by
  unfold State.station? State.dropStation
  refine List.find?_eq_none.2 fun y hy hkey => ?_
  have hkept := (List.mem_filter.1 hy).2
  rw [hkey] at hkept
  cases hkept

theorem ring_dropStation (s : State) (n : LineNo) (a : Byte) : (s.dropStation n a).ring n
    = (s.ring n).filter fun y => decide (y.address ≠ a) := by
  unfold State.ring State.dropStation
  rw [List.filter_filter, List.filter_filter]
  refine List.filter_congr fun y _ => ?_
  by_cases hline : y.line = n <;> simp [hline]

theorem station?_freeStation (h : s.station? n a = some e) : (s.freeStation n a).station? n a = none := by
  rw [freeStation_eq h, station?_dropStation]

/-- R75: the listed requests are DETACHED; no other changes. -/
theorem request?_freeStation (h : s.station? n a = some e) (k : SlotNo) : (s.freeStation n a).request? n k
    = if k ∈ e.pending then (s.request? n k).map fun r => if r.isOpen then r.ended .detached else r else s.request? n k := by
  rw [freeStation_eq h]
  have hline : ((s.endEach n .detached Request.isOpen e.pending).onLine n fun l => l.leaving (s.ring n) a).request? n k
      = (s.endEach n .detached Request.isOpen e.pending).request? n k :=
    request?_congr (by rw [line_onLine, if_pos rfl]; rfl) k
  exact hline.trans (request?_endEach onlyOpen_isOpen ..)

theorem line_freeStation (h : s.station? n a = some e) : (s.freeStation n a).line n
    = { s.line n with
        pool := ((s.endEach n .detached Request.isOpen e.pending).line n).pool, sched := (s.line n).sched.leaving (s.ring n) a } := by
  rw [freeStation_eq h]
  change ((s.endEach n .detached Request.isOpen e.pending).onLine n fun l => l.leaving (s.ring n) a).line n = _
  rw [line_onLine, if_pos rfl, (onlyRequests_endEach (st := .detached) (p := Request.isOpen) e.pending s).line]
  rfl

/-- R84: they join the DONE order in list order. -/
theorem doneOrder_freeStation (h : s.station? n a = some e) (hnodup : e.pending.Nodup) :
    ((s.freeStation n a).line n).pool.doneOrder
      = (s.line n).pool.doneOrder ++ e.pending.filter fun k => (s.request? n k).any Request.isOpen := by
  rw [line_freeStation h]
  exact doneOrder_endEach onlyOpen_isOpen e.pending s hnodup

theorem addresses_freeStation (h : s.station? n a = some e) : ((s.freeStation n a).ring n).map Station.address
    = ((s.ring n).map Station.address).filter fun b => decide (b ≠ a) := by
  have hsame := (unlists_endEach (n := n) (st := .detached) onlyOpen_isOpen e.pending s).addresses
  rw [freeStation_eq h, ring_dropStation, ← hsame, List.filter_map]
  rfl

theorem events_freeStation (s : State) (n : LineNo) (a : Byte) : (s.freeStation n a).events = s.events := by
  cases h : s.station? n a with
  | none => rw [State.freeStation, h]
  | some e =>
    rw [freeStation_eq h]
    exact (onlyRequests_endEach (st := .detached) (p := Request.isOpen) e.pending s).events

theorem admin_freeStation (s : State) (n : LineNo) (a : Byte) : (s.freeStation n a).admin = s.admin := by
  cases h : s.station? n a with
  | none => rw [State.freeStation, h]
  | some e =>
    rw [freeStation_eq h]
    exact (onlyRequests_endEach (st := .detached) (p := Request.isOpen) e.pending s).admin

theorem grows_freeStation (s : State) (n : LineNo) (a : Byte) : State.Grows n s (s.freeStation n a) := by
  cases h : s.station? n a with
  | none => rw [State.freeStation, h]; exact .refl n s
  | some e =>
    have hgrows : State.Grows n s (s.endEach n .detached Request.isOpen e.pending) := grows_foldl (fun t k => by
      split
      · exact grows_makeDone n t k .detached id
      · exact .refl n t) e.pending s
    exact hgrows.trans (.of_pool (by rw [line_freeStation h]))

end

/-! ### The retry given up, and then the entry freed (R75, R93, R121) -/

/-- R75, R93: the entry of `a` freed once the exchange `x` to it is over. -/
def State.freedAfter (v : State) (n : LineNo) (a : Byte) (x : Exchange) : State :=
  ((v.exchangeOver n x).onLine n Line.unretried).freeStation n a

section
variable {v : State} {n : LineNo} {a : Byte} {x : Exchange} {e : Station} {k : SlotNo} {r : Request}

theorem State.TimesOut.head (h : v.TimesOut n x k) (hentry : v.entryOf n x = some e) : e.pending.head? = some k := by
  obtain ⟨-, e', -, -, hentry', hhead, -⟩ := h
  cases hentry.symm.trans hentry'
  exact hhead

theorem State.TimesOut.open (h : v.TimesOut n x k) : ∃ r, v.request? n k = some r ∧ r.state ≠ .done := by
  obtain ⟨-, -, r, -, -, -, hr, hstate, -⟩ := h
  exact ⟨r, hr, by rw [hstate]; decide⟩

theorem station?_exchangeOver {gone : SlotNo → Bool} (h : State.Unlists n gone v (v.exchangeOver n x))
    (hentry : v.entryOf n x = some e) :
    ((v.exchangeOver n x).onLine n Line.unretried).station? n e.address = some (e.without gone) := by
  rw [station?_onLine, h.station?, (entryOf_eq_some hentry).2]
  rfl

theorem request?_unretried (s : State) (n : LineNo) (k : SlotNo) : (s.onLine n Line.unretried).request? n k = s.request? n k :=
  request?_congr (by rw [line_onLine, if_pos rfl]; rfl) k

/-- R121: the ANSWERING head whose deadline has passed times out. -/
theorem request?_freedAfter_timesOut (htimes : v.TimesOut n x k) (hr : v.request? n k = some r) (a : Byte) :
    (v.freedAfter n a x).request? n k = some (r.ended .answerTimeout) := by
  have hdone : ((v.exchangeOver n x).onLine n Line.unretried).request? n k = some (r.ended .answerTimeout) := by
    obtain ⟨q, hq, hopen⟩ := htimes.open
    cases hr.symm.trans hq
    rw [request?_unretried, exchangeOver_of_timesOut htimes, request?_makeDone_self hr hopen]
    rfl
  exact (grows_freeStation _ n a).done _ _ hdone rfl

/-- R75: every other listed request is DETACHED. -/
theorem request?_freedAfter (hentry : v.entryOf n x = some e) (hk : k ∈ e.pending) (hr : v.request? n k = some r)
    (hopen : r.state ≠ .done) (hkept : ¬ v.TimesOut n x k) :
    (v.freedAfter n e.address x).request? n k = some (r.ended .detached) := by
  obtain ⟨gone, hunlists, hgone⟩ := unlists_exchangeOver v n x
  have hlisted : k ∈ (e.without gone).pending :=
    List.mem_filter.2 ⟨hk, by rw [Bool.not_eq_true', Bool.eq_false_iff]; exact mt (hgone k).1 hkept⟩
  rcases request?_exchangeOver (x := x) hr with ⟨htimes, -⟩ | ⟨due, hdue, -⟩
  · exact absurd htimes hkept
  · rw [State.freedAfter, request?_freeStation (station?_exchangeOver hunlists hentry), if_pos hlisted, request?_unretried, hdue,
      Option.map_some, if_pos (show Request.isOpen { r with queryPollDue := due } = true from decide_eq_true hopen)]
    rfl

theorem any_isOpen_exchangeOver (hkept : ¬ v.TimesOut n x k) :
    ((v.exchangeOver n x).request? n k).any Request.isOpen = (v.request? n k).any Request.isOpen := by
  cases hr : v.request? n k with
  | none =>
    have hnone : (v.exchangeOver n x).request? n k = none := by
      rcases exchangeOver_cases v n x with hsame | ⟨-, j, q, -, -, -, ⟨-, -, hover⟩ | hover⟩
      · rw [hsame]; exact hr
      · rw [hover, request?_makeDone]
        split
        · next h => rw [← h.2, hr]; rfl
        · exact hr
      · rw [hover, request?_onRequest]
        split
        · next h => rw [← h.2, hr]; rfl
        · exact hr
    rw [hnone]
  | some r =>
    rcases request?_exchangeOver (x := x) hr with ⟨htimes, -⟩ | ⟨due, hdue, -⟩
    · exact absurd htimes hkept
    · rw [hdue]; rfl

/-- R84: the list joins the DONE order in its order, whether its head times out or is DETACHED. -/
theorem doneOrder_freedAfter (hentry : v.entryOf n x = some e) (hnodup : e.pending.Nodup) :
    ((v.freedAfter n e.address x).line n).pool.doneOrder
      = (v.line n).pool.doneOrder ++ e.pending.filter fun k => (v.request? n k).any Request.isOpen := by
  obtain ⟨gone, hunlists, hgone⟩ := unlists_exchangeOver v n x
  have hline : ((v.exchangeOver n x).onLine n Line.unretried).line n = ((v.exchangeOver n x).line n).unretried := by
    rw [line_onLine, if_pos rfl]
  rw [State.freedAfter, doneOrder_freeStation (station?_exchangeOver hunlists hentry) (hnodup.filter _), hline]
  change ((v.exchangeOver n x).line n).pool.doneOrder ++ ((e.pending.filter fun j => !gone j).filter _) = _
  simp only [request?_unretried]
  have hopens : (e.pending.filter fun j => !gone j).filter (fun j => ((v.exchangeOver n x).request? n j).any Request.isOpen)
      = (e.pending.filter fun j => !gone j).filter fun j => (v.request? n j).any Request.isOpen :=
    List.filter_congr fun j hj => any_isOpen_exchangeOver fun ht => by
      simpa [(hgone j).2 ht] using (List.mem_filter.1 hj).2
  rw [hopens]
  by_cases htimes : ∃ k, v.TimesOut n x k
  case pos =>
    obtain ⟨k, hk⟩ := htimes
    obtain ⟨r, hr, hopen⟩ := hk.open
    obtain ⟨rest, hlist⟩ := List.head?_eq_some_iff.1 (hk.head hentry)
    rw [hlist] at hnodup
    obtain ⟨hnot, -⟩ := List.nodup_cons.1 hnodup
    have hothers : ∀ j ∈ rest, gone j = false := fun j hj => Bool.eq_false_iff.2 fun h => by
      have hhead := ((hgone j).1 h).head hentry
      rw [hlist, List.head?_cons] at hhead
      exact hnot (Option.some.inj hhead ▸ hj)
    have hrest : rest.filter (fun j => !gone j) = rest := List.filter_eq_self.2 fun j hj => by rw [hothers j hj]; rfl
    rw [exchangeOver_of_timesOut hk, doneOrder_makeDone hr hopen, hlist, List.filter_cons_of_neg (by simp [(hgone k).2 hk]), hrest,
      List.filter_cons_of_pos (by rw [hr]; exact decide_eq_true hopen), List.append_assoc]
    rfl
  case neg =>
    push Not at htimes
    have hnone : e.pending.filter (fun j => !gone j) = e.pending :=
      List.filter_eq_self.2 fun j _ => by rw [Bool.not_eq_true', Bool.eq_false_iff]; exact mt (hgone j).1 (htimes j)
    have hstands : ((v.exchangeOver n x).line n).pool.doneOrder = (v.line n).pool.doneOrder := by
      rcases exchangeOver_cases v n x with hsame | ⟨e', j, q, hentry', hhead, hstate, ⟨hrunning, ⟨-, d, hd, hle⟩, -⟩ | hover⟩
      · rw [hsame]
      · obtain ⟨hj, hq⟩ := head?_eq_some.1 hhead
        exact absurd ⟨hrunning, e', q, d, hentry', hj, hq, hstate, hd, hle⟩ (htimes j)
      · rw [hover, doneOrder_onRequest]
    rw [hnone, hstands]

end

end Sys2Proof.Machine

/-! DETACH, settled (R75, R76, R84, R92, R93, R121). -/

namespace Sys2Proof.Machine

/-! ### What stands once an entry has left the table -/

/-- The entry of `a` has left the table and the cursors; requests, lists and the retry pending aside, nothing else changed. -/
structure State.EntryGone (n : LineNo) (a : Byte) (s u : State) : Prop where
  settling : State.Settling n s u
  events : u.events = s.events
  absent : u.station? n a = none
  addresses : (u.ring n).map Station.address = ((s.ring n).map Station.address).filter fun b => decide (b ≠ a)
  held : (u.line n).post.held = (s.line n).post.held
  sched : (u.line n).sched = { (s.line n).sched.leaving (s.ring n) a with retry := (u.line n).sched.retry }

section
variable {s : State} {n : LineNo} {a : Byte} {x : Exchange} {e : Station}

theorem entryGone_freeStation (h : s.station? n a = some e) : State.EntryGone n a s (s.freeStation n a) where
  settling := settling_freeStation n s a
  events := events_freeStation s n a
  absent := station?_freeStation h
  addresses := addresses_freeStation h
  held := by rw [line_freeStation h]
  sched := by rw [line_freeStation h]

theorem unlists_givenUp (s : State) (n : LineNo) (x : Exchange) (st : LineStatus) :
    ∃ gone, State.Unlists n gone s ((s.overRetry n x st).exchangeOver n x) := by
  obtain ⟨gone, hgone, -⟩ := unlists_exchangeOver (s.overRetry n x st) n x
  exact ⟨_, unlists_overRetry.trans hgone⟩

theorem settling_unretried (n : LineNo) (s : State) : State.Settling n s (s.onLine n Line.unretried) :=
  settling_onLine ⟨rfl, rfl, rfl, rfl, rfl, rfl, rfl, rfl, rfl, rfl, rfl, .inl rfl⟩

theorem entryGone_freedAfter (h : s.station? n a = some e) (st : LineStatus) :
    State.EntryGone n a s ((s.overRetry n x st).freedAfter n a x)
      ∧ (((s.overRetry n x st).freedAfter n a x).line n).sched.retry = none
      ∧ (((s.overRetry n x st).freedAfter n a x).line n).buf.reserved = false := by
  obtain ⟨gone, hunlists⟩ := unlists_givenUp s n x st
  have honly : State.OnlyRequests n s ((s.overRetry n x st).exchangeOver n x) :=
    onlyRequests_overRetry.trans (onlyRequests_exchangeOver _ n x)
  have hline : (((s.overRetry n x st).exchangeOver n x).onLine n Line.unretried).line n
      = (((s.overRetry n x st).exchangeOver n x).line n).unretried := by rw [line_onLine, if_pos rfl]
  have hring : (((s.overRetry n x st).exchangeOver n x).onLine n Line.unretried).ring n
      = ((s.overRetry n x st).exchangeOver n x).ring n := rfl
  have hentry : (((s.overRetry n x st).exchangeOver n x).onLine n Line.unretried).station? n a = some (e.without gone) := by
    rw [station?_onLine, hunlists.station?, h]; rfl
  have hgone := entryGone_freeStation hentry
  have hsched : ((((s.overRetry n x st).exchangeOver n x).onLine n Line.unretried).freeStation n a |>.line n).sched
      = { (s.line n).sched.leaving (s.ring n) a with retry := none } := by
    rw [line_freeStation hentry, hline, hring]
    change Scheduler.leaving { (((s.overRetry n x st).exchangeOver n x).line n).sched with retry := none } _ a = _
    rw [honly.sched, leaving_congr hunlists.addresses]
    rfl
  refine ⟨⟨?settling, ?events, hgone.absent, ?addresses, ?held, ?sched⟩, ?retry, ?reserved⟩
  case settling => exact (honly.settling.trans (settling_unretried n _)).trans hgone.settling
  case events => exact hgone.events.trans honly.events
  case addresses => rw [State.freedAfter, hgone.addresses, hring, hunlists.addresses]
  case held => rw [State.freedAfter, hgone.held, hline]; exact congrArg PostingPath.held honly.post
  case sched => rw [State.freedAfter, hsched]
  case retry => rw [State.freedAfter, hsched]
  case reserved => rw [State.freedAfter, line_freeStation hentry, hline]; rfl

end

/-! ### What becomes of the requests -/

/-- The slot of a retry pending to entry `e`, if giving it up makes it DONE. -/
def State.retryFirst (s : State) (n : LineNo) (e : Station) : List SlotNo :=
  match (s.line n).sched.retry with
  | some x => if x.station = some e.address then s.retrySlots n x else []
  | none => []

/-- A retry pending to entry `e` (R93). -/
def State.RetryTo (s : State) (n : LineNo) (e : Station) (x : Exchange) : Prop :=
  (s.line n).sched.retry = some x ∧ x.station = some e.address

/-- Entry `e` has been freed, a retry pending to it given up before: `u` is what is left (R75, R93, R121). -/
structure State.EntryFreed (n : LineNo) (e : Station) (s u : State) : Prop where
  gone : State.EntryGone n e.address s u
  kept : (∀ x, ¬ s.RetryTo n e x) → (u.line n).sched.retry = (s.line n).sched.retry
  detached : ∀ k ∈ e.pending, ∀ r, s.request? n k = some r → r.state ≠ .done →
    (∀ x, s.RetryTo n e x → x.slot ≠ some k
      ∧ (s.control.device = .running → r.state = .answering → ∀ d, r.answerDeadline = some d → s.now < d)) → u.request? n k = some (r.ended .detached)
  timedOut : ∀ x k r, s.RetryTo n e x → x.slot = none → s.TimesOut n x k → s.request? n k = some r →
    u.request? n k = some (r.ended .answerTimeout)
  retry : ∀ x, s.RetryTo n e x → (u.line n).sched.retry = none ∧ (u.line n).buf.reserved = false
    ∧ ∀ k r, x.slot = some k → s.request? n k = some r → r.state ≠ .done →
      u.request? n k = some ((x.unanswered r).ended .detached)
  order : e.pending.Nodup → (u.line n).pool.doneOrder = (s.line n).pool.doneOrder ++ s.retryFirst n e
    ++ e.pending.filter fun k => !(s.retryFirst n e).contains k && (s.request? n k).any Request.isOpen

section
variable {s : State} {n : LineNo} {x : Exchange} {e : Station} {k : SlotNo}

theorem State.RetryTo.eq {y : Exchange} (h : s.RetryTo n e x) (h' : s.RetryTo n e y) : x = y :=
  Option.some.inj (h.1.symm.trans h'.1)

theorem retryFirst_of_none (h : ∀ x, ¬ s.RetryTo n e x) : s.retryFirst n e = [] := by
  unfold State.retryFirst
  cases hretry : (s.line n).sched.retry with
  | none => rfl
  | some x => exact if_neg fun hx => h x ⟨hretry, hx⟩

theorem retryFirst_of_retry (h : s.RetryTo n e x) : s.retryFirst n e = s.retrySlots n x := by
  obtain ⟨hretry, hstation⟩ := h
  simp only [State.retryFirst, hretry, if_pos hstation]

/-- R75: no retry to the entry is pending. -/
theorem entryFreed_freeStation (hentry : s.station? n e.address = some e) (hnone : ∀ x, ¬ s.RetryTo n e x) :
    State.EntryFreed n e s (s.freeStation n e.address) where
  gone := entryGone_freeStation hentry
  kept := fun _ => by rw [line_freeStation hentry]; rfl
  detached := fun k hk r hr hopen _ => by
    rw [request?_freeStation hentry, if_pos hk, hr, Option.map_some, if_pos (show r.isOpen = true from decide_eq_true hopen)]
  timedOut := fun x _ _ h => absurd h (hnone x)
  retry := fun x h => absurd h (hnone x)
  order := fun hnodup => by
    rw [retryFirst_of_none hnone, List.append_nil, doneOrder_freeStation hentry hnodup]
    rfl

/-- A timeout is judged alike before and after the retry's own request is over. -/
theorem timesOut_of_overRetry {st : LineStatus} (hslot : x.slot ≠ some k) (h : (s.overRetry n x st).TimesOut n x k) :
    s.control.device = .running ∧ ∃ r d, s.request? n k = some r ∧ r.state = .answering ∧ r.answerDeadline = some d
      ∧ d ≤ s.now := by
  obtain ⟨hrunning, -, r, d, -, -, hr, hstate, hdeadline, hle⟩ := h
  have honly : State.OnlyRequests n s (s.overRetry n x st) := onlyRequests_overRetry
  rw [honly.control] at hrunning
  rw [honly.now] at hle
  rw [request?_overRetry_of_ne fun hmem => hslot (mem_retrySlots.1 hmem).1] at hr
  exact ⟨hrunning, r, d, hr, hstate, hdeadline, hle⟩

/-- R93: the retry pending to the entry is given up first. -/
theorem entryFreed_freedAfter (hentry : s.station? n e.address = some e) (hretry : s.RetryTo n e x) :
    State.EntryFreed n e s ((s.overRetry n x .detached).freedAfter n e.address x) := by
  obtain ⟨hgone, hnone, hreserved⟩ := entryGone_freedAfter (x := x) hentry .detached
  have hunlists : State.Unlists n (fun j => decide (j ∈ s.retrySlots n x)) s (s.overRetry n x .detached) := unlists_overRetry
  have hentry' : (s.overRetry n x .detached).station? n e.address = some (e.without fun j => decide (j ∈ s.retrySlots n x)) := by
    rw [hunlists.station?, hentry]; rfl
  have hfound : (s.overRetry n x .detached).entryOf n x = some (e.without fun j => decide (j ∈ s.retrySlots n x)) :=
    entryOf_of_station hretry.2 hentry'
  have hother : ∀ k, x.slot ≠ some k → (s.overRetry n x .detached).request? n k = s.request? n k := fun k hslot =>
    request?_overRetry_of_ne fun hmem => hslot (mem_retrySlots.1 hmem).1
  refine ⟨hgone, fun h => absurd hretry (h x), fun k hk r hr hopen hkept => ?detached, fun y k r hy hslot ht hr => ?timedOut,
    fun y hy => ⟨hnone, hreserved, fun k r hslot hr hopen => ?slot⟩, fun hnodup => ?order⟩
  case detached =>
    obtain ⟨hslot, hnot⟩ := hkept x hretry
    have hlisted : k ∈ (e.without fun j => decide (j ∈ s.retrySlots n x)).pending := by
      refine List.mem_filter.2 ⟨hk, ?_⟩
      rw [Bool.not_eq_true', decide_eq_false_iff_not]
      exact fun hmem => hslot (mem_retrySlots.1 hmem).1
    refine request?_freedAfter (e := e.without fun j => decide (j ∈ s.retrySlots n x)) hfound hlisted ((hother k hslot).trans hr) hopen fun ht => ?_
    obtain ⟨hrunning, q, d, hq, hstate, hdeadline, hle⟩ := timesOut_of_overRetry hslot ht
    cases hr.symm.trans hq
    exact absurd (hnot hrunning hstate d hdeadline) (Nat.not_lt.2 hle)
  case timedOut =>
    cases hretry.eq hy
    have hsame : s.overRetry n x .detached = s := by rw [State.overRetry, hslot]; rfl
    rw [hsame]
    exact request?_freedAfter_timesOut ht hr e.address
  case slot =>
    cases hretry.eq hy
    have hgrows : State.Grows n (s.overRetry n x .detached) ((s.overRetry n x .detached).freedAfter n e.address x) :=
      ((grows_exchangeOver _ n x).trans (.of_pool (by rw [line_onLine, if_pos rfl]; rfl))).trans (grows_freeStation _ n e.address)
    exact hgrows.done _ _ (request?_overRetry_self hslot hr hopen) rfl
  case order =>
    have hopens : (e.without fun j => decide (j ∈ s.retrySlots n x)).pending.filter (fun k =>
          ((s.overRetry n x .detached).request? n k).any Request.isOpen)
        = e.pending.filter fun k => !(s.retrySlots n x).contains k && (s.request? n k).any Request.isOpen := by
      rw [Station.without, List.filter_filter]
      refine List.filter_congr fun k _ => ?_
      by_cases hmem : k ∈ s.retrySlots n x
      · simp [hmem]
      · rw [request?_overRetry_of_ne hmem, Bool.and_comm]
        simp [hmem]
    have horder := doneOrder_freedAfter hfound (hnodup.filter _)
    rw [hopens, made_overRetry.order] at horder
    rw [retryFirst_of_retry hretry]
    exact horder

end

/-! ### DETACH -/

section
variable {s : State} {n : LineNo} {a : Access} {rec : List Byte} {e : Station}

theorem exec_detach (hawaits : s.AwaitsAdmin a 5 rec) (hgood : ¬ LineStationBad rec) :
    exec (.detach rec) s = .next ((s.finishAccess a).detach rec) :=
  congrArg Host.Outcome.next
    (executed_of_awaitsAdmin hawaits (ok := fun _ => lineStationOk rec) ((lineStationOk_iff rec).2 hgood) _)

theorem turnTo_iff (l : Line) (b : Byte) : l.turnTo b = true ↔ ∃ t, l.state = .turn t ∧ t.exch.station = some b := by
  unfold Line.turnTo Line.turn?
  cases l.state <;> simp

theorem retryTo_iff (l : Line) (b : Byte) : l.retryTo b = true ↔ ∃ x, l.sched.retry = some x ∧ x.station = some b := by
  unfold Line.retryTo
  cases l.sched.retry <;> simp

theorem ring_settleHeld (s : State) (n m : LineNo) : (s.settleHeld n).ring m = s.ring m := by
  unfold State.ring
  rw [stations_settleHeld]

/-- R75, R93: with no turn to the entry in flight it is freed at once. -/
theorem detach_of_noTurn (hn : (byteAt rec 1).toNat = n.val) (haddress : e.address = byteAt rec 4)
    (hentry : s.station? n e.address = some e) (hturn : ¬ (s.line n).turnTo e.address = true) :
    ∃ u, s.detach rec = (u.completeAdmin (halfAt rec 2) .ok e.address 0).settleHeld n ∧ State.EntryFreed n e s u := by
  have hfound : ¬ (s.station? n e.address).isNone = true := by rw [hentry]; exact Bool.false_ne_true
  rw [State.detach, lineNamed_of_byte hn, adminStation, ← haddress, if_neg hfound, if_neg hturn]
  by_cases hretry : (s.line n).retryTo e.address = true
  · obtain ⟨x, hx, hstation⟩ := (retryTo_iff _ _).1 hretry
    rw [if_pos hretry, giveUpRetry_unreported hx]
    exact ⟨_, rfl, entryFreed_freedAfter hentry ⟨hx, hstation⟩⟩
  · rw [if_neg hretry]
    exact ⟨_, rfl, entryFreed_freeStation hentry fun x hx => hretry ((retryTo_iff _ _).2 ⟨x, hx⟩)⟩

end

/-- Settles O32 (R75, R76, R84, R92, R93, R121, R146). -/
theorem detachFreesEntry : Obligations.DetachFreesEntry := by
  intro s n a rec hawaits hgood hn
  have hrun := exec_detach hawaits hgood
  refine ⟨fun hnone => ?notFound, fun e x he hstate hstation => ?waits, fun e he hturn => ?freed⟩
  case notFound =>
    have hmissing : ((s.finishAccess a).station? n (byteAt rec 4)).isNone = true := by
      rw [show (s.finishAccess a).station? n (byteAt rec 4) = none from hnone]; rfl
    rw [hrun, State.detach, lineNamed_of_byte hn, adminStation, if_pos hmissing]
    rfl
  case waits =>
    have hfound : ¬ ((s.finishAccess a).station? n (byteAt rec 4)).isNone = true := by
      rw [show (s.finishAccess a).station? n (byteAt rec 4) = some e from he]; exact Bool.false_ne_true
    have hturn : ((s.finishAccess a).line n).turnTo (byteAt rec 4) = true := (turnTo_iff _ _).2 ⟨x, hstate, hstation⟩
    rw [hrun, State.detach, lineNamed_of_byte hn, adminStation, if_neg hfound, if_pos hturn]
    rfl
  case freed =>
    have haddress : e.address = byteAt rec 4 := (station?_key he).2
    rw [← haddress] at he hturn ⊢
    have hnoTurn : ¬ ((s.finishAccess a).line n).turnTo e.address = true := fun h => by
      obtain ⟨x, hx, hstation⟩ := (turnTo_iff _ _).1 h
      exact hturn x hx hstation
    obtain ⟨u, hdetach, hfreed⟩ := detach_of_noTurn (s := s.finishAccess a) hn haddress he hnoTurn
    have hgone := hfreed.gone
    obtain ⟨hcontrol, hsq, hcq, hbq, her, -⟩ := (hgone.settling.trans (settling_completeAdmin n u (halfAt rec 2) .ok e.address 0)).trans
      (settling_settleHeld n _) |>.device
    have hothers := ((hgone.settling.trans (settling_completeAdmin n u (halfAt rec 2) .ok e.address 0)).trans
      (settling_settleHeld n _)).others
    have hslots : ∀ k, ((u.completeAdmin (halfAt rec 2) .ok e.address 0).settleHeld n).request? n k = u.request? n k :=
      request?_congr (by rw [pool_settleHeld]; rfl)
    rw [hdetach] at hrun
    refine ⟨_, hrun, ?absent, ?admin, fun hnone => ?kept, fun k hk r hr hopen hkept => ?detached,
      fun x k rest r d hrunning hretry hslot hstation hlist hr hstate hdeadline hle => ?timedOut,
      fun x hretry hstation => ⟨?retry, ?reserved, fun k r hslot hr hopen => ?slot⟩, fun first hnodup hfirst => ?order,
      fun pre post y prev moved hring hy hpre hprev hmoved => ?cursors, ?offered, ?addresses, hcontrol, hsq, hcq, hbq, her, hothers⟩
    case absent => rw [station?_settleHeld, station?_completeAdmin]; exact hgone.absent
    case admin => rw [admin_settleHeld]; rfl
    case kept => rw [sched_settleHeld]; exact hfreed.kept fun x hx => hnone x hx.1 hx.2
    case detached => rw [hslots]; exact hfreed.detached k hk r hr hopen fun x hx => hkept x hx.1 hx.2
    case timedOut =>
      have htimes : (s.finishAccess a).TimesOut n x k :=
        ⟨hrunning, e, r, d, entryOf_of_station hstation he, by rw [hlist]; rfl, hr, hstate, hdeadline, hle⟩
      rw [hslots]
      exact hfreed.timedOut x k r ⟨hretry, hstation⟩ hslot htimes hr
    case retry => rw [sched_settleHeld]; exact (hfreed.retry x ⟨hretry, hstation⟩).1
    case reserved => rw [buf_settleHeld]; exact (hfreed.retry x ⟨hretry, hstation⟩).2.1
    case slot => rw [hslots]; exact (hfreed.retry x ⟨hretry, hstation⟩).2.2 k r hslot hr hopen
    case order =>
      have hsame : first = (s.finishAccess a).retryFirst n e := by
        rw [hfirst, State.retryFirst, show ((s.finishAccess a).line n).sched.retry = (s.line n).sched.retry from rfl]
        cases (s.line n).sched.retry with
        | none => rfl
        | some x =>
          refine if_congr Iff.rfl (List.filter_congr fun k _ => ?_) rfl
          rw [show (s.finishAccess a).request? n k = s.request? n k from rfl]
          cases s.request? n k <;> rfl
      rw [pool_settleHeld, hsame]
      refine (hfreed.order hnodup).trans (congrArg _ (List.filter_congr fun k _ => ?_))
      rw [show (s.finishAccess a).request? n k = s.request? n k from rfl]
      cases s.request? n k <;> rfl
    case cursors =>
      have hsched := hgone.sched
      rw [show (s.finishAccess a).ring n = pre ++ y :: post from hring, leaving_at hy hpre, ← hprev] at hsched
      rw [sched_settleHeld, hmoved]
      cases prev <;> exact hsched
    case offered =>
      exact offered_settleHeld (records := []) (w := u.completeAdmin (halfAt rec 2) .ok e.address 0) hgone.settling.device.1
        hgone.settling.device.2.2.2.2.1 hgone.settling.device.2.2.1 hgone.held hgone.events
    case addresses => rw [ring_settleHeld]; exact hgone.addresses

end Sys2Proof.Machine

/-! CANCEL: the search, and the request ended at once (11.1, R24, R175 to R177). -/

namespace Sys2Proof.Machine

/-! ### The search (R175) -/

section
variable {s : State} {n : LineNo} {rec : List Byte} {k : SlotNo} {r : Request} {urgent done : Bool} {tag : Half}

theorem mem_matching {l : Line} : (k, r) ∈ l.matching urgent tag done
    ↔ l.held? k = some r ∧ r.urgent = urgent ∧ r.tag = tag ∧ decide (r.state = .done) = done := by
  unfold Line.matching
  rw [List.mem_filterMap]
  constructor
  · rintro ⟨j, -, hj⟩
    cases hr : l.held? j with
    | none => simp [hr] at hj
    | some q =>
      simp only [hr, Option.ite_none_right_eq_some, Option.some.injEq, Prod.mk.injEq] at hj
      obtain ⟨hq, rfl, rfl⟩ := hj
      exact ⟨hr, hq⟩
  · rintro ⟨hr, hq⟩
    exact ⟨k, List.mem_finRange k, by simp [hr, hq]⟩

theorem mem_of_earliest {p : SlotNo × Request} : ∀ {ps : List (SlotNo × Request)}, earliest ps = some p → p ∈ ps := by
  intro ps
  induction ps with
  | nil => exact fun h => by cases h
  | cons q qs ih =>
    intro h
    cases hrest : earliest qs with
    | none =>
      simp only [earliest, hrest, Option.some.injEq] at h
      exact h ▸ List.mem_cons_self
    | some w =>
      simp only [earliest, hrest] at h
      split at h
      · cases h; exact List.mem_cons_of_mem _ (ih hrest)
      · cases h; exact List.mem_cons_self

/-- R175: the one taken earliest, when no other was taken as early. -/
theorem earliest_eq {p : SlotNo × Request} : ∀ {ps : List (SlotNo × Request)}, p ∈ ps →
    (∀ q ∈ ps, q ≠ p → p.2.takeNo < q.2.takeNo) → earliest ps = some p := by
  intro ps
  induction ps with
  | nil => exact fun h => (List.not_mem_nil h).elim
  | cons q qs ih =>
    intro hp hfirst
    have hlater : ∀ w ∈ qs, w ≠ p → p.2.takeNo < w.2.takeNo := fun w hw => hfirst w (List.mem_cons_of_mem q hw)
    by_cases hin : p ∈ qs
    · rw [earliest, ih hin hlater]
      by_cases hq : q = p
      · subst hq; exact if_neg (Nat.lt_irrefl _)
      · exact if_pos (hfirst q List.mem_cons_self hq)
    · obtain rfl : p = q := (List.mem_cons.1 hp).resolve_right hin
      cases hrest : earliest qs with
      | none => rw [earliest, hrest]
      | some w =>
        have hw := mem_of_earliest hrest
        rw [earliest, hrest]
        exact if_neg (Nat.not_lt.2 (Nat.le_of_lt (hlater w hw fun h => hin (h ▸ hw))))

end

/-- The requests CANCEL looks for (R175). -/
def sought (rec : List Byte) (r : Request) : Bool :=
  decide (r.urgent = decide ((byteAt rec 6).toNat % 2 = 1)) && decide (r.tag = halfAt rec 16)

section
variable {s : State} {n : LineNo} {rec : List Byte} {k : SlotNo} {r : Request} {done : Bool}

theorem mem_sought : (k, r) ∈ (s.line n).matching (targetUrgent rec) (adminTargetTag rec) done
    ↔ s.request? n k = some r ∧ sought rec r = true ∧ decide (r.state = .done) = done := by
  rw [mem_matching, sought, Bool.and_eq_true, decide_eq_true_iff, decide_eq_true_iff, and_assoc]
  rfl

theorem targetLine_of_byte (hn : ((byteAt rec 6).toNat - 1) / 2 = n.val) :
    targetLine rec = n := by
  refine Fin.ext ?_
  change ((byteAt rec 6).toNat - 1) / 2 % 4 = n.val
  have := n.isLt
  omega

/-- R175: the request found. -/
theorem cancel_of_found (hn : targetLine rec = n) (hr : s.request? n k = some r) (hsought : sought rec r = true)
    (hopen : r.state ≠ .done)
    (hfirst : ∀ j q, s.request? n j = some q → sought rec q = true → q.state ≠ .done → j ≠ k → r.takeNo < q.takeNo) :
    s.cancel rec = s.cancelFound n k r (halfAt rec 2) := by
  have hfound : earliest ((s.line n).matching (targetUrgent rec) (adminTargetTag rec) false) = some (k, r) := by
    refine earliest_eq (mem_sought.2 ⟨hr, hsought, decide_eq_false hopen⟩) fun ⟨j, q⟩ hq hne => ?_
    obtain ⟨hq, hsought', hopen'⟩ := mem_sought.1 hq
    refine hfirst j q hq hsought' (of_decide_eq_false hopen') fun hj => hne ?_
    subst hj
    cases hr.symm.trans hq
    rfl
  rw [State.cancel, hn, hfound]
  rfl

/-- R175: only DONE requests match, or none. -/
theorem cancel_of_noneOpen (hn : targetLine rec = n)
    (hdone : ∀ k r, s.request? n k = some r → sought rec r = true → r.state = .done) :
    ((∃ k r, s.request? n k = some r ∧ sought rec r = true) → s.cancel rec = s.completeAdmin (halfAt rec 2) .tooLate 0 0)
    ∧ ((∀ k r, s.request? n k = some r → sought rec r = false) →
      s.cancel rec = s.completeAdmin (halfAt rec 2) .notFound 0 0) := by
  have hnone : (s.line n).matching (targetUrgent rec) (adminTargetTag rec) false = [] := by
    refine List.eq_nil_iff_forall_not_mem.2 fun ⟨k, r⟩ hmem => ?_
    obtain ⟨hr, hsought, hopen⟩ := mem_sought.1 hmem
    exact of_decide_eq_false hopen (hdone k r hr hsought)
  have hsearch : s.cancel rec = if ((s.line n).matching (targetUrgent rec) (adminTargetTag rec) true).isEmpty = true
      then s.completeAdmin (halfAt rec 2) .notFound 0 0 else s.completeAdmin (halfAt rec 2) .tooLate 0 0 := by
    rw [State.cancel, hn, hnone]
    rfl
  rw [hsearch]
  refine ⟨fun ⟨k, r, hr, hsought⟩ => if_neg ?_, fun h => if_pos ?_⟩
  · rw [List.isEmpty_iff]
    exact List.ne_nil_of_mem (mem_sought.2 ⟨hr, hsought, decide_eq_true (hdone k r hr hsought)⟩)
  · rw [List.isEmpty_iff]
    refine List.eq_nil_iff_forall_not_mem.2 fun ⟨k, r⟩ hmem => ?_
    obtain ⟨hr, hsought, -⟩ := mem_sought.1 hmem
    rw [h k r hr] at hsought
    cases hsought

end

/-! ### The flush behind a request cancelled (R24, R176) -/

section
variable {s v u : State} {n : LineNo} {a : Byte} {k : SlotNo}

theorem unlists_flushSlots (n : LineNo) : ∀ (ks : List SlotNo) (s : State), ∃ gone, State.Unlists n gone s (s.flushSlots n ks)
  | [], s => ⟨_, .refl n s⟩
  | k :: ks, s => by
    unfold State.flushSlots
    split
    · next r hr =>
      split_ifs with hflushed
      · obtain ⟨gone, hgone⟩ := unlists_flushSlots n ks (s.makeDone n k .offline id)
        exact ⟨_, (unlists_makeDone hr (Request.Flushed.open hflushed) .offline id).trans hgone⟩
      · exact ⟨_, .refl n s⟩
    · exact ⟨_, .refl n s⟩

theorem unlists_flushOffline (s : State) (n : LineNo) (a : Byte) : ∃ gone, State.Unlists n gone s (s.flushOffline n a) := by
  unfold State.flushOffline
  split
  · split
    · exact unlists_flushSlots n _ s
    · exact ⟨_, .refl n s⟩
  · exact ⟨_, .refl n s⟩

/-- R24 flushes nothing on an entry that is not OFFLINE, nor where there is none. -/
theorem flushOffline_of_online (h : ∀ e, s.station? n a = some e → e.liveness ≠ .offline) : s.flushOffline n a = s := by
  unfold State.flushOffline
  cases hentry : s.station? n a with
  | none => rfl
  | some e => exact if_neg (h e hentry)

/-- What the flush leaves behind slot `k`, as FlushedBehind words it; `v` is the state before it. -/
theorem flushed_behind {f : Station} {pre post : List SlotNo} (hoffline : f.liveness = .offline)
    (hlist : f.pending.filter (fun j => decide (j ≠ k)) = pre ++ post) (hnodup : (pre ++ post).Nodup)
    (hpre : ∀ j ∈ pre, ∃ r, s.request? n j = some r ∧ (r.kind = .send ∨ r.kind = .query) ∧ r.state = .waiting)
    (hpost : ∀ j rest, post = j :: rest → ∃ r, s.request? n j = some r ∧ r.kind = .resync ∧ r.state = .waiting)
    (hentry : v.station? n a = some { f with pending := f.pending.filter fun j => decide (j ≠ k) })
    (hkept : ∀ j, j ≠ k → v.request? n j = s.request? n j)
    (horder : (v.line n).pool.doneOrder = (s.line n).pool.doneOrder ++ [k])
    (hpool : (u.line n).pool = ((v.flushOffline n a).line n).pool)
    (hstation : u.station? n a = (v.flushOffline n a).station? n a) :
    (u.line n).pool.doneOrder = (s.line n).pool.doneOrder ++ [k] ++ pre ∧ u.station? n a = some { f with pending := post }
    ∧ (∀ j ∈ pre, ∀ r, s.request? n j = some r → u.request? n j = some (r.ended .offline))
    ∧ ∀ j r, j ∉ pre → j ≠ k → s.request? n j = some r → u.request? n j = some r := by
  have hmem : ∀ j ∈ pre ++ post, j ≠ k := fun j hj => by
    rw [← hlist] at hj; exact of_decide_eq_true (List.mem_filter.1 hj).2
  rw [hlist] at hentry
  have hended := endedEach_flushOffline hentry hoffline rfl hnodup
    (fun j hj => by
      obtain ⟨r, hr, hkind, hstate⟩ := hpre j hj
      exact ⟨r, (hkept j (hmem j (List.mem_append_left _ hj))).trans hr, hkind, .inl hstate⟩)
    (fun j hj r hr => by
      obtain ⟨rest, hrest⟩ : ∃ rest, post = j :: rest := List.head?_eq_some_iff.1 hj
      obtain ⟨q, hq, hkind, -⟩ := hpost j rest hrest
      rw [hkept j (hmem j (List.mem_append_right _ (List.mem_of_head? hj)))] at hr
      cases hq.symm.trans hr
      exact hkind)
  have hslots : ∀ j, u.request? n j = (v.flushOffline n a).request? n j := request?_congr (congrArg Pool.slots hpool)
  refine ⟨?order, hstation.trans (station?_flushOffline (f := { f with pending := pre ++ post }) hentry rfl hnodup hended), fun j hj r hr => ?ended,
    fun j r hj hk hr => ?kept⟩
  case order => rw [hpool, hended.order, horder]
  case ended =>
    rw [hslots]
    exact hended.ended j hj r ((hkept j (hmem j (List.mem_append_left _ hj))).trans hr)
  case kept => rw [hslots, hended.kept j hj, hkept j hk]; exact hr

theorem station?_makeDone_behind {r : Request} (hr : s.request? n k = some r) (hopen : r.state ≠ .done) (st : LineStatus)
    (f : Request → Request) {e : Station} (hentry : s.station? n a = some e) : (s.makeDone n k st f).station? n a
      = some { e with pending := e.pending.filter fun j => decide (j ≠ k) } := by
  rw [(unlists_makeDone hr hopen st f).station?, hentry, Option.map_some, Station.without]
  simp only [← decide_not]

end

end Sys2Proof.Machine

/-! CANCEL, settled (R24, R67, R69, R121, R175 to R177). -/

namespace Sys2Proof.Machine

section
variable {s : State} {n : LineNo} {x : Exchange} {st : LineStatus} {e : Station}

/-! ### An exchange reported abandoned changes its entry's step alone -/

theorem reportAbandoned_cases (s : State) (n : LineNo) (x : Exchange) : s.reportAbandoned n x = s
    ∨ ∃ e, s.entryOf n x = some e
      ∧ s.reportAbandoned n x = s.reported n e.address (x.abandons e) (abandonRecords n x e) := by
  cases h : s.entryOf n x with
  | none => exact .inl (reportAbandoned_of_none h)
  | some e => exact .inr ⟨e, rfl, reportAbandoned_of_entry h⟩

theorem line_reportAbandoned (s : State) (n : LineNo) (x : Exchange) (m : LineNo) :
    (s.reportAbandoned n x).line m = s.line m := by
  rcases reportAbandoned_cases s n x with h | ⟨e, -, h⟩ <;> rw [h]
  exact line_reported ..

theorem request?_reportAbandoned (s : State) (n : LineNo) (x : Exchange) (k : SlotNo) :
    (s.reportAbandoned n x).request? n k = s.request? n k :=
  request?_congr (by rw [line_reportAbandoned]) k

/-- The state once the retry `x` pending has been given up and reported (R93, R112). -/
def State.retryOver (s : State) (n : LineNo) (x : Exchange) (st : LineStatus) : State :=
  ((s.overRetry n x st).reportAbandoned n x).exchangeOver n x

theorem giveUpRetry_eq (h : (s.line n).sched.retry = some x) (st : LineStatus) :
    s.giveUpRetry n st true = (s.retryOver n x st).onLine n Line.unretried := giveUpRetry_reported h st

theorem line_retryOver : (s.retryOver n x st).line n = { s.line n with pool := ((s.retryOver n x st).line n).pool } := by
  have hover := (onlyRequests_exchangeOver ((s.overRetry n x st).reportAbandoned n x) n x).line
  rw [line_reportAbandoned, (onlyRequests_overRetry (s := s) (n := n) (x := x) (st := st)).line] at hover
  exact hover

theorem line_giveUpRetry (h : (s.line n).sched.retry = some x) (st : LineStatus) : (s.giveUpRetry n st true).line n
    = { (s.line n).unretried with pool := ((s.giveUpRetry n st true).line n).pool } := by
  rw [giveUpRetry_eq h, line_onLine, if_pos rfl, line_retryOver]
  rfl

theorem request?_giveUpRetry (h : (s.line n).sched.retry = some x) (st : LineStatus) (k : SlotNo) :
    (s.giveUpRetry n st true).request? n k = (s.retryOver n x st).request? n k := by
  rw [giveUpRetry_eq h, request?_unretried]

theorem grows_retryOver : State.Grows n (s.overRetry n x st) (s.retryOver n x st) :=
  (State.Grows.of_pool (by rw [line_reportAbandoned])).trans (grows_exchangeOver _ n x)

/-- R93: the request of the retry is over. -/
theorem request?_retryOver_self {k : SlotNo} {r : Request} (hslot : x.slot = some k) (hr : s.request? n k = some r)
    (hopen : r.state ≠ .done) : (s.retryOver n x st).request? n k = some ((x.unanswered r).ended st) :=
  grows_retryOver.done _ _ (request?_overRetry_self hslot hr hopen) rfl

end

/-! ### The retry to an entry given up (R67, R69, R121) -/

section
variable {s : State} {n : LineNo} {x : Exchange} {st : LineStatus} {e : Station} {k : SlotNo} {r : Request}

/-- The entry with what is left of its list, once the retry's request is over. -/
theorem station?_overRetry (hentry : s.station? n e.address = some e) (hslot : x.slot = some k) (hr : s.request? n k = some r)
    (hopen : r.state ≠ .done) : (s.overRetry n x st).station? n e.address
      = some { e with pending := e.pending.filter fun j => decide (j ≠ k) } := by
  rw [State.overRetry, hslot]
  exact station?_makeDone_behind hr hopen st _ hentry

theorem abandoned_overRetry (hstation : x.station = some e.address) (hentry : s.station? n e.address = some e) :
    (s.overRetry n x st).reportAbandoned n x
      = (s.overRetry n x st).reported n e.address (x.abandons e) (abandonRecords n x e) := by
  obtain ⟨p, hp⟩ := (onlyRequests_overRetry (st := st) (x := x)).entry _ _ hentry
  exact reportAbandoned_of_entry (e := { e with pending := p }) (entryOf_of_station hstation hp)

theorem entry_retryOver (hstation : x.station = some e.address) (hentry : s.station? n e.address = some e) :
    ∃ p, (s.retryOver n x st).station? n e.address = some { x.abandons e e with pending := p } := by
  obtain ⟨p, hp⟩ := (onlyRequests_overRetry (st := st) (x := x)).entry _ _ hentry
  have hreported := station?_reported_self (steady_abandons x e).key (abandonRecords n x e) hp
  rw [← abandoned_overRetry hstation hentry] at hreported
  exact (onlyRequests_exchangeOver _ n x).entry _ { x.abandons e e with pending := p } hreported

theorem events_retryOver (hstation : x.station = some e.address) (hentry : s.station? n e.address = some e) :
    (s.retryOver n x st).events = ((abandonRecords n x e).foldl State.offer s).events := by
  have honly : State.OnlyRequests n s (s.overRetry n x st) := onlyRequests_overRetry
  rw [State.retryOver, (onlyRequests_exchangeOver _ n x).events, abandoned_overRetry hstation hentry, reported_eq]
  exact events_foldl_offer_congr _ honly.control honly.er honly.events

/-- Everything else stands. -/
theorem requestsKept_retryOver (hslot : x.slot = some k) : State.RequestsKept n (some k) s (s.retryOver n x st) :=
  fun j q hj hq hstate => by
    have hsame : ((s.overRetry n x st).reportAbandoned n x).request? n j = some q := by
      rw [request?_reportAbandoned, request?_overRetry_of_ne fun hmem => ?_, hq]
      obtain ⟨hslot', -⟩ := mem_retrySlots.1 hmem
      exact hj (hslot.symm.trans hslot')
    rcases request?_exchangeOver (x := x) hsame with ⟨⟨-, -, r, -, -, -, hr, hanswering, -⟩, -⟩ | ⟨due, hdue, hkept⟩
    · cases hsame.symm.trans hr
      exact absurd hanswering hstate
    · rw [State.retryOver, hdue, hkept hstate]

/-- With nothing ANSWERING at the head of what is left, the exchange's end changes nothing more. -/
theorem retryOver_of_idle (hstation : x.station = some e.address) (hentry : s.station? n e.address = some e)
    (hslot : x.slot = some k) (hr : s.request? n k = some r) (hopen : r.state ≠ .done)
    (hidle : ∀ j, (e.pending.filter fun j => decide (j ≠ k)).head? = some j → ∃ q, s.request? n j = some q ∧ q.state = .waiting) :
    s.retryOver n x st = (s.overRetry n x st).reported n e.address (x.abandons e) (abandonRecords n x e) := by
  have hlist := station?_reported_self (steady_abandons x e).key (abandonRecords n x e)
    (station?_overRetry (st := st) hentry hslot hr hopen)
  rw [State.retryOver, abandoned_overRetry hstation hentry]
  rcases exchangeOver_cases ((s.overRetry n x st).reported n e.address (x.abandons e) (abandonRecords n x e)) n x with
    hsame | ⟨f, j, q, hfound, hhead, hstate, -⟩
  · exact hsame
  · obtain ⟨hj, hq⟩ := head?_eq_some.1 hhead
    obtain ⟨hx, hf⟩ := entryOf_eq_some hfound
    rw [← Option.some.inj (hstation.symm.trans hx)] at hf
    obtain rfl := Option.some.inj (hlist.symm.trans hf)
    obtain ⟨w, hw, hwaiting⟩ := hidle j hj
    have hjk : j ≠ k := of_decide_eq_true (List.mem_filter.1 (List.mem_of_head? hj)).2
    rw [request?_reported, request?_overRetry_of_ne fun hmem => ?_, hw] at hq
    · cases hq
      rw [hwaiting] at hstate
      cases hstate
    · obtain ⟨hslot', -⟩ := mem_retrySlots.1 hmem
      exact hjk (Option.some.inj (hslot'.symm.trans hslot))

/-- R97, R121: on a RUNNING device what is left of the list is settled. -/
theorem headSettled_retryOver {u : State} (hrunning : s.control.device = .running) (hstation : x.station = some e.address)
    (hentry : s.station? n e.address = some e) (hslot : x.slot = some k) (hr : s.request? n k = some r) (hopen : r.state ≠ .done)
    (hpool : (u.line n).pool = ((s.retryOver n x st).line n).pool) (hnow : u.now = s.now) :
    State.HeadSettled n e (some k) true s u := by
  have honly : State.OnlyRequests n s (s.overRetry n x st) := onlyRequests_overRetry
  have hreported := station?_reported_self (steady_abandons x e).key (abandonRecords n x e)
    (station?_overRetry (st := st) hentry hslot hr hopen)
  have hdone : s.overRetry n x st = s.makeDone n k st x.unanswered := by rw [State.overRetry, hslot]; rfl
  have hother : ∀ j, j ≠ k → (s.overRetry n x st).request? n j = s.request? n j := fun j hj => by
    rw [hdone, request?_makeDone, if_neg fun h => hj h.2]
  have hgone : ∀ j, some k ≠ some j ↔ j ≠ k := fun j => ⟨fun h h' => h (congrArg some h'.symm), fun h h' => h (Option.some.inj h').symm⟩
  have hrun : ((s.overRetry n x st).reported n e.address (x.abandons e) (abandonRecords n x e)).control.device = .running := by
    rw [reported_eq]; exact (congrArg Control.device honly.control).trans hrunning
  have hover : s.retryOver n x st = ((s.overRetry n x st).reported n e.address (x.abandons e) (abandonRecords n x e)).settleAnswering n x true := by
    rw [State.retryOver, abandoned_overRetry hstation hentry, exchangeOver_of_running hrun]
  rw [hover] at hpool
  refine headSettled_of (x := x) (v := (s.overRetry n x st).reported n e.address (x.abandons e) (abandonRecords n x e))
    (g := { x.abandons e e with pending := e.pending.filter fun j => decide (j ≠ k) }) hrun hstation hreported ?list
    (fun j q hj hq hstate => ?kept) (fun j q hj hq hstate hold => ?new) ?order ?spacing (fun j => ?slots) ?order' ?now
  case list => simp only [hgone]
  case kept =>
    have hjk : j ≠ k := of_decide_eq_true (List.mem_filter.1 (List.mem_of_head? hj)).2
    rw [request?_reported, hother j hjk]
    exact hq
  case new =>
    have hjk : j ≠ k := of_decide_eq_true (List.mem_filter.1 (List.mem_of_head? hj)).2
    rw [request?_reported, hother j hjk] at hq
    exact absurd hstate (hold q hq)
  case order => rw [line_reported, hdone, doneOrder_makeDone hr hopen]; rfl
  case spacing => rw [line_reported, honly.config]
  case slots => exact request?_congr (congrArg Pool.slots hpool) j
  case order' => rw [hpool]
  case now => rw [now_reported, honly.now]; exact hnow

end

end Sys2Proof.Machine

/-! CANCEL, settled: each of its ends (R24, R67, R69, R84, R121, R175 to R177). -/

namespace Sys2Proof.Machine

/-- R24, R176: a request cancelled at once, and the list of address `b` judged under R24. -/
def State.cancelled (s : State) (n : LineNo) (k : SlotNo) (b : Byte) : State :=
  (s.makeDone n k .cancelled id).flushOffline n b

/-- R24, R177: the retry pending given up, and the list of address `b` judged under R24. -/
def State.retryCancelled (s : State) (n : LineNo) (b : Byte) : State := (s.giveUpRetry n .cancelled true).flushOffline n b

section
variable {s : State} {n : LineNo} {a : Access} {rec : List Byte} {k : SlotNo} {r : Request} {x : Exchange} {tag : Half}

theorem exec_cancel (hawaits : s.AwaitsAdmin a 8 rec) (hfrom : 1 ≤ (byteAt rec 6).toNat) (hto : (byteAt rec 6).toNat ≤ 8) :
    exec (.cancel rec) s = .next ((s.finishAccess a).cancel rec) :=
  congrArg Host.Outcome.next
    (executed_of_awaitsAdmin hawaits (ok := fun _ => targetRingOk rec) ((targetRingOk_iff rec).2 (by omega)) _)

/-- R176, R177: which end the request found meets. -/
theorem cancelFound_waits (h : (r.state = .active ∧ (s.line n).retryServes k = false)
    ∨ (r.state = .answering ∧ (s.line n).storesAnswerOf k = true)) : s.cancelFound n k r tag = s.cancelWaits n k tag := by
  unfold State.cancelFound
  rcases h with ⟨hactive, hserves⟩ | hstores
  · rw [if_neg (by rw [hactive]; rintro ⟨h, -⟩; cases h), if_pos ⟨hactive, hserves⟩]
  · rw [if_pos hstores]

theorem cancelFound_now (hanswer : ¬ (r.state = .answering ∧ (s.line n).storesAnswerOf k = true))
    (hactive : ¬ (r.state = .active ∧ (s.line n).retryServes k = false)) :
    s.cancelFound n k r tag = s.cancelNow n k r tag := by
  rw [State.cancelFound, if_neg hanswer, if_neg hactive]

theorem cancelNow_plain (h : (s.line n).retryServes k = false) : s.cancelNow n k r tag
    = ((s.cancelled n k r.station).completeAdmin tag .ok 0 0).settleHeld n := by
  have hno : ¬ (s.line n).retryServes k = true := by rw [h]; exact Bool.false_ne_true
  rw [State.cancelNow, if_neg hno]
  rfl

theorem cancelNow_retry (hretry : (s.line n).sched.retry = some x) (hslot : x.slot = some k) : s.cancelNow n k r tag
    = ((s.retryCancelled n r.station).completeAdmin tag .ok 0 0).settleHeld n := by
  have hyes : (s.line n).retryServes k = true := by
    rw [Line.retryServes, hretry]
    exact decide_eq_true hslot
  rw [State.cancelNow, if_pos hyes]
  rfl

/-- What the completion and the held latch leave as it is. -/
theorem settling_completed (n : LineNo) (s : State) (tag : Half) :
    State.Settling n s ((s.completeAdmin tag .ok 0 0).settleHeld n) :=
  (settling_completeAdmin n s tag .ok 0 0).trans (settling_settleHeld n _)

theorem pool_completed (s : State) (n : LineNo) (tag : Half) :
    (((s.completeAdmin tag .ok 0 0).settleHeld n).line n).pool = (s.line n).pool := by
  rw [pool_settleHeld]; rfl

theorem station?_completed (s : State) (n : LineNo) (tag : Half) (b : Byte) :
    ((s.completeAdmin tag .ok 0 0).settleHeld n).station? n b = s.station? n b := by
  rw [station?_settleHeld, station?_completeAdmin]

theorem work_completed (s : State) (n : LineNo) (tag : Half) :
    ((s.completeAdmin tag .ok 0 0).settleHeld n).admin.work = .completing ⟨1, 0, tag, 0, 0, false, false, false, 0, 0⟩ := by
  rw [admin_settleHeld]; rfl

end

/-! ### A request cancelled at once, with no retry pending for it (R24, R176) -/

section
variable {s : State} {n : LineNo} {k : SlotNo} {r : Request}

theorem onlyRequests_cancelled (s : State) (n : LineNo) (k : SlotNo) (b : Byte) : State.OnlyRequests n s (s.cancelled n k b) :=
  (onlyRequests_makeDone n s k .cancelled id).trans (onlyRequests_flushOffline n _ b)

theorem request?_cancelled (hr : s.request? n k = some r) (hopen : r.state ≠ .done) (b : Byte) :
    (s.cancelled n k b).request? n k = some (r.ended .cancelled) :=
  (grows_flushOffline n _ b).done _ _ (request?_makeDone_self hr hopen .cancelled id) rfl

theorem doneOrder_cancelled (hr : s.request? n k = some r) (hopen : r.state ≠ .done) (b : Byte) :
    (s.line n).pool.doneOrder ++ [k] <+: ((s.cancelled n k b).line n).pool.doneOrder := by
  rw [← doneOrder_makeDone hr hopen .cancelled id]
  exact (grows_flushOffline n _ b).order

/-- It stands on no list any more. -/
theorem unlists_cancelled (hr : s.request? n k = some r) (hopen : r.state ≠ .done) (b : Byte) :
    k ∉ ((s.cancelled n k b).line n).pool.broadcast ∧ ∀ e ∈ (s.cancelled n k b).ring n, k ∉ e.pending := by
  obtain ⟨gone, hgone⟩ := unlists_flushOffline (s.makeDone n k .cancelled id) n b
  have hunlists := (unlists_makeDone hr hopen .cancelled id).trans hgone
  have hnot : ∀ ks : List SlotNo, k ∉ ks.filter fun j => !(decide (j = k) || gone j) := fun ks h => by
    simpa using (List.mem_filter.1 h).2
  rw [State.cancelled, hunlists.broadcast, hunlists.ring]
  refine ⟨hnot _, fun e he => ?_⟩
  obtain ⟨f, -, rfl⟩ := List.mem_map.1 he
  exact hnot _

/-- R24 flushes nothing unless the entry is OFFLINE. -/
theorem cancelled_of_online {b : Byte} (h : ∀ e, s.station? n b = some e → e.liveness ≠ .offline) :
    s.cancelled n k b = s.makeDone n k .cancelled id := by
  refine flushOffline_of_online fun e he => ?_
  cases hentry : s.station? n b with
  | none => rw [station?_makeDone_absent hentry] at he; cases he
  | some f =>
    obtain ⟨p, hp⟩ := station?_makeDone hentry k .cancelled id
    cases hp.symm.trans he
    exact h f hentry

theorem flushedBehind_cancelled {u : State} (hr : s.request? n k = some r) (hopen : r.state ≠ .done) {b : Byte}
    (hpool : (u.line n).pool = ((s.cancelled n k b).line n).pool) (hstation : u.station? n b = (s.cancelled n k b).station? n b) :
    State.FlushedBehind n b k s u := fun f pre post hf hoffline hlist hnodup hpre hpost =>
  flushed_behind hoffline hlist hnodup hpre hpost (station?_makeDone_behind hr hopen .cancelled id hf)
    (fun j hj => by rw [request?_makeDone, if_neg fun h => hj h.2]) (doneOrder_makeDone hr hopen .cancelled id) hpool hstation

end

/-! ### A request cancelled with its retry given up (R24, R67, R69, R121, R177) -/

section
variable {s : State} {n : LineNo} {k : SlotNo} {r : Request} {x : Exchange} {e : Station}

theorem settling_retryCancelled (s : State) (n : LineNo) (b : Byte) : State.Settling n s (s.retryCancelled n b) :=
  (settling_giveUpRetry n s .cancelled true).trans (settling_flushOffline n _ b)

theorem line_retryCancelled (hretry : (s.line n).sched.retry = some x) (b : Byte) : (s.retryCancelled n b).line n
    = { (s.line n).unretried with pool := ((s.retryCancelled n b).line n).pool } := by
  have hline := (onlyRequests_flushOffline n (s.giveUpRetry n .cancelled true) b).line
  rw [line_giveUpRetry hretry] at hline
  exact hline

theorem request?_retryCancelled (hretry : (s.line n).sched.retry = some x) (hslot : x.slot = some k)
    (hr : s.request? n k = some r) (hopen : r.state ≠ .done) (b : Byte) :
    (s.retryCancelled n b).request? n k = some ((x.unanswered r).ended .cancelled) :=
  (grows_flushOffline n _ b).done _ _
    ((request?_giveUpRetry hretry .cancelled k).trans (request?_retryOver_self hslot hr hopen)) rfl

theorem entry_retryCancelled (hretry : (s.line n).sched.retry = some x) (hstation : x.station = some e.address)
    (hentry : s.station? n e.address = some e) (b : Byte) :
    ∃ p, (s.retryCancelled n b).station? n e.address = some { x.abandons e e with pending := p } := by
  obtain ⟨p, hp⟩ := entry_retryOver (st := .cancelled) hstation hentry
  have hgiven : (s.giveUpRetry n .cancelled true).station? n e.address = some { x.abandons e e with pending := p } := by
    rw [giveUpRetry_eq hretry]; exact hp
  exact (onlyRequests_flushOffline n _ b).entry _ { x.abandons e e with pending := p } hgiven

theorem events_retryCancelled (hretry : (s.line n).sched.retry = some x) (hstation : x.station = some e.address)
    (hentry : s.station? n e.address = some e) (b : Byte) :
    (s.retryCancelled n b).events = ((abandonRecords n x e).foldl State.offer s).events := by
  rw [State.retryCancelled, (onlyRequests_flushOffline n _ b).events, giveUpRetry_eq hretry]
  exact events_retryOver hstation hentry

/-- R24 flushes nothing unless the entry is OFFLINE. -/
theorem retryCancelled_of_online (hretry : (s.line n).sched.retry = some x) (hstation : x.station = some e.address)
    (hentry : s.station? n e.address = some e) (hne : e.liveness ≠ .offline) :
    s.retryCancelled n e.address = (s.retryOver n x .cancelled).onLine n Line.unretried := by
  obtain ⟨p, hp⟩ := entry_retryOver (st := .cancelled) hstation hentry
  rw [State.retryCancelled, giveUpRetry_eq hretry]
  exact flushOffline_of_ne (e := { x.abandons e e with pending := p }) hp hne

theorem pool_unretried (s : State) (n : LineNo) : ((s.onLine n Line.unretried).line n).pool = (s.line n).pool := by
  rw [line_onLine, if_pos rfl]; rfl

theorem flushedBehind_retryCancelled {u : State} (hretry : (s.line n).sched.retry = some x) (hslot : x.slot = some k)
    (hr : s.request? n k = some r) (hopen : r.state ≠ .done) (hstation : x.station = some e.address)
    (hentry : s.station? n e.address = some e) (hpool : (u.line n).pool = ((s.retryCancelled n e.address).line n).pool)
    (hfound : u.station? n e.address = (s.retryCancelled n e.address).station? n e.address) :
    State.FlushedBehind n e.address k s u := by
  intro f pre post hf hoffline hlist hnodup hpre hpost
  cases hentry.symm.trans hf
  have hidle : ∀ j, (e.pending.filter fun j => decide (j ≠ k)).head? = some j →
      ∃ q, s.request? n j = some q ∧ q.state = .waiting := fun j hj => by
    rw [hlist] at hj
    cases pre with
    | nil =>
      obtain ⟨rest, hrest⟩ := List.head?_eq_some_iff.1 hj
      obtain ⟨q, hq, -, hwaiting⟩ := hpost j rest hrest
      exact ⟨q, hq, hwaiting⟩
    | cons i pre =>
      cases hj
      obtain ⟨q, hq, -, hwaiting⟩ := hpre j List.mem_cons_self
      exact ⟨q, hq, hwaiting⟩
  have hfree : x.abandons e e = e := by
    have hcosts : x.costs e = false := by
      rw [Bool.eq_false_iff]
      exact fun h => ((costs_iff x e).1 h).2.2.1 hoffline
    rw [Exchange.abandons, hcosts, Bool.or_false]
  have hover : s.retryOver n x .cancelled = (s.overRetry n x .cancelled).reported n e.address (x.abandons e) (abandonRecords n x e) :=
    retryOver_of_idle hstation hentry hslot hr hopen hidle
  have hbehind := station?_overRetry (st := .cancelled) hentry hslot hr hopen
  have hlisted : (s.giveUpRetry n .cancelled true).station? n e.address
      = some { e with pending := e.pending.filter fun j => decide (j ≠ k) } := by
    rw [giveUpRetry_eq hretry, station?_onLine, hover,
      station?_reported_self (steady_abandons x e).key (abandonRecords n x e) hbehind, (steady_abandons x e).pending, hfree]
  refine flushed_behind hoffline hlist hnodup hpre hpost hlisted (fun j hj => ?kept) ?order hpool hfound
  case kept =>
    rw [request?_giveUpRetry hretry, hover, request?_reported, request?_overRetry_of_ne fun hmem => ?_]
    obtain ⟨hslot', -⟩ := mem_retrySlots.1 hmem
    exact hj (Option.some.inj (hslot'.symm.trans hslot))
  case order =>
    rw [giveUpRetry_eq hretry, pool_unretried, hover, line_reported, State.overRetry, hslot]
    exact doneOrder_makeDone hr hopen .cancelled _

end

end Sys2Proof.Machine

/-! CANCEL: the statement (R175 to R177). -/

namespace Sys2Proof.Machine

/-- Settles O34 (R24, R67, R69, R84, R121, R146, R175 to R177). -/
theorem cancelEndsOneRequest : Obligations.CancelEndsOneRequest := by
  rintro s n a rec matches? hawaits hfrom hto hn rfl
  have hrun := exec_cancel hawaits hfrom hto
  have hline : targetLine rec = n := targetLine_of_byte hn
  refine ⟨fun hnone => ?notFound, fun hfound hdone => ?tooLate, fun k r hr hsought hopen hfirst => ?found⟩
  case notFound =>
    have hvacuous : ∀ k r, (s.finishAccess a).request? n k = some r → sought rec r = true → r.state = .done :=
      fun k r hr hsought => absurd hsought (by rw [show sought rec r = false from hnone k r hr]; exact Bool.false_ne_true)
    exact hrun.trans (congrArg Host.Outcome.next ((cancel_of_noneOpen hline hvacuous).2 hnone))
  case tooLate =>
    exact hrun.trans (congrArg Host.Outcome.next ((cancel_of_noneOpen (s := s.finishAccess a) hline hdone).1 hfound))
  case found =>
    have hfoundNow : (s.finishAccess a).cancel rec = (s.finishAccess a).cancelFound n k r (halfAt rec 2) :=
      cancel_of_found (s := s.finishAccess a) hline hr hsought hopen hfirst
    rw [hfoundNow] at hrun
    refine ⟨fun hwaits => ?waits, fun hstate hserves => ?now, fun x hretry hslot hstate => ?retry⟩
    case waits =>
      exact hrun.trans (congrArg Host.Outcome.next (cancelFound_waits (s := s.finishAccess a) hwaits))
    case now =>
      have hanswer : ¬ (r.state = .answering ∧ ((s.finishAccess a).line n).storesAnswerOf k = true) := by
        rintro ⟨hanswering, hstores⟩
        rcases hstate with hwaiting | ⟨-, hnot⟩
        · rw [hwaiting] at hanswering; cases hanswering
        · exact Bool.false_ne_true (hnot.symm.trans hstores)
      have hactive : ¬ (r.state = .active ∧ ((s.finishAccess a).line n).retryServes k = false) := by
        rintro ⟨hactive, -⟩
        rcases hstate with hwaiting | ⟨hanswering, -⟩
        · rw [hwaiting] at hactive; cases hactive
        · rw [hanswering] at hactive; cases hactive
      rw [cancelFound_now hanswer hactive, cancelNow_plain (s := s.finishAccess a) hserves] at hrun
      have honly := onlyRequests_cancelled (s.finishAccess a) n k r.station
      have hsettling := honly.settling.trans (settling_completed n ((s.finishAccess a).cancelled n k r.station) (halfAt rec 2))
      obtain ⟨hcontrol, hsq, hcq, hbq, her, -⟩ := hsettling.device
      have hpool := pool_completed ((s.finishAccess a).cancelled n k r.station) n (halfAt rec 2)
      have hlisted := unlists_cancelled (s := s.finishAccess a) hr hopen r.station
      have horder := doneOrder_cancelled (s := s.finishAccess a) hr hopen r.station
      refine ⟨_, hrun, ?request, ?order, ?broadcast, ?listed, ?offered, fun honline => ⟨?slots, ?orderOnline⟩, ?behind,
        work_completed .., hcontrol, hsq, hcq, hbq, her, hsettling.line.state, hsettling.others⟩
      case request =>
        exact (request?_congr (congrArg Pool.slots hpool) k).trans (request?_cancelled (s := s.finishAccess a) hr hopen r.station)
      case order =>
        rw [hpool]
        exact horder.subset (List.mem_append_right _ List.mem_cons_self)
      case broadcast =>
        rw [hpool]
        exact hlisted.1
      case listed => rw [ring_settleHeld]; exact hlisted.2
      case offered =>
        exact offered_settleHeld (records := []) (w := ((s.finishAccess a).cancelled n k r.station).completeAdmin (halfAt rec 2) .ok 0 0)
          honly.control honly.er honly.cq (congrArg PostingPath.held honly.post) honly.events
      case slots =>
        intro j hj
        have hsame := cancelled_of_online (s := s.finishAccess a) (k := k) honline
        rw [hpool, hsame]
        exact slotsKept_makeDone (s.finishAccess a) n k .cancelled id j hj
      case orderOnline =>
        have hsame := cancelled_of_online (s := s.finishAccess a) (k := k) honline
        rw [hpool, hsame]
        exact doneOrder_makeDone (s := s.finishAccess a) hr hopen .cancelled id
      case behind =>
        exact flushedBehind_cancelled (s := s.finishAccess a) hr hopen hpool (station?_completed ..)
    case retry =>
      have hanswer : ¬ (r.state = .answering ∧ ((s.finishAccess a).line n).storesAnswerOf k = true) := by
        rintro ⟨hanswering, hstores⟩
        rcases hstate with hactive | ⟨-, hnot⟩
        · rw [hactive] at hanswering; cases hanswering
        · exact Bool.false_ne_true (hnot.symm.trans hstores)
      have hactive : ¬ (r.state = .active ∧ ((s.finishAccess a).line n).retryServes k = false) := by
        rintro ⟨-, hserves⟩
        rw [Line.retryServes, show ((s.finishAccess a).line n).sched.retry = some x from hretry] at hserves
        exact of_decide_eq_false hserves hslot
      rw [cancelFound_now hanswer hactive, cancelNow_retry (s := s.finishAccess a) hretry hslot] at hrun
      have hsettling := (settling_retryCancelled (s.finishAccess a) n r.station).trans
        (settling_completed n ((s.finishAccess a).retryCancelled n r.station) (halfAt rec 2))
      obtain ⟨hcontrol, hsq, hcq, hbq, her, -⟩ := hsettling.device
      have hpool := pool_completed ((s.finishAccess a).retryCancelled n r.station) n (halfAt rec 2)
      have hlineOf := line_retryCancelled (s := s.finishAccess a) hretry r.station
      refine ⟨_, hrun, ?request, ?retryNone, ?reserved, fun e hstation hrequest hentry => ?entry, work_completed .., hcontrol, hsq,
        hcq, hbq, her, hsettling.line.state, hsettling.others⟩
      case request =>
        exact (request?_congr (congrArg Pool.slots hpool) k).trans
          (request?_retryCancelled (s := s.finishAccess a) hretry hslot hr hopen r.station)
      case retryNone => rw [sched_settleHeld]; exact congrArg (fun l => l.sched.retry) hlineOf
      case reserved => rw [buf_settleHeld]; exact congrArg (fun l => l.buf.reserved) hlineOf
      case entry =>
        rw [hrequest] at hpool ⊢
        obtain ⟨p, hp⟩ := entry_retryCancelled (s := s.finishAccess a) hretry hstation hentry e.address
        have hevents := events_retryCancelled (s := s.finishAccess a) hretry hstation hentry e.address
        have hpoolOnline : e.liveness ≠ .offline →
            (((((s.finishAccess a).retryCancelled n e.address).completeAdmin (halfAt rec 2) .ok 0 0).settleHeld n).line n).pool
              = (((s.finishAccess a).retryOver n x .cancelled).line n).pool := fun honline => by
          rw [hpool, retryCancelled_of_online (s := s.finishAccess a) hretry hstation hentry honline, pool_unretried]
        have hhere := settling_retryCancelled (s.finishAccess a) n e.address
        have hoffered : State.Offered n (abandonRecords n x e) s _ :=
          offered_settleHeld (w := ((s.finishAccess a).retryCancelled n e.address).completeAdmin (halfAt rec 2) .ok 0 0)
            hhere.device.1 hhere.device.2.2.2.2.1 hhere.device.2.2.1
            (congrArg (fun l => l.post.held) (line_retryCancelled (s := s.finishAccess a) hretry e.address))
            (hevents.trans (events_foldl_offer_congr _ rfl rfl rfl))
        refine ⟨fun hcosts => ⟨⟨p, ?lost⟩, ?lostRecord⟩, fun hfree => ⟨⟨p, ?stays⟩, ?noRecord⟩, fun honline => ⟨?kept, fun hrunning => ?head⟩,
          flushedBehind_retryCancelled (s := s.finishAccess a) hretry hslot hr hopen hstation hentry hpool (station?_completed ..)⟩
        case lost =>
          rw [Exchange.abandons, (costs_iff x e).2 hcosts, Bool.or_true] at hp
          exact (station?_completed ..).trans hp
        case lostRecord =>
          rw [abandonRecords, if_pos ((costs_iff x e).2 hcosts)] at hoffered
          exact hoffered
        case stays =>
          rw [Exchange.abandons, Bool.eq_false_iff.2 (mt (costs_iff x e).1 hfree), Bool.or_false] at hp
          exact (station?_completed ..).trans hp
        case noRecord =>
          rw [abandonRecords, if_neg (mt (costs_iff x e).1 hfree)] at hoffered
          exact hoffered
        case kept =>
          intro j q hj hq hne
          exact (request?_congr (congrArg Pool.slots (hpoolOnline honline)) j).trans
            (requestsKept_retryOver (s := s.finishAccess a) (st := .cancelled) hslot j q hj hq hne)
        case head =>
          exact headSettled_retryOver (s := s.finishAccess a) (st := .cancelled) hrunning hstation hentry hslot hr hopen
            (hpoolOnline honline) (hhere.trans (settling_completed n _ (halfAt rec 2))).now

end Sys2Proof.Machine

/-! The rules behind LINE_RESET, LINE_DISABLE and STOP: lists ended whole, entries resynchronised, the cache drained (R81, R122,
R167, R169, R178 to R180). -/

namespace Sys2Proof.Machine

section
variable {s t u : State} {n : LineNo} {st : LineStatus}

/-! ### Whole lists ended -/

/-- The slots `first` have become DONE and left the lists; what else waits, waits still. -/
structure State.FirstMade (n : LineNo) (st : LineStatus) (first : List SlotNo) (s t : State) : Prop where
  made : State.Made n st first s t
  listed : t.listed n = (s.listed n).filter fun j => decide (j ∉ first)
  pends : ∀ j, j ∉ first → (t.request? n j).any Request.pends = (s.request? n j).any Request.pends

theorem request?_endAll (s : State) (n : LineNo) (st : LineStatus) (ks : List SlotNo) (j : SlotNo) :
    (s.endAll n st ks).request? n j
      = if j ∈ ks then (s.request? n j).map fun r => if r.pends then r.ended st else r else s.request? n j := by
  rw [endAll_eq_endEach]
  exact request?_endEach onlyOpen_pends ks s j

theorem unlists_endAll (s : State) (n : LineNo) (st : LineStatus) (ks : List SlotNo) :
    State.Unlists n (fun j => decide (j ∈ ks) && (s.request? n j).any Request.pends) s (s.endAll n st ks) := by
  rw [endAll_eq_endEach]
  exact unlists_endEach onlyOpen_pends ks s

/-- R178: in the order of the lists, behind those made DONE first. -/
theorem State.FirstMade.doneOrder {first : List SlotNo} (h : State.FirstMade n st first s t) (hnodup : (s.listed n).Nodup) :
    ((t.endAll n st (t.listed n)).line n).pool.doneOrder = (s.line n).pool.doneOrder ++ (first
      ++ (s.listed n).filter fun k => !first.contains k && (s.slotIs n k .waiting || s.slotIs n k .answering)) := by
  have hlist : (t.listed n).filter (fun k => (t.request? n k).any Request.pends)
      = (s.listed n).filter fun k => !first.contains k && (s.slotIs n k .waiting || s.slotIs n k .answering) := by
    rw [h.listed, List.filter_filter]
    refine List.filter_congr fun k _ => ?_
    by_cases hk : k ∈ first
    · simp [hk]
    · rw [h.pends k hk, pends_eq]
      simp [hk]
  rw [endAll_eq_endEach, doneOrder_endEach onlyOpen_pends _ _ (h.listed ▸ hnodup.filter _), hlist, h.made.order, List.append_assoc]

theorem made_endAll (s : State) (n : LineNo) (st : LineStatus) (ks : List SlotNo) :
    ∃ made, State.Made n st made s (s.endAll n st ks) := by
  rw [endAll_eq_endEach]
  exact made_endEach onlyOpen_pends ks s

/-- A listed request that waits is DONE with `st` afterwards, ended first or with the lists. -/
theorem State.FirstMade.ended {first : List SlotNo} (h : State.FirstMade n st first s t) {k : SlotNo} (hk : k ∈ s.listed n)
    (hpends : (s.request? n k).any Request.pends = true) :
    ∃ q, (t.endAll n st (t.listed n)).request? n k = some q ∧ q.state = .done ∧ q.outcome = some st := by
  by_cases hfirst : k ∈ first
  case pos =>
    obtain ⟨-, q, hq, hdone⟩ := (h.made.mem k).1 hfirst
    obtain ⟨q', hq', hst⟩ := h.made.outcome k hfirst
    cases hq.symm.trans hq'
    exact ⟨q, (grows_endAll n t st _).done k q hq hdone, hdone, hst⟩
  case neg =>
    have hlisted : k ∈ t.listed n := by
      rw [h.listed]
      exact List.mem_filter.2 ⟨hk, decide_eq_true hfirst⟩
    rw [← h.pends k hfirst] at hpends
    obtain ⟨r, hr, hrp⟩ := (Option.any_eq_true _ _).1 hpends
    refine ⟨r.ended st, ?_, rfl, rfl⟩
    rw [request?_endAll, if_pos hlisted, hr, Option.map_some, if_pos hrp]

/-- A request ended first stays as it then is. -/
theorem State.Made.mem_iff {made : List SlotNo} (h : State.Made n st made s t) (k : SlotNo) :
    k ∈ made ↔ (∃ r, s.request? n k = some r ∧ r.state ≠ .done)
      ∧ ∃ q, t.request? n k = some q ∧ q.state = .done ∧ q.outcome = some st := by
  constructor
  · intro hk
    obtain ⟨hopen, q, hq, hdone⟩ := (h.mem k).1 hk
    obtain ⟨q', hq', hst⟩ := h.outcome k hk
    cases hq.symm.trans hq'
    exact ⟨hopen, q, hq, hdone, hst⟩
  · rintro ⟨hopen, q, hq, hdone, -⟩
    exact (h.mem k).2 ⟨hopen, q, hq, hdone⟩

theorem State.Made.of_pool_right {made : List SlotNo} (h : State.Made n st made s t) (hpool : (u.line n).pool = (t.line n).pool) :
    State.Made n st made s u := by
  have := h.trans (.of_pool (st := st) hpool)
  rwa [List.append_nil] at this

/-! ### Entries that take the resynchronising values (R81) -/

theorem ring_resyncLine (s : State) (n : LineNo) : (s.resyncLine n).ring n = (s.ring n).map Station.resync := by
  unfold State.ring State.resyncLine
  rw [List.filter_map]
  have hline : ((fun e : Station => decide (e.line = n)) ∘ fun e : Station => if e.line = n then e.resync else e)
      = fun e => decide (e.line = n) := by
    funext e
    by_cases he : e.line = n
    · simp [he, Station.resync]
    · simp [he]
  rw [hline]
  exact List.map_congr_left fun e he => if_pos (of_decide_eq_true (List.mem_filter.1 he).2)

/-- The entries of line `n` differ only in what the resynchronising values replace. -/
def State.SameResync (n : LineNo) (s t : State) : Prop := (t.ring n).map Station.resync = (s.ring n).map Station.resync

theorem State.Unlists.sameResync {gone : SlotNo → Bool} (h : State.Unlists n gone s t) : State.SameResync n s t := by
  unfold State.SameResync
  rw [h.ring, List.map_map]
  rfl

theorem ring_onStation (s : State) (n : LineNo) (a : Byte) (f : Station → Station) (hf : ∀ e, (f e).key = e.key) :
    (s.onStation n a f).ring n = (s.ring n).map fun e => if e.address = a then f e else e := by
  unfold State.ring State.onStation
  rw [List.filter_map]
  have hline : ((fun e : Station => decide (e.line = n)) ∘ fun e : Station => if e.line = n ∧ e.address = a then f e else e)
      = fun e => decide (e.line = n) := by
    funext e
    have hkey : (f e).line = e.line := congrArg Prod.fst (hf e)
    by_cases he : e.line = n ∧ e.address = a
    · simp [he, hkey]
    · simp [he]
  rw [hline]
  refine List.map_congr_left fun e he => ?_
  have hn : e.line = n := of_decide_eq_true (List.mem_filter.1 he).2
  simp only [hn, true_and]

theorem ring_reported (s : State) (n : LineNo) (a : Byte) (f : Station → Station) (rs : List EventRecord)
    (hf : ∀ e, (f e).key = e.key) :
    (s.reported n a f rs).ring n = (s.ring n).map fun e => if e.address = a then f e else e := by
  rw [reported_eq]
  exact ring_onStation s n a f hf

theorem sameResync_reportAbandoned (s : State) (n : LineNo) (x : Exchange) : State.SameResync n s (s.reportAbandoned n x) := by
  rcases reportAbandoned_cases s n x with h | ⟨e, -, h⟩
  · rw [h]; rfl
  · unfold State.SameResync
    rw [h, ring_reported _ _ _ _ _ (steady_abandons x e).key, List.map_map]
    refine List.map_congr_left fun y _ => ?_
    rw [Function.comp_apply]
    split <;> rfl

theorem listed_reportAbandoned (s : State) (n : LineNo) (x : Exchange) : (s.reportAbandoned n x).listed n = s.listed n := by
  unfold State.listed
  rw [line_reportAbandoned]
  rcases reportAbandoned_cases s n x with h | ⟨e, -, h⟩
  · rw [h]
  · rw [h, ring_reported _ _ _ _ _ (steady_abandons x e).key, List.flatMap_map]
    congr 1
    refine List.flatMap_congr fun y _ => ?_
    split <;> rfl

/-- R67: what the report of an exchange abandoned offers. -/
theorem events_reportAbandoned (s : State) (n : LineNo) (x : Exchange) : (s.reportAbandoned n x).events
    = (((s.entryOf n x).elim [] fun e => abandonRecords n x e).foldl State.offer s).events := by
  cases h : s.entryOf n x with
  | none => rw [reportAbandoned_of_none h]; rfl
  | some e => rw [reportAbandoned_of_entry h, reported_eq]; rfl

theorem admin_reportAbandoned (s : State) (n : LineNo) (x : Exchange) : (s.reportAbandoned n x).admin = s.admin := by
  rcases reportAbandoned_cases s n x with h | ⟨e, -, h⟩
  · rw [h]
  · rw [h, reported_eq]; rfl

theorem port_reportAbandoned (s : State) (n : LineNo) (x : Exchange) : (s.reportAbandoned n x).port = s.port := by
  rcases reportAbandoned_cases s n x with h | ⟨e, -, h⟩
  · rw [h]
  · rw [h, reported_eq]; rfl

/-! ### The held latch and the cache at a teardown -/

theorem line_settleHeld (s : State) (n : LineNo) : ∃ b, (s.settleHeld n).line n = (s.line n).latched b := by
  unfold State.settleHeld
  split
  · exact ⟨false, by rw [line_onLine, if_pos rfl]; rfl⟩
  · split
    · exact ⟨true, by rw [line_offer, line_onLine, if_pos rfl]; rfl⟩
    · exact ⟨(s.line n).post.held, rfl⟩

/-- A line that cannot start a turn offers no LINE_HELD. -/
theorem events_settleHeld (h : s.isHeld n = false) : (s.settleHeld n).events = s.events := by
  unfold State.settleHeld
  split
  · rfl
  · rw [h, Bool.false_and, if_neg Bool.false_ne_true]

theorem not_isHeld_of_resetting (h : s.resetting n = true) : s.isHeld n = false := by
  rw [State.isHeld, State.mayStart, h]
  simp

/-- R169: the line with its cache drained. -/
def Line.cacheDrained (l : Line) : Line := { l with buf := { l.buf with cache := [], reserved := false } }

theorem drainCache_eq (h : (s.line n).turn? = none) : s.drainCache n
    = if s.control.device = .stopping ∧ (s.line n).buf.reading = none then s.onLine n Line.cacheDrained else s := by
  unfold State.drainCache State.stopping
  rw [h]
  by_cases hstopping : s.control.device = .stopping
  · cases hreading : (s.line n).buf.reading with
    | none => simp only [hstopping]; rfl
    | some b => simp [hstopping]
  · simp [hstopping]

end

end Sys2Proof.Machine

/-! LINE_RESET: the take, and its completion (6.4, 11.2, R122, R178, R179). -/

namespace Sys2Proof.Machine

/-! ### The abandoned exchange (R67, R178) -/

/-- R178: a request in the hands of the exchange. -/
def Request.inHand (r : Request) : Bool := decide (r.state = .active) || decide (r.state = .answering)

theorem onlyOpen_inHand : OnlyOpen Request.inHand := fun r h hdone => by
  rw [Request.inHand, hdone] at h
  cases h

/-- R178: delivery_unknown when a SELECT or a BROADCAST of the exchange reached the wire. -/
def Exchange.aborted (x : Exchange) (r : Request) : Request :=
  { r with deliveryUnknown := r.deliveryUnknown || (x.sent && (decide (x.frame = .select) || decide (x.frame = .broadcast))) }

section
variable {s : State} {n : LineNo} {x : Exchange} {k : SlotNo} {r : Request}

theorem inHand_eq (s : State) (n : LineNo) (k : SlotNo) :
    (s.slotIs n k .active || s.slotIs n k .answering) = (s.request? n k).any Request.inHand := by
  rw [slotIs_eq, slotIs_eq]
  cases s.request? n k <;> rfl

theorem abortExchange_eq (s : State) (n : LineNo) (x : Exchange) :
    s.abortExchange n x = s.endSlot n x.slot Request.inHand .aborted x.aborted := by
  unfold State.abortExchange State.endSlot
  cases x.slot with
  | none => rfl
  | some k => simp only [inHand_eq, Option.elim_some]; rfl

/-- R178: the exchange, if there is one, abandoned and reported. -/
def State.exchangeAbandoned (s : State) (n : LineNo) : State :=
  match (s.line n).exchange? with
  | some x => (s.abortExchange n x).reportAbandoned n x
  | none => s

/-- R178: the slot it makes DONE. -/
def State.abandonedSlots (s : State) (n : LineNo) : List SlotNo :=
  ((s.line n).exchange?).elim [] fun x => s.slotEnding n x.slot Request.inHand

theorem exchangeAbandoned_of_none (h : (s.line n).exchange? = none) : s.exchangeAbandoned n = s := by
  rw [State.exchangeAbandoned, h]

theorem exchangeAbandoned_of_some (h : (s.line n).exchange? = some x) :
    s.exchangeAbandoned n = (s.abortExchange n x).reportAbandoned n x := by
  rw [State.exchangeAbandoned, h]

theorem abandonedSlots_of_none (h : (s.line n).exchange? = none) : s.abandonedSlots n = [] := by
  rw [State.abandonedSlots, h]; rfl

theorem abandonedSlots_of_some (h : (s.line n).exchange? = some x) :
    s.abandonedSlots n = s.slotEnding n x.slot Request.inHand := by
  rw [State.abandonedSlots, h]; rfl

theorem onlyRequests_abortExchange : State.OnlyRequests n s (s.abortExchange n x) := by
  rw [abortExchange_eq]; exact onlyRequests_endSlot ..

theorem firstMade_exchangeAbandoned (s : State) (n : LineNo) :
    State.FirstMade n .aborted (s.abandonedSlots n) s (s.exchangeAbandoned n) := by
  cases h : (s.line n).exchange? with
  | none =>
    rw [abandonedSlots_of_none h, exchangeAbandoned_of_none h]
    exact ⟨.refl n .aborted s, by simp, fun _ _ => rfl⟩
  | some x =>
    rw [abandonedSlots_of_some h, exchangeAbandoned_of_some h, abortExchange_eq]
    refine ⟨?made, ?listed, fun j hj => ?pends⟩
    case made => exact (made_endSlot onlyOpen_inHand x.slot x.aborted).of_pool_right (by rw [line_reportAbandoned])
    case listed =>
      rw [listed_reportAbandoned, (unlists_endSlot onlyOpen_inHand x.slot x.aborted).listed]
      simp only [← decide_not]
    case pends => rw [request?_reportAbandoned, request?_endSlot_of_ne hj]

theorem sameResync_exchangeAbandoned (s : State) (n : LineNo) : State.SameResync n s (s.exchangeAbandoned n) := by
  cases h : (s.line n).exchange? with
  | none => rw [exchangeAbandoned_of_none h]; rfl
  | some x =>
    rw [exchangeAbandoned_of_some h, abortExchange_eq]
    exact (sameResync_reportAbandoned ..).trans (unlists_endSlot onlyOpen_inHand x.slot x.aborted).sameResync

theorem line_exchangeAbandoned (s : State) (n : LineNo) : (s.exchangeAbandoned n).line n
    = { s.line n with pool := ((s.exchangeAbandoned n).line n).pool } := by
  cases h : (s.line n).exchange? with
  | none => rw [exchangeAbandoned_of_none h]
  | some x =>
    rw [exchangeAbandoned_of_some h, line_reportAbandoned]
    exact onlyRequests_abortExchange.line

theorem settling_exchangeAbandoned (s : State) (n : LineNo) : State.Settling n s (s.exchangeAbandoned n)
    ∧ (s.exchangeAbandoned n).admin = s.admin ∧ (s.exchangeAbandoned n).port = s.port := by
  cases h : (s.line n).exchange? with
  | none => rw [exchangeAbandoned_of_none h]; exact ⟨.refl n s, rfl, rfl⟩
  | some x =>
    have honly : State.OnlyRequests n s (s.abortExchange n x) := onlyRequests_abortExchange
    rw [exchangeAbandoned_of_some h]
    exact ⟨honly.settling.trans (settling_reportAbandoned n _ x), (admin_reportAbandoned ..).trans honly.admin,
      (port_reportAbandoned ..).trans honly.port⟩

theorem request?_exchangeAbandoned (h : (s.line n).exchange? = some x) (hslot : x.slot = some k) (hr : s.request? n k = some r)
    (hhand : r.inHand = true) : (s.exchangeAbandoned n).request? n k = some ((x.aborted r).ended .aborted) := by
  rw [exchangeAbandoned_of_some h, request?_reportAbandoned, abortExchange_eq]
  exact request?_endSlot_self hslot hr onlyOpen_inHand hhand x.aborted

theorem events_exchangeAbandoned (s : State) (n : LineNo) :
    (((s.line n).exchange? = none → (s.exchangeAbandoned n).events = s.events))
    ∧ ∀ x e, (s.line n).exchange? = some x → s.entryOf n x = some e →
      (s.exchangeAbandoned n).events = ((abandonRecords n x e).foldl State.offer s).events := by
  refine ⟨fun h => by rw [exchangeAbandoned_of_none h], fun x e h he => ?_⟩
  have honly : State.OnlyRequests n s (s.abortExchange n x) := onlyRequests_abortExchange
  obtain ⟨hstation, hentry⟩ := entryOf_eq_some he
  obtain ⟨p, hp⟩ := honly.entry _ _ hentry
  have hfound : (s.abortExchange n x).entryOf n x = some { e with pending := p } := entryOf_of_station hstation hp
  rw [exchangeAbandoned_of_some h, events_reportAbandoned, hfound]
  exact events_foldl_offer_congr _ honly.control honly.er honly.events

end

/-! ### The take (R178, R179) -/

section
variable {s : State} {n : LineNo} {tag : Half}

/-- R178: every listed request ended behind the exchange's. -/
def State.allAborted (s : State) (n : LineNo) : State := (s.exchangeAbandoned n).endAll n .aborted ((s.exchangeAbandoned n).listed n)

/-- R81, R179: the entries resynchronised, and the line's own parts at the take. -/
def State.resetLine (s : State) (n : LineNo) : State := ((s.allAborted n).resyncLine n).onLine n Line.resetTaken

/-- The state at the take before the cache and the held latch are judged. -/
def State.resetState (s : State) (n : LineNo) (tag : Half) : State :=
  { s.resetLine n with
    port := s.port.abandon (turnAccess n)
    admin := { s.admin with work := .resetting tag n ((s.allAborted n).madeSince n (s.line n).pool.doneOrder.length) } }

theorem settling_allAborted (s : State) (n : LineNo) : State.Settling n s (s.allAborted n) :=
  (settling_exchangeAbandoned s n).1.trans (settling_endAll n _ .aborted _)

theorem line_allAborted (s : State) (n : LineNo) :
    (s.allAborted n).line n = { s.line n with pool := ((s.allAborted n).line n).pool } := by
  have hline := (onlyRequests_endAll n (s.exchangeAbandoned n) .aborted ((s.exchangeAbandoned n).listed n)).line
  rw [line_exchangeAbandoned] at hline
  exact hline

theorem resetTaken_eq (s : State) (n : LineNo) (tag : Half) :
    s.resetTaken n tag = ((s.resetState n tag).drainCache n).settleHeld n := by
  have honly := onlyRequests_endAll n (s.exchangeAbandoned n) .aborted ((s.exchangeAbandoned n).listed n)
  obtain ⟨-, hadmin, hport⟩ := settling_exchangeAbandoned s n
  have hpool : ((s.resetLine n).line n).pool = ((s.allAborted n).line n).pool := by
    rw [State.resetLine, line_onLine, if_pos rfl]; rfl
  have hmade : (s.resetLine n).madeSince n (s.line n).pool.doneOrder.length
      = (s.allAborted n).madeSince n (s.line n).pool.doneOrder.length := by
    rw [State.madeSince, hpool]; rfl
  have hform : s.resetTaken n tag = (({ s.resetLine n with
      port := (s.allAborted n).port.abandon (turnAccess n)
      admin := { (s.allAborted n).admin with
        work := .resetting tag n ((s.resetLine n).madeSince n (s.line n).pool.doneOrder.length) } } : State).drainCache n).settleHeld
          n := by
    unfold State.resetTaken State.resetLine State.allAborted State.exchangeAbandoned
    rfl
  rw [hform, hmade, show (s.allAborted n).port = s.port from honly.port.trans hport,
    show (s.allAborted n).admin = s.admin from honly.admin.trans hadmin]
  rfl

theorem line_resetState (s : State) (n : LineNo) (tag : Half) : (s.resetState n tag).line n
    = { (s.line n).resetTaken with pool := ((s.allAborted n).line n).pool } := by
  have hline : (s.resetState n tag).line n = ((s.allAborted n).line n).resetTaken := by
    change (s.resetLine n).line n = _
    unfold State.resetLine
    rw [line_onLine, if_pos rfl]
    rfl
  rw [hline, line_allAborted]
  rfl

theorem drainCache_resetState (s : State) (n : LineNo) (tag : Half) : (s.resetState n tag).drainCache n
    = if s.control.device = .stopping ∧ (s.line n).buf.reading = none then (s.resetState n tag).onLine n Line.cacheDrained
      else s.resetState n tag := by
  have hcontrol : (s.resetState n tag).control = s.control := (settling_allAborted s n).device.1
  have hturn : ((s.resetState n tag).line n).turn? = none := by rw [line_resetState]; rfl
  rw [drainCache_eq hturn, hcontrol, line_resetState]
  rfl

/-- The line after the take: only the cache and the held latch are still judged. -/
theorem line_resetTaken (s : State) (n : LineNo) (tag : Half) : ∃ b, (s.resetTaken n tag).line n
    = Line.latched { (s.line n).resetTaken with
        pool := ((s.allAborted n).line n).pool
        buf := { (s.line n).buf with
          cache := if s.control.device = .stopping ∧ (s.line n).buf.reading = none then [] else (s.line n).buf.cache
          reserved := false } } b := by
  obtain ⟨b, hb⟩ := line_settleHeld ((s.resetState n tag).drainCache n) n
  refine ⟨b, ?_⟩
  rw [resetTaken_eq, hb, drainCache_resetState]
  split
  · rw [line_onLine, if_pos rfl, line_resetState]; rfl
  · rw [line_resetState]; rfl

theorem settling_drained (s : State) (n : LineNo) (tag : Half) :
    State.Settling n (s.resetState n tag) (s.resetTaken n tag) := by
  rw [resetTaken_eq]
  exact (settling_drainCache n _).trans (settling_settleHeld n _)

/-- A change of a line, the Host Port and the Admin Unit leaves the device as it is. -/
theorem sameDevice_onLine_with (t : State) (n : LineNo) (f : Line → Line) (p : HostPort) (u : AdminUnit) :
    t.SameDevice { t.onLine n f with port := p, admin := u } := .refl t

theorem device_resetTaken (s : State) (n : LineNo) (tag : Half) : s.SameDevice (s.resetTaken n tag) := by
  have hresync := ((settling_allAborted s n).trans (settling_resyncLine n _)).device
  refine (hresync.trans ?_).trans (settling_drained s n tag).device
  unfold State.resetState State.resetLine
  exact sameDevice_onLine_with ..

theorem admin_drainCache (s : State) (n : LineNo) : (s.drainCache n).admin = s.admin := by
  unfold State.drainCache
  split <;> rfl

theorem port_drainCache (s : State) (n : LineNo) : (s.drainCache n).port = s.port := by
  unfold State.drainCache
  split <;> rfl

theorem events_drainCache (s : State) (n : LineNo) : (s.drainCache n).events = s.events := by
  unfold State.drainCache
  split <;> rfl

theorem ring_drainCache (s : State) (n m : LineNo) : (s.drainCache n).ring m = s.ring m := by
  unfold State.drainCache
  split <;> rfl

theorem admin_resetTaken (s : State) (n : LineNo) (tag : Half) : (s.resetTaken n tag).admin = { s.admin with
    work := .resetting tag n ((s.allAborted n).madeSince n (s.line n).pool.doneOrder.length) } := by
  rw [resetTaken_eq, admin_settleHeld, admin_drainCache]
  rfl

theorem port_resetTaken (s : State) (n : LineNo) (tag : Half) :
    (s.resetTaken n tag).port = s.port.abandon (turnAccess n) := by
  rw [resetTaken_eq, port_settleHeld, port_drainCache]
  rfl

theorem events_resetTaken (s : State) (n : LineNo) (tag : Half) :
    (s.resetTaken n tag).events = (s.exchangeAbandoned n).events := by
  have hresetting : ((s.resetState n tag).drainCache n).resetting n = true := by
    rw [State.resetting, admin_drainCache]
    simp [State.resetState]
  rw [resetTaken_eq, events_settleHeld (not_isHeld_of_resetting hresetting), events_drainCache]
  exact (onlyRequests_endAll n (s.exchangeAbandoned n) .aborted ((s.exchangeAbandoned n).listed n)).events

/-- R81: the entries take the resynchronising values. -/
theorem ring_resetTaken (s : State) (n : LineNo) (tag : Half) : (s.resetTaken n tag).ring n = (s.ring n).map Station.resync := by
  rw [resetTaken_eq, ring_settleHeld, ring_drainCache]
  have hring : (s.resetState n tag).ring n = ((s.allAborted n).resyncLine n).ring n := rfl
  rw [hring, ring_resyncLine]
  exact (unlists_endAll ..).sameResync.trans (sameResync_exchangeAbandoned s n)

theorem othersKept_resetTaken (s : State) (n : LineNo) (tag : Half) : State.OthersKept n s (s.resetTaken n tag) := by
  have hresync := ((settling_allAborted s n).trans (settling_resyncLine n _)).others
  have hdrained := (settling_drained s n tag).others
  intro m hm
  have hline : (s.resetState n tag).line m = ((s.allAborted n).resyncLine n).line m := by
    change (s.resetLine n).line m = _
    rw [State.resetLine, line_onLine, if_neg hm]
  exact ⟨(hdrained m hm).1.trans (hline.trans (hresync m hm).1), (hdrained m hm).2.trans (hresync m hm).2⟩

end

end Sys2Proof.Machine

/-! LINE_RESET, settled (R67, R69, R81, R122, R169, R178, R179). -/

namespace Sys2Proof.Machine

/-! ### The completion (R179) -/

section
variable {s : State} {n : LineNo} {made : List SlotNo} {tag : Half}

theorem settled_iff (l : Line) : l.settled = true
    ↔ ∀ k : SlotNo, l.pool.slots[k] = .free ∨ ∃ r, l.pool.slots[k] = .held r ∧ r.state = .done := by
  unfold Line.settled
  rw [List.all_eq_true]
  refine ⟨fun h k => ?_, fun h k _ => ?_⟩
  · have hk := h k (List.mem_finRange k)
    cases hslot : l.pool.slots[k] with
    | free => exact .inl rfl
    | setAside => rw [hslot] at hk; cases hk
    | held r => rw [hslot] at hk; exact .inr ⟨r, rfl, of_decide_eq_true hk⟩
  · rcases h k with hfree | ⟨r, hr, hdone⟩
    · rw [hfree]
    · rw [hr]; exact decide_eq_true hdone

theorem allEntered_iff (s : State) (n : LineNo) (made : List SlotNo) :
    s.allEntered n made = true ↔ ∀ k ∈ made, k ∉ (s.line n).pool.doneOrder := by
  unfold State.allEntered
  simp only [List.all_eq_true, Bool.not_eq_true', List.contains_eq_mem, decide_eq_false_iff_not]

/-- R179: the reset completes once every slot is free or DONE and what it made DONE has entered the queue. -/
theorem exec_lineResetComplete (hwork : s.admin.work = .resetting tag n made) :
    exec .lineResetComplete s = .next (if s.active = true ∧ (s.line n).settled = true ∧ s.allEntered n made = true then
      ((s.startPollTimer n).completeAdmin tag .ok 0 0).settleHeld n else s) := by
  change Host.Outcome.next s.afterResetComplete = _
  congr 1
  cases hactive : s.active with
  | false => simp [State.afterResetComplete, hactive]
  | true => simp [State.afterResetComplete, hactive, hwork]

end

/-! ### Accesses of an abandoned turn (R122, R133) -/

theorem turnAccess_iff (n : LineNo) (k : AccessKind) :
    turnAccess n k = true ↔ k = .payloadRead n ∨ k = .bufferWrite n ∨ k = .answerWrite n := by
  simp only [turnAccess, Bool.or_eq_true, decide_eq_true_eq, or_assoc]

theorem abandon_inFlight {p : HostPort} {a : Access} {n : LineNo} (h : p.inFlight = some a) :
    (turnAccess n a.kind = true → (p.abandon (turnAccess n)).inFlight = some { a with abandoned := true })
    ∧ (¬ turnAccess n a.kind = true → (p.abandon (turnAccess n)).inFlight = some a) := by
  unfold HostPort.abandon
  rw [h]
  exact ⟨fun hmine => congrArg some (if_pos hmine), fun hother => congrArg some (if_neg hother)⟩

/-! ### The take, as the statement words it -/

section
variable {s : State} {n : LineNo} {a : Access} {rec : List Byte}

theorem exec_lineReset (hawaits : s.AwaitsAdmin a 3 rec) (hn : (byteAt rec 1).toNat = n.val) :
    exec (.lineReset rec) s = .next (if ((s.finishAccess a).line n).enabled then
        (s.finishAccess a).resetTaken n (halfAt rec 2)
      else (s.finishAccess a).completeAdmin (halfAt rec 2) .wrongState 0 0) := by
  have hok : (adminLineNo rec).isSome = true := by rw [adminLineNo_of_byte hn]; rfl
  refine (congrArg Host.Outcome.next (executed_of_awaitsAdmin hawaits (ok := fun _ => (adminLineNo rec).isSome) hok _)).trans ?_
  rw [State.lineReset, lineNamed_of_byte hn]
  rfl

/-- R178: what the take makes DONE, in its order. -/
theorem made_resetTaken (s : State) (n : LineNo) : ∃ made, State.Made n .aborted made s (s.allAborted n)
    ∧ (s.allAborted n).madeSince n (s.line n).pool.doneOrder.length = made
    ∧ ((s.listed n).Nodup → made = s.abandonedSlots n
      ++ (s.listed n).filter fun k => !(s.abandonedSlots n).contains k && (s.slotIs n k .waiting || s.slotIs n k .answering)) := by
  have hfirst := firstMade_exchangeAbandoned s n
  obtain ⟨rest, hrest⟩ := made_endAll (s.exchangeAbandoned n) n .aborted ((s.exchangeAbandoned n).listed n)
  have hmade := hfirst.made.trans hrest
  refine ⟨_, hmade, ?_, fun hnodup => ?_⟩
  · exact (congrArg (List.drop _) hmade.order).trans List.drop_left
  · exact List.append_cancel_left (hmade.order.symm.trans (hfirst.doneOrder hnodup))

theorem waiting_abandoned (hport : s.port.inFlight = none) : s.port.abandon (turnAccess n) = { s.port with
    inFlight := none
    waiting := s.port.waiting.filter fun b => b.kind ≠ .payloadRead n ∧ b.kind ≠ .bufferWrite n ∧ b.kind ≠ .answerWrite n } := by
  have hwaiting : s.port.waiting.filter (fun b => !turnAccess n b.kind)
      = s.port.waiting.filter fun b => b.kind ≠ .payloadRead n ∧ b.kind ≠ .bufferWrite n ∧ b.kind ≠ .answerWrite n := by
    refine List.filter_congr fun b _ => ?_
    rw [Bool.eq_iff_iff, Bool.not_eq_true', Bool.eq_false_iff, ne_eq, turnAccess_iff, decide_eq_true_iff]
    simp only [not_or]
  rw [HostPort.abandon, HostPort.withdraw, hwaiting, hport]
  rfl

end

/-- Settles O30 (R67, R69, R81, R122, R133, R169, R178, R179). -/
theorem lineResetEndsEveryRequest : Obligations.LineResetEndsEveryRequest := by
  refine ⟨fun s n a rec hawaits hn => ⟨fun hdisabled => ?disabled, fun listed first henabled hlisted hfirst => ?taken⟩,
    fun s n tag made hwork hslots hentered => ⟨fun hrunning => ?running, fun hstopping => ?stopping⟩,
    fun s n tag made hwork hbefore => ?before, fun p a n hflight => ⟨fun hmine => ?mine, fun h1 h2 h3 => ?other⟩⟩
  case disabled =>
    have hnot : ¬ ((s.finishAccess a).line n).enabled = true := fun h => (Line.enabled_iff _).1 h hdisabled
    rw [exec_lineReset hawaits hn, if_neg hnot]
  case taken =>
    have henabled' : ((s.finishAccess a).line n).enabled = true := (Line.enabled_iff _).2 henabled
    have hrun := exec_lineReset hawaits hn
    rw [if_pos henabled'] at hrun
    obtain ⟨made, hmade, hsince, hordered⟩ := made_resetTaken (s.finishAccess a) n
    obtain ⟨b, hline⟩ := line_resetTaken (s.finishAccess a) n (halfAt rec 2)
    have hpool : (((s.finishAccess a).resetTaken n (halfAt rec 2)).line n).pool = (((s.finishAccess a).allAborted n).line n).pool := by
      rw [hline]; rfl
    have hslots : ∀ k, ((s.finishAccess a).resetTaken n (halfAt rec 2)).request? n k = ((s.finishAccess a).allAborted n).request? n k :=
      request?_congr (congrArg Pool.slots hpool)
    have hfirst' : first = (s.finishAccess a).abandonedSlots n := by
      rw [hfirst, State.abandonedSlots, show ((s.finishAccess a).line n).exchange? = (s.line n).exchange? from rfl]
      cases (s.line n).exchange? with
      | none => rfl
      | some x => exact List.filter_congr fun k _ => inHand_eq s n k
    have hfirstMade := firstMade_exchangeAbandoned (s.finishAccess a) n
    obtain ⟨hcontrol, hsq, hcq, hbq, her, -⟩ := device_resetTaken (s.finishAccess a) n (halfAt rec 2)
    obtain ⟨hquiet, hevents⟩ := events_exchangeAbandoned (s.finishAccess a) n
    refine ⟨_, made, hrun, ?admin, ?order, fun k => ?mem, fun hnodup => ?ordered, ?state, ?de, ?txBuf, ?streak, ?sched, ?fetch,
      ?config, fun hkept => ?bufKept, fun hstopping hreading => ?bufDrained, ?queue, ?reservation, ?writing, ?port, ?ring,
      fun k hk hpends => ?listedEnded, fun x k r hx hslot hr hhand => ?slotEnded, fun hnone => ?quiet,
      fun x b e hx hstation hentry => ?events, hcontrol, hsq, hcq, hbq, her,
      othersKept_resetTaken (s.finishAccess a) n (halfAt rec 2)⟩
    case admin => rw [admin_resetTaken, hsince]; rfl
    case order => rw [hpool]; exact hmade.order
    case mem => rw [hslots]; exact hmade.mem_iff k
    case ordered => rw [hfirst', hlisted]; rw [hlisted] at hnodup; exact hordered hnodup
    case bufKept =>
      have hno : ¬ ((s.finishAccess a).control.device = .stopping ∧ ((s.finishAccess a).line n).buf.reading = none) := by
        rintro ⟨hstopping, hreading⟩
        rcases hkept with hrunning | hreads
        · rw [show s.control.device = .stopping from hstopping] at hrunning; cases hrunning
        · exact hreads hreading
      rw [hline, if_neg hno]
      rfl
    case bufDrained => rw [hline, if_pos ⟨hstopping, hreading⟩]; rfl
    case port => rw [port_resetTaken, waiting_abandoned rfl]; rfl
    case ring => exact ring_resetTaken (s.finishAccess a) n (halfAt rec 2)
    case listedEnded =>
      rw [hslots]
      rw [hlisted] at hk
      refine hfirstMade.ended hk ?_
      rw [← pends_eq]
      exact Bool.or_eq_true_iff.2 hpends
    case slotEnded =>
      have hhand' : r.inHand = true := by
        rw [Request.inHand, Bool.or_eq_true, decide_eq_true_iff, decide_eq_true_iff]; exact hhand
      rw [hslots]
      exact ⟨_, (grows_endAll n _ .aborted _).done k _ (request?_exchangeAbandoned (s := s.finishAccess a) hx hslot hr hhand') rfl,
        rfl, rfl, rfl⟩
    case quiet => rw [events_resetTaken]; exact hquiet hnone
    case events =>
      have haddress : e.address = b := (station?_key hentry).2
      have hrecords := hevents x e hx (entryOf_of_station (hstation.trans (congrArg some haddress.symm)) (haddress ▸ hentry))
      rw [← events_resetTaken (tag := halfAt rec 2)] at hrecords
      refine ⟨fun hcosts => ?_, fun hfree => ?_⟩
      · rw [abandonRecords, if_pos ((costs_iff x e).2 hcosts), haddress] at hrecords
        exact hrecords.trans (events_offer_congr (s := s) (t := s.finishAccess a) rfl rfl rfl _)
      · rw [abandonRecords, if_neg (mt (costs_iff x e).1 hfree)] at hrecords
        exact hrecords
    all_goals rw [hline]; rfl
  case running =>
    have hready : s.active = true ∧ (s.line n).settled = true ∧ s.allEntered n made = true :=
      ⟨(active_iff s).2 (.inl hrunning), (settled_iff _).2 hslots, (allEntered_iff ..).2 hentered⟩
    have hruns : s.running = true := decide_eq_true hrunning
    rw [exec_lineResetComplete hwork, if_pos hready, State.startPollTimer, if_pos hruns]
  case stopping =>
    have hready : s.active = true ∧ (s.line n).settled = true ∧ s.allEntered n made = true :=
      ⟨(active_iff s).2 (.inr hstopping), (settled_iff _).2 hslots, (allEntered_iff ..).2 hentered⟩
    have hnotRunning : ¬ s.running = true := fun h => by
      have := of_decide_eq_true h
      rw [hstopping] at this
      cases this
    rw [exec_lineResetComplete hwork, if_pos hready, State.startPollTimer, if_neg hnotRunning]
  case before =>
    have hnot : ¬ (s.active = true ∧ (s.line n).settled = true ∧ s.allEntered n made = true) := by
      rintro ⟨-, hsettled, hentered⟩
      rcases hbefore with ⟨k, hk, hin⟩ | ⟨k, hslot⟩
      · exact (allEntered_iff ..).1 hentered k hk hin
      · rcases (settled_iff _).1 hsettled k with hfree | ⟨r, hr, hdone⟩ <;> rcases hslot with haside | ⟨q, hq, hopen⟩
        · rw [hfree] at haside; cases haside
        · rw [hfree] at hq; cases hq
        · rw [hr] at haside; cases haside
        · rw [hr] at hq; cases hq; exact hopen hdone
    rw [exec_lineResetComplete hwork, if_neg hnot]
  case mine => exact (abandon_inFlight hflight).1 ((turnAccess_iff ..).2 hmine)
  case other =>
    refine (abandon_inFlight hflight).2 fun h => ?_
    rcases (turnAccess_iff ..).1 h with h | h | h
    · exact h1 h
    · exact h2 h
    · exact h3 h

end Sys2Proof.Machine

/-! A retry given up before a teardown: what it makes DONE, and what it leaves listed (R67, R93, R121, R167, R180). -/

namespace Sys2Proof.Machine

section
variable {s : State} {n : LineNo} {x : Exchange} {st : LineStatus} {k : SlotNo} {r : Request}

/-! ### Timeouts, before and after the report -/

theorem control_reportAbandoned (s : State) (n : LineNo) (x : Exchange) : (s.reportAbandoned n x).control = s.control :=
  (settling_reportAbandoned n s x).device.1

theorem entryOf_reportAbandoned (s : State) (n : LineNo) (x : Exchange) :
    ((s.reportAbandoned n x).entryOf n x).map Station.pending = (s.entryOf n x).map Station.pending
      ∧ ((s.reportAbandoned n x).entryOf n x).map Station.address = (s.entryOf n x).map Station.address := by
  cases h : s.entryOf n x with
  | none => rw [reportAbandoned_of_none h, h]; exact ⟨rfl, rfl⟩
  | some e =>
    obtain ⟨hstation, hentry⟩ := entryOf_eq_some h
    have hreported := station?_reported_self (steady_abandons x e).key (abandonRecords n x e) hentry
    have hfound : (s.reported n e.address (x.abandons e) (abandonRecords n x e)).entryOf n x = some (x.abandons e e) :=
      entryOf_of_station hstation hreported
    rw [reportAbandoned_of_entry h, hfound]
    exact ⟨rfl, rfl⟩

theorem timesOut_reportAbandoned : (s.reportAbandoned n x).TimesOut n x k ↔ s.TimesOut n x k := by
  have hpending := (entryOf_reportAbandoned s n x).1
  have hnow : (s.reportAbandoned n x).now = s.now := (settling_reportAbandoned n s x).now
  unfold State.TimesOut
  rw [control_reportAbandoned, hnow]
  simp only [request?_reportAbandoned]
  refine and_congr_right fun _ => ⟨?_, ?_⟩
  · rintro ⟨e, r, d, hentry, hhead, hrest⟩
    rw [hentry, Option.map_some] at hpending
    obtain ⟨f, hf, hlist⟩ := Option.map_eq_some_iff.1 hpending.symm
    exact ⟨f, r, d, hf, hlist ▸ hhead, hrest⟩
  · rintro ⟨e, r, d, hentry, hhead, hrest⟩
    rw [hentry, Option.map_some] at hpending
    obtain ⟨f, hf, hlist⟩ := Option.map_eq_some_iff.1 hpending
    exact ⟨f, r, d, hf, hlist ▸ hhead, hrest⟩

/-- What an exchange's end makes DONE is the answer that times out. -/
theorem made_exchangeOver (s : State) (n : LineNo) (x : Exchange) : ∃ late, State.Made n .answerTimeout late s (s.exchangeOver n x)
    ∧ ∀ k, k ∈ late ↔ s.TimesOut n x k := by
  by_cases htimes : ∃ k, s.TimesOut n x k
  · obtain ⟨k, hk⟩ := htimes
    obtain ⟨r, hr, hopen⟩ := hk.open
    refine ⟨[k], ?_, fun j => ?_⟩
    · rw [exchangeOver_of_timesOut hk]
      exact made_makeDone hr hopen .answerTimeout id
    · rw [List.mem_singleton]
      refine ⟨fun h => h ▸ hk, fun hj => ?_⟩
      have hat : ∃ e, s.entryOf n x = some e := by
        obtain ⟨-, e, -, -, hentry, -⟩ := hk
        exact ⟨e, hentry⟩
      obtain ⟨e, hentry⟩ := hat
      exact Option.some.inj ((hj.head hentry).symm.trans (hk.head hentry))
  · push Not at htimes
    refine ⟨[], ?_, fun k => ⟨fun h => (List.not_mem_nil h).elim, fun h => absurd h (htimes k)⟩⟩
    rcases exchangeOver_cases s n x with hsame | ⟨e, j, q, hentry, hhead, hstate, ⟨hrunning, ⟨-, d, hd, hle⟩, -⟩ | hover⟩
    · rw [hsame]; exact .refl n .answerTimeout s
    · obtain ⟨hj, hq⟩ := head?_eq_some.1 hhead
      exact absurd ⟨hrunning, e, q, d, hentry, hj, hq, hstate, hd, hle⟩ (htimes j)
    · obtain ⟨-, hq⟩ := head?_eq_some.1 hhead
      rw [hover]
      refine made_onRequest (fun w hw => ?_) fun _ => rfl
      cases hq.symm.trans hw
      rw [hstate]; decide

/-- Where nothing times out the lists stand, and who waits waits still. -/
theorem firstMade_exchangeOver {first : List SlotNo} {t : State} (h : State.FirstMade n st first s t)
    (hkept : ∀ k, ¬ t.TimesOut n x k) : State.FirstMade n st first s (t.exchangeOver n x) := by
  obtain ⟨gone, hunlists, hgone⟩ := unlists_exchangeOver t n x
  obtain ⟨late, hlate, hmem⟩ := made_exchangeOver t n x
  have hnone : late = [] := List.eq_nil_iff_forall_not_mem.2 fun k hk => hkept k ((hmem k).1 hk)
  have hfree : ∀ j, gone j = false := fun j => Bool.eq_false_iff.2 fun hj => hkept j ((hgone j).1 hj)
  subst hnone
  refine ⟨?made, ?listed, fun j hj => ?pends⟩
  case made =>
    have hagain : State.Made n st [] t (t.exchangeOver n x) :=
      ⟨hlate.order, hlate.mem, fun k hk => (List.not_mem_nil hk).elim, hlate.done, hlate.isSome⟩
    have := h.made.trans hagain
    rwa [List.append_nil] at this
  case listed =>
    rw [hunlists.listed, h.listed, List.filter_filter]
    refine List.filter_congr fun j _ => ?_
    rw [hfree j, Bool.not_false, Bool.true_and]
  case pends =>
    rw [← h.pends j hj]
    cases hr : t.request? n j with
    | none =>
      have hsame : (t.exchangeOver n x).request? n j = none := by
        have hisSome := hlate.isSome j
        rw [hr, Option.isSome_none, Option.isSome_eq_false_iff, Option.isNone_iff_eq_none] at hisSome
        exact hisSome
      rw [hsame]
    | some q =>
      rcases request?_exchangeOver (x := x) hr with ⟨htimes, -⟩ | ⟨due, hdue, -⟩
      · exact absurd htimes (hkept j)
      · rw [hdue]; rfl

/-- The retry's own request first. -/
theorem firstMade_overRetry : State.FirstMade n st (s.retrySlots n x) s ((s.overRetry n x st).reportAbandoned n x) where
  made := made_overRetry.of_pool_right (by rw [line_reportAbandoned])
  listed := by
    rw [listed_reportAbandoned, (unlists_overRetry (st := st)).listed]
    simp only [← decide_not]
  pends := fun j hj => by rw [request?_reportAbandoned, request?_overRetry_of_ne hj]

theorem sameResync_retryOver : State.SameResync n s (s.retryOver n x st) := by
  obtain ⟨gone, hgone, -⟩ := unlists_exchangeOver ((s.overRetry n x st).reportAbandoned n x) n x
  exact hgone.sameResync.trans ((sameResync_reportAbandoned ..).trans unlists_overRetry.sameResync)

end

end Sys2Proof.Machine

/-! LINE_DISABLE: the take without a turn in flight (11.2, R14, R81, R180). -/

namespace Sys2Proof.Machine

/-! ### The retry pending, if there is one, given up -/

/-- The slot a retry pending makes DONE when it is given up. -/
def State.firstSlots (s : State) (n : LineNo) : List SlotNo := ((s.line n).sched.retry).elim [] fun x => s.retrySlots n x

/-- The state once the retry's request is over and its exchange reported, before its station's head is settled. -/
def State.retryReported (s : State) (n : LineNo) (st : LineStatus) : State :=
  ((s.line n).sched.retry).elim s fun x => (s.overRetry n x st).reportAbandoned n x

/-- R121: the answer whose deadline the end of the retry's exchange finds passed. -/
def State.LateWith (s : State) (n : LineNo) (st : LineStatus) (k : SlotNo) : Prop :=
  ∃ x, (s.line n).sched.retry = some x ∧ (s.retryReported n st).TimesOut n x k

section
variable {s : State} {n : LineNo} {st : LineStatus} {x : Exchange} {k : SlotNo} {r : Request}

theorem firstSlots_of_some (h : (s.line n).sched.retry = some x) : s.firstSlots n = s.retrySlots n x := by
  rw [State.firstSlots, h]; rfl

theorem firstSlots_of_none (h : (s.line n).sched.retry = none) : s.firstSlots n = [] := by
  rw [State.firstSlots, h]; rfl

theorem retryReported_of_some (h : (s.line n).sched.retry = some x) :
    s.retryReported n st = (s.overRetry n x st).reportAbandoned n x := by
  rw [State.retryReported, h]; rfl

theorem retryReported_of_none (h : (s.line n).sched.retry = none) : s.retryReported n st = s := by
  rw [State.retryReported, h]; rfl

theorem firstMade_retryReported (s : State) (n : LineNo) (st : LineStatus) :
    State.FirstMade n st (s.firstSlots n) s (s.retryReported n st) := by
  cases h : (s.line n).sched.retry with
  | none =>
    rw [firstSlots_of_none h, retryReported_of_none h]
    exact ⟨.refl n st s, by simp, fun _ _ => rfl⟩
  | some x =>
    rw [firstSlots_of_some h, retryReported_of_some h]
    exact firstMade_overRetry

/-- Only the answer that times out becomes DONE after that. -/
theorem made_retryReported (s : State) (n : LineNo) (st : LineStatus) :
    ∃ late, State.Made n .answerTimeout late (s.retryReported n st) (s.giveUpRetry n st true)
      ∧ ∀ k, k ∈ late ↔ s.LateWith n st k := by
  cases h : (s.line n).sched.retry with
  | none =>
    rw [retryReported_of_none h, giveUpRetry_of_none h]
    refine ⟨[], .refl n _ s, fun k => ⟨fun hk => (List.not_mem_nil hk).elim, fun ⟨x, hx, _⟩ => ?_⟩⟩
    rw [h] at hx
    cases hx
  | some x =>
    obtain ⟨late, hlate, hmem⟩ := made_exchangeOver (s.retryReported n st) n x
    refine ⟨late, hlate.of_pool_right ?_, fun k => (hmem k).trans ⟨fun ht => ⟨x, h, ht⟩, fun ⟨y, hy, ht⟩ => ?_⟩⟩
    · rw [giveUpRetry_eq h, State.retryOver, ← retryReported_of_some h]
      exact pool_unretried ..
    · cases h.symm.trans hy
      exact ht

/-- Where nothing times out, what waited waits still. -/
theorem firstMade_giveUpRetry (hkept : ∀ k, ¬ s.LateWith n st k) :
    State.FirstMade n st (s.firstSlots n) s (s.giveUpRetry n st true) := by
  have hfirst := firstMade_retryReported s n st
  cases h : (s.line n).sched.retry with
  | none => rw [giveUpRetry_of_none h]; rw [retryReported_of_none h] at hfirst; exact hfirst
  | some x =>
    have hover := firstMade_exchangeOver hfirst fun k ht => hkept k ⟨x, h, ht⟩
    rw [giveUpRetry_eq h, State.retryOver, ← retryReported_of_some h]
    refine ⟨hover.made.of_pool_right (pool_unretried ..), ?listed, fun j hj => ?pends⟩
    case listed =>
      refine Eq.trans ?_ hover.listed
      unfold State.listed
      rw [pool_unretried]
      rfl
    case pends => rw [request?_unretried]; exact hover.pends j hj

theorem line_giveUpRetry_both (s : State) (n : LineNo) (st : LineStatus) : ∃ reserved, (s.giveUpRetry n st true).line n
    = { s.line n with
        sched := { (s.line n).sched with retry := none }, buf := { (s.line n).buf with reserved := reserved }
        pool := ((s.giveUpRetry n st true).line n).pool } := by
  cases h : (s.line n).sched.retry with
  | none =>
    refine ⟨(s.line n).buf.reserved, ?_⟩
    rw [giveUpRetry_of_none h, ← h]
  | some x => exact ⟨false, line_giveUpRetry h st⟩

theorem sameResync_giveUpRetry (s : State) (n : LineNo) (st : LineStatus) : State.SameResync n s (s.giveUpRetry n st true) := by
  cases h : (s.line n).sched.retry with
  | none => rw [giveUpRetry_of_none h]; rfl
  | some x => rw [giveUpRetry_eq h]; exact sameResync_retryOver

theorem admin_giveUpRetry (s : State) (n : LineNo) (st : LineStatus) : (s.giveUpRetry n st true).admin = s.admin := by
  cases h : (s.line n).sched.retry with
  | none => rw [giveUpRetry_of_none h]
  | some x =>
    have honly : State.OnlyRequests n s (s.overRetry n x st) := onlyRequests_overRetry
    rw [giveUpRetry_eq h]
    exact ((onlyRequests_exchangeOver _ n x).admin.trans (admin_reportAbandoned ..)).trans honly.admin

/-- An entry of the retry's station, before its request is over. -/
theorem entry_retryReported {e : Station} (h : (s.line n).sched.retry = some x) (he : (s.retryReported n st).entryOf n x = some e) :
    ∃ f, s.station? n f.address = some f ∧ x.station = some f.address
      ∧ e.pending = f.pending.filter fun j => decide (j ∉ s.firstSlots n) := by
  obtain ⟨hpending, haddress⟩ := entryOf_reportAbandoned (s.overRetry n x st) n x
  rw [retryReported_of_some h] at he
  rw [he, Option.map_some] at hpending haddress
  obtain ⟨g, hg, hlist⟩ := Option.map_eq_some_iff.1 hpending.symm
  obtain ⟨hstation, hentry⟩ := entryOf_eq_some hg
  rw [(unlists_overRetry (st := st)).station?] at hentry
  obtain ⟨f, hf, rfl⟩ := Option.map_eq_some_iff.1 hentry
  refine ⟨f, hf, hstation, ?_⟩
  rw [← hlist, Station.without, firstSlots_of_some h]
  simp only [← decide_not]

/-- An answer that times out stands at its station's list, its deadline passed. -/
theorem State.LateWith.late (h : s.LateWith n st k) : s.control.device = .running ∧ k ∉ s.firstSlots n
    ∧ (∃ x f, (s.line n).sched.retry = some x ∧ x.station = some f.address ∧ f ∈ s.ring n ∧ k ∈ f.pending)
    ∧ ∃ r d, s.request? n k = some r ∧ r.state = .answering ∧ r.answerDeadline = some d ∧ d ≤ s.now := by
  obtain ⟨x, hretry, hrunning, e, r, d, hentry, hhead, hr, hstate, hdeadline, hle⟩ := h
  obtain ⟨f, hf, hstation, hlist⟩ := entry_retryReported hretry hentry
  have hmem := List.mem_of_head? hhead
  rw [hlist] at hmem
  obtain ⟨hk, hnot⟩ := List.mem_filter.1 hmem
  have hnotFirst : k ∉ s.firstSlots n := of_decide_eq_true hnot
  have hsettling : State.Settling n s (s.retryReported n st) := by
    rw [retryReported_of_some hretry]
    exact onlyRequests_overRetry.settling.trans (settling_reportAbandoned n _ x)
  rw [hsettling.device.1] at hrunning
  rw [hsettling.now] at hle
  rw [retryReported_of_some hretry, request?_reportAbandoned,
    request?_overRetry_of_ne (by rw [← firstSlots_of_some hretry]; exact hnotFirst)] at hr
  refine ⟨hrunning, hnotFirst, ⟨x, f, hretry, hstation, ?_, hk⟩, r, d, hr, hstate, hdeadline, hle⟩
  exact List.mem_filter.2 ⟨List.mem_of_find?_eq_some hf, decide_eq_true (station?_key hf).1⟩

/-- An open request of neither kind keeps its state. -/
theorem request?_giveUpRetry_kept (hr : s.request? n k = some r) (hfirst : k ∉ s.firstSlots n) (hlate : ¬ s.LateWith n st k) :
    ∃ due, (s.giveUpRetry n st true).request? n k = some { r with queryPollDue := due } := by
  cases h : (s.line n).sched.retry with
  | none => exact ⟨r.queryPollDue, by rw [giveUpRetry_of_none h]; exact hr⟩
  | some x =>
    have hmiddle : (s.retryReported n st).request? n k = some r := by
      rw [retryReported_of_some h, request?_reportAbandoned, request?_overRetry_of_ne (by rw [← firstSlots_of_some h]; exact hfirst)]
      exact hr
    rcases request?_exchangeOver (x := x) hmiddle with ⟨htimes, -⟩ | ⟨due, hdue, -⟩
    · exact absurd ⟨x, h, htimes⟩ hlate
    · refine ⟨due, ?_⟩
      rw [request?_giveUpRetry h, State.retryOver, ← retryReported_of_some h]
      exact hdue

end

end Sys2Proof.Machine

/-! LINE_DISABLE once no turn is in flight: what it ends, and which slots it waits for (R81, R180). -/

namespace Sys2Proof.Machine

/-- R101, R180: a line whose scheduler is cleared and whose transmit buffer is emptied. -/
def Line.cleared (l : Line) : Line := { l.clearScheduler with txBuf := [] }

section
variable {s : State} {n : LineNo} {k : SlotNo} {r : Request} {tag : Half} {st : AdminStatus} {made : List SlotNo}

/-! ### The end of what waits (R180) -/

theorem stillOpen_eq (s : State) (n : LineNo) (ks : List SlotNo) :
    s.stillOpen n ks = ks.filter fun k => (s.request? n k).any Request.pends := by
  unfold State.stillOpen
  simp only [pends_eq]

theorem disableEnded_eq (s : State) (n : LineNo) (tag : Half) (st : AdminStatus) (made : List SlotNo) :
    s.disableEnded n tag st made = { ((s.endAll n .aborted (s.listed n)).resyncLine n).onLine n Line.cleared with
      admin := { s.admin with work := .disabling tag n true st (made ++ s.stillOpen n (s.listed n)) } } := by
  have hadmin : (((s.endAll n .aborted (s.listed n)).resyncLine n).onLine n Line.cleared).admin = s.admin :=
    (onlyRequests_endAll n s .aborted (s.listed n)).admin
  rw [← hadmin]
  rfl

theorem line_disableEnded (s : State) (n : LineNo) (tag : Half) (st : AdminStatus) (made : List SlotNo) :
    (s.disableEnded n tag st made).line n
      = { (s.line n).cleared with pool := ((s.endAll n .aborted (s.listed n)).line n).pool } := by
  rw [disableEnded_eq]
  change (((s.endAll n .aborted (s.listed n)).resyncLine n).onLine n Line.cleared).line n = _
  rw [line_onLine, if_pos rfl, line_resyncLine, (onlyRequests_endAll n s .aborted (s.listed n)).line]
  rfl

theorem request?_disableEnded (s : State) (n : LineNo) (tag : Half) (st : AdminStatus) (made : List SlotNo) (k : SlotNo) :
    (s.disableEnded n tag st made).request? n k = (s.endAll n .aborted (s.listed n)).request? n k :=
  request?_congr (by rw [line_disableEnded]) k

theorem admin_disableEnded (s : State) (n : LineNo) (tag : Half) (st : AdminStatus) (made : List SlotNo) :
    (s.disableEnded n tag st made).admin
      = { s.admin with work := .disabling tag n true st (made ++ s.stillOpen n (s.listed n)) } := by
  rw [disableEnded_eq]

theorem events_disableEnded (s : State) (n : LineNo) (tag : Half) (st : AdminStatus) (made : List SlotNo) :
    (s.disableEnded n tag st made).events = s.events := by
  rw [disableEnded_eq]
  exact (onlyRequests_endAll n s .aborted (s.listed n)).events

theorem ring_disableEnded (s : State) (n : LineNo) (tag : Half) (st : AdminStatus) (made : List SlotNo) :
    (s.disableEnded n tag st made).ring n = (s.ring n).map Station.resync := by
  have hring : (s.disableEnded n tag st made).ring n = ((s.endAll n .aborted (s.listed n)).resyncLine n).ring n := by
    rw [disableEnded_eq]; rfl
  rw [hring, ring_resyncLine]
  exact (unlists_endAll ..).sameResync

/-! ### After the retry pending is given up (R93, R180) -/

/-- R180: the line goes out of use: its retry pending given up, then what waits ended. -/
def State.retired (s : State) (n : LineNo) (tag : Half) : State :=
  (s.giveUpRetry n .aborted true).disableEnded n tag .ok (s.firstSlots n)

/-- The slots it waits for. -/
def State.retiredSlots (s : State) (n : LineNo) : List SlotNo := s.firstSlots n
  ++ (s.giveUpRetry n .aborted true).stillOpen n ((s.giveUpRetry n .aborted true).listed n)

theorem grows_retired (s : State) (n : LineNo) (tag : Half) : State.Grows n (s.giveUpRetry n .aborted true) (s.retired n tag) :=
  (grows_endAll n _ .aborted _).trans (.of_pool (by rw [State.retired, line_disableEnded]))

/-- The retry's own slot, once given up. -/
theorem request?_firstSlots (h : k ∈ s.firstSlots n) : (∃ r, s.request? n k = some r ∧ r.state ≠ .done)
    ∧ ∃ q, (s.giveUpRetry n .aborted true).request? n k = some q ∧ q.state = .done ∧ q.outcome = some .aborted := by
  obtain ⟨late, hlate, -⟩ := made_retryReported s n .aborted
  obtain ⟨hopen, q, hq, hdone, hst⟩ := ((firstMade_retryReported s n .aborted).made.mem_iff k).1 h
  exact ⟨hopen, q, hlate.done k q hq hdone, hdone, hst⟩

/-- An answer that has timed out, once the retry is given up. -/
theorem request?_late (h : s.LateWith n .aborted k) : ∃ q, (s.giveUpRetry n .aborted true).request? n k = some q
    ∧ q.state = .done ∧ q.outcome = some .answerTimeout := by
  obtain ⟨late, hlate, hmem⟩ := made_retryReported s n .aborted
  obtain ⟨-, q, hq, hdone, hst⟩ := (hlate.mem_iff k).1 ((hmem k).2 h)
  exact ⟨q, hq, hdone, hst⟩

/-- What the retry's end leaves made ABORTED is its own slot. -/
theorem madeSince_giveUpRetry (s : State) (n : LineNo) :
    ((s.giveUpRetry n .aborted true).madeSince n (s.line n).pool.doneOrder.length).filter
      (fun k => decide ((s.giveUpRetry n .aborted true).outcome? n k = some .aborted)) = s.firstSlots n := by
  obtain ⟨late, hlate, hmem⟩ := made_retryReported s n .aborted
  have hfirst := firstMade_retryReported s n .aborted
  have hsince : (s.giveUpRetry n .aborted true).madeSince n (s.line n).pool.doneOrder.length = s.firstSlots n ++ late := by
    rw [State.madeSince, hlate.order, hfirst.made.order, List.append_assoc, List.drop_left]
  have haborted : (s.firstSlots n).filter
      (fun k => decide ((s.giveUpRetry n .aborted true).outcome? n k = some .aborted)) = s.firstSlots n := by
    refine List.filter_eq_self.2 fun k hk => decide_eq_true ?_
    obtain ⟨-, q, hq, -, hst⟩ := request?_firstSlots hk
    rw [outcome?_of_request hq, hst]
  have hlateNot : late.filter (fun k => decide ((s.giveUpRetry n .aborted true).outcome? n k = some .aborted)) = [] := by
    refine List.filter_eq_nil_iff.2 fun k hk => ?_
    obtain ⟨q, hq, -, hst⟩ := request?_late ((hmem k).1 hk)
    rw [outcome?_of_request hq, hst]
    decide
  rw [hsince, List.filter_append, haborted, hlateNot, List.append_nil]

/-- A request open after the retry is given up was open before. -/
theorem open_of_giveUpRetry {q : Request} (hq : (s.giveUpRetry n .aborted true).request? n k = some q) (hopen : q.state ≠ .done) :
    ∃ r, s.request? n k = some r ∧ r.state ≠ .done := by
  obtain ⟨late, hlate, -⟩ := made_retryReported s n .aborted
  have hfirst := (firstMade_retryReported s n .aborted).made
  have hsome : (s.request? n k).isSome = true := by
    rw [← hfirst.isSome, ← hlate.isSome, hq]; rfl
  obtain ⟨r, hr⟩ := Option.isSome_iff_exists.1 hsome
  refine ⟨r, hr, fun hdone => hopen ?_⟩
  cases (hlate.done k r (hfirst.done k r hr hdone) hdone).symm.trans hq
  exact hdone

/-- R180: it waits for exactly the slots it made DONE with ABORTED. -/
theorem mem_retiredSlots (tag : Half) : k ∈ s.retiredSlots n ↔ (∃ r, s.request? n k = some r ∧ r.state ≠ .done)
    ∧ ∃ q, (s.retired n tag).request? n k = some q ∧ q.state = .done ∧ q.outcome = some .aborted := by
  rw [State.retiredSlots, List.mem_append, stillOpen_eq, List.mem_filter]
  constructor
  · rintro (hfirst | ⟨hlisted, hpends⟩)
    · obtain ⟨hopen, q, hq, hdone, hst⟩ := request?_firstSlots hfirst
      exact ⟨hopen, q, (grows_retired s n tag).done k q hq hdone, hdone, hst⟩
    · obtain ⟨q, hq, hqp⟩ := (Option.any_eq_true _ _).1 hpends
      refine ⟨open_of_giveUpRetry hq (onlyOpen_pends q hqp), q.ended .aborted, ?_, rfl, rfl⟩
      rw [State.retired, request?_disableEnded, request?_endAll, if_pos hlisted, hq, Option.map_some, if_pos hqp]
  · rintro ⟨⟨r, hr, hopen⟩, q, hq, hdone, hst⟩
    by_cases hfirst : k ∈ s.firstSlots n
    · exact .inl hfirst
    by_cases hlate : s.LateWith n .aborted k
    · obtain ⟨q', hq', hdone', hst'⟩ := request?_late hlate
      cases ((grows_retired s n tag).done k q' hq' hdone').symm.trans hq
      rw [hst] at hst'
      cases hst'
    · obtain ⟨due, hdue⟩ := request?_giveUpRetry_kept hr hfirst hlate
      rw [State.retired, request?_disableEnded, request?_endAll, hdue] at hq
      split at hq
      · next hlisted =>
        rw [Option.map_some] at hq
        split at hq
        · next hpends => exact .inr ⟨hlisted, by rw [hdue]; exact hpends⟩
        · cases hq; exact absurd hdone hopen
      · cases hq; exact absurd hdone hopen

/-- R180: a listed request that waits is ABORTED, unless its answer times out. -/
theorem request?_retired_listed (hk : k ∈ s.listed n) (hpends : (s.request? n k).any Request.pends = true)
    (hlate : ¬ s.LateWith n .aborted k) (tag : Half) :
    ∃ q, (s.retired n tag).request? n k = some q ∧ q.state = .done ∧ q.outcome = some .aborted := by
  by_cases hfirst : k ∈ s.firstSlots n
  case pos =>
    obtain ⟨-, q, hq, hdone, hst⟩ := request?_firstSlots hfirst
    exact ⟨q, (grows_retired s n tag).done k q hq hdone, hdone, hst⟩
  case neg =>
    obtain ⟨r, hr, hrp⟩ := (Option.any_eq_true _ _).1 hpends
    obtain ⟨due, hdue⟩ := request?_giveUpRetry_kept hr hfirst hlate
    have hlisted : k ∈ (s.giveUpRetry n .aborted true).listed n := by
      have hmiddle : k ∈ (s.retryReported n .aborted).listed n := by
        rw [(firstMade_retryReported s n .aborted).listed]
        exact List.mem_filter.2 ⟨hk, decide_eq_true hfirst⟩
      cases h : (s.line n).sched.retry with
      | none => rw [giveUpRetry_of_none h]; rw [retryReported_of_none h] at hmiddle; exact hmiddle
      | some x =>
        obtain ⟨gone, hunlists, hgone⟩ := unlists_exchangeOver (s.retryReported n .aborted) n x
        have hover : k ∈ ((s.retryReported n .aborted).exchangeOver n x).listed n := by
          rw [hunlists.listed]
          refine List.mem_filter.2 ⟨hmiddle, ?_⟩
          rw [Bool.not_eq_true', Bool.eq_false_iff]
          exact fun hg => hlate ⟨x, h, (hgone k).1 hg⟩
        rw [giveUpRetry_eq h, State.retryOver, ← retryReported_of_some h]
        unfold State.listed at hover ⊢
        rw [pool_unretried]
        exact hover
    have hpends' : Request.pends { r with queryPollDue := due } = true := hrp
    refine ⟨Request.ended { r with queryPollDue := due } .aborted, ?_, rfl, rfl⟩
    rw [State.retired, request?_disableEnded, request?_endAll, if_pos hlisted, hdue, Option.map_some, if_pos hpends']

/-- R180: where no answer times out they are ended in the order of the lists, behind the retry's slot. -/
theorem retired_ordered (hnodup : (s.listed n).Nodup) (hkept : ∀ k, ¬ s.LateWith n .aborted k) (tag : Half) :
    s.retiredSlots n = s.firstSlots n
      ++ ((s.listed n).filter fun k => !(s.firstSlots n).contains k && (s.slotIs n k .waiting || s.slotIs n k .answering))
    ∧ ((s.retired n tag).line n).pool.doneOrder = (s.line n).pool.doneOrder ++ s.retiredSlots n := by
  have hfirst := firstMade_giveUpRetry hkept
  have horder := hfirst.doneOrder hnodup
  have hpending : (s.giveUpRetry n .aborted true).stillOpen n ((s.giveUpRetry n .aborted true).listed n)
      = (s.listed n).filter fun k => !(s.firstSlots n).contains k && (s.slotIs n k .waiting || s.slotIs n k .answering) := by
    rw [stillOpen_eq]
    refine List.append_cancel_left (as := ((s.giveUpRetry n .aborted true).line n).pool.doneOrder) ?_
    rw [← doneOrder_endEach (st := .aborted) onlyOpen_pends _ _ (hfirst.listed ▸ hnodup.filter _), ← endAll_eq_endEach, horder,
      hfirst.made.order, List.append_assoc]
  have hslots : s.retiredSlots n = s.firstSlots n
      ++ ((s.listed n).filter fun k => !(s.firstSlots n).contains k && (s.slotIs n k .waiting || s.slotIs n k .answering)) :=
    congrArg (s.firstSlots n ++ ·) hpending
  refine ⟨hslots, ?_⟩
  rw [State.retired, line_disableEnded, hslots]
  exact horder

end

end Sys2Proof.Machine

/-! LINE_DISABLE, settled (R14, R67, R69, R81, R101, R121, R180). -/

namespace Sys2Proof.Machine

/-- R14, R180: the reads of a line in flight overtaken. -/
def Line.retiring (l : Line) : Line :=
  { l.overtakeFetch with buf := { l.buf with reading := l.buf.reading.map fun _ => true } }

section
variable {s : State} {n : LineNo} {x : Exchange} {k : SlotNo} {tag : Half}

/-- R180: the line as LINE_DISABLE takes it. -/
def State.retiring (s : State) (n : LineNo) : State := s.onLine n Line.retiring

theorem line_retiring (s : State) (n : LineNo) : (s.retiring n).line n = (s.line n).retiring := by
  rw [State.retiring, line_onLine, if_pos rfl]

theorem request?_retiring (s : State) (n : LineNo) (k : SlotNo) : (s.retiring n).request? n k = s.request? n k :=
  request?_congr (by rw [line_retiring]; rfl) k

theorem slotIs_retiring (s : State) (n : LineNo) (k : SlotNo) (st : RequestState) :
    (s.retiring n).slotIs n k st = s.slotIs n k st := by
  rw [slotIs_eq, slotIs_eq, request?_retiring]

theorem listed_retiring (s : State) (n : LineNo) : (s.retiring n).listed n = s.listed n := by
  unfold State.listed
  rw [line_retiring]
  rfl

theorem retry_retiring (s : State) (n : LineNo) : ((s.retiring n).line n).sched.retry = (s.line n).sched.retry := by
  rw [line_retiring]; rfl

theorem firstSlots_retiring (s : State) (n : LineNo) : (s.retiring n).firstSlots n = s.firstSlots n := by
  unfold State.firstSlots State.retrySlots State.slotEnding
  rw [retry_retiring]
  simp only [request?_retiring]

theorem doneOrder_retiring (s : State) (n : LineNo) : ((s.retiring n).line n).pool.doneOrder = (s.line n).pool.doneOrder := by
  rw [line_retiring]; rfl

theorem settling_retiring_others (s : State) (n : LineNo) : State.OthersKept n s (s.retiring n) := fun m hm =>
  ⟨by rw [State.retiring, line_onLine, if_neg hm], rfl⟩

/-! ### The take (R180) -/

/-- R180: with no turn in flight the line goes out of use at once. -/
theorem disableTaken_of_noTurn (h : (s.line n).turn? = none) : s.disableTaken n tag = (s.retiring n).retired n tag := by
  have hturn : (((s.retiring n).giveUpRetry n .aborted true).line n).turn? = none := by
    obtain ⟨b, hb⟩ := line_giveUpRetry_both (s.retiring n) n .aborted
    rw [hb, line_retiring]
    exact h
  have hmade := madeSince_giveUpRetry (s.retiring n) n
  rw [doneOrder_retiring] at hmade
  have hnoTurn : ¬ (((s.retiring n).giveUpRetry n .aborted true).line n).turn?.isSome = true := by
    rw [hturn]; exact Bool.false_ne_true
  exact (if_neg hnoTurn).trans (congrArg (State.disableEnded _ n tag .ok) hmade)

/-- R180: with a turn in flight it waits. -/
theorem disableTaken_of_turn {t : Turn} (h : (s.line n).state = .turn t) (hretry : (s.line n).sched.retry = none) :
    s.disableTaken n tag = { s.retiring n with admin := { s.admin with work := .disabling tag n false .ok [] } } := by
  have hsame : (s.retiring n).giveUpRetry n .aborted true = s.retiring n :=
    giveUpRetry_of_none (by rw [retry_retiring]; exact hretry) ..
  have hturn : ((s.retiring n).line n).turn?.isSome = true := by
    rw [line_retiring, show (s.line n).retiring.turn? = (s.line n).turn? from rfl, turn?_of_state h]; rfl
  have hmade : (s.retiring n).madeSince n (s.line n).pool.doneOrder.length = [] := by
    rw [State.madeSince, doneOrder_retiring, List.drop_length]
  have hform : s.disableTaken n tag = (if (((s.retiring n).giveUpRetry n .aborted true).line n).turn?.isSome = true then
      { (s.retiring n).giveUpRetry n .aborted true with
        admin := { ((s.retiring n).giveUpRetry n .aborted true).admin with
          work := .disabling tag n false .ok ((((s.retiring n).giveUpRetry n .aborted true).madeSince n
            (s.line n).pool.doneOrder.length).filter fun k =>
              decide (((s.retiring n).giveUpRetry n .aborted true).outcome? n k = some .aborted)) } }
    else ((s.retiring n).giveUpRetry n .aborted true).disableEnded n tag .ok
      ((((s.retiring n).giveUpRetry n .aborted true).madeSince n (s.line n).pool.doneOrder.length).filter fun k =>
        decide (((s.retiring n).giveUpRetry n .aborted true).outcome? n k = some .aborted))) := rfl
  rw [hform, hsame, if_pos hturn, hmade]
  rfl

theorem line_retired (s : State) (n : LineNo) (tag : Half) : ∃ reserved, ((s.retiring n).retired n tag).line n
    = { (s.line n).retiring with
        sched := .reset, txBuf := [], buf := { (s.line n).retiring.buf with reserved := reserved }
        pool := (((s.retiring n).retired n tag).line n).pool } := by
  obtain ⟨reserved, hb⟩ := line_giveUpRetry_both (s.retiring n) n .aborted
  refine ⟨reserved, ?_⟩
  rw [State.retired, line_disableEnded, hb, line_retiring]
  rfl

theorem settling_retired (s : State) (n : LineNo) (tag : Half) : State.Settling n s (s.retired n tag) :=
  (settling_giveUpRetry n s .aborted true).trans (settling_disableEnded n _ tag .ok _)

theorem admin_retired (s : State) (n : LineNo) (tag : Half) :
    (s.retired n tag).admin = { s.admin with work := .disabling tag n true .ok (s.retiredSlots n) } := by
  rw [State.retired, admin_disableEnded, admin_giveUpRetry]
  rfl

theorem ring_retired (s : State) (n : LineNo) (tag : Half) : (s.retired n tag).ring n = (s.ring n).map Station.resync := by
  rw [State.retired, ring_disableEnded]
  exact sameResync_giveUpRetry s n .aborted

theorem events_retired (s : State) (n : LineNo) (tag : Half) :
    ((s.line n).sched.retry = none → (s.retired n tag).events = s.events)
    ∧ ∀ x e, (s.line n).sched.retry = some x → x.station = some e.address → s.station? n e.address = some e →
      (s.retired n tag).events = ((abandonRecords n x e).foldl State.offer s).events := by
  refine ⟨fun h => ?_, fun x e h hstation hentry => ?_⟩
  · rw [State.retired, events_disableEnded, giveUpRetry_of_none h]
  · rw [State.retired, events_disableEnded, giveUpRetry_eq h]
    exact events_retryOver hstation hentry

/-- R180: an answer that times out keeps that outcome. -/
theorem request?_retired_late (h : s.LateWith n .aborted k) (tag : Half) :
    ∃ q, (s.retired n tag).request? n k = some q ∧ q.state = .done ∧ q.outcome = some .answerTimeout := by
  obtain ⟨q, hq, hdone, hst⟩ := request?_late h
  exact ⟨q, (grows_retired s n tag).done k q hq hdone, hdone, hst⟩

/-- R121: the head of the station of a SYNC's retry. -/
theorem lateWith_of_head {e : Station} {rest : List SlotNo} {r : Request} {d : Nat} (hrunning : s.control.device = .running)
    (hretry : (s.line n).sched.retry = some x) (hslot : x.slot = none) (hstation : x.station = some e.address)
    (hentry : s.station? n e.address = some e) (hlist : e.pending = k :: rest) (hr : s.request? n k = some r)
    (hstate : r.state = .answering) (hdeadline : r.answerDeadline = some d) (hle : d ≤ s.now) : s.LateWith n .aborted k := by
  have hsame : s.overRetry n x .aborted = s := by rw [State.overRetry, hslot]; rfl
  refine ⟨x, hretry, ?_⟩
  rw [retryReported_of_some hretry, timesOut_reportAbandoned, hsame]
  exact ⟨hrunning, e, r, d, entryOf_of_station hstation hentry, by rw [hlist]; rfl, hr, hstate, hdeadline, hle⟩

/-! ### The completion (R180) -/

theorem exec_lineDisableComplete {st : AdminStatus} {made : List SlotNo} (hactive : s.active = true)
    (hwork : s.admin.work = .disabling tag n true st made) : exec .lineDisableComplete s
      = .next (if ((s.disableLine n).line n).enabled = false ∧ (s.disableLine n).allEntered n made = true then
          (s.disableLine n).completeAdmin tag st 0 0 else s.disableLine n) := by
  change Host.Outcome.next s.afterDisableComplete = _
  simp only [State.afterDisableComplete, hactive, hwork]

end

/-! ### The command -/

section
variable {s : State} {n : LineNo} {a : Access} {rec : List Byte}

theorem exec_lineDisable (hawaits : s.AwaitsAdmin a 2 rec) (hn : (byteAt rec 1).toNat = n.val) :
    exec (.lineDisable rec) s = .next (if ((s.finishAccess a).line n).enabled then
        (s.finishAccess a).disableTaken n (halfAt rec 2)
      else (s.finishAccess a).completeAdmin (halfAt rec 2) .wrongState 0 0) := by
  have hok : (adminLineNo rec).isSome = true := by rw [adminLineNo_of_byte hn]; rfl
  refine (congrArg Host.Outcome.next (executed_of_awaitsAdmin hawaits (ok := fun _ => (adminLineNo rec).isSome) hok _)).trans ?_
  rw [State.lineDisable, lineNamed_of_byte hn]
  rfl

end

/-- Settles O29 (R14, R67, R69, R81, R101, R121, R180). -/
theorem lineDisableTakesLineOff : Obligations.LineDisableTakesLineOff := by
  refine ⟨fun s n a rec hawaits hn => ⟨fun hdisabled => ?disabled, fun x hstate hretry => ?waits,
    fun listed first hstate hlisted hfirst => ?taken⟩,
    fun s n tag st made hactive hwork hfetch hreading => ⟨fun hentered => ?completes, fun hqueued => ?goesOn⟩,
    fun s n tag ended st made hwork hbefore => ?before⟩
  case disabled =>
    have hnot : ¬ ((s.finishAccess a).line n).enabled = true := fun h => (Line.enabled_iff _).1 h hdisabled
    rw [exec_lineDisable hawaits hn, if_neg hnot]
  case waits =>
    have henabled : ((s.finishAccess a).line n).enabled = true := (Line.enabled_iff _).2 (by
      rw [show ((s.finishAccess a).line n).state = .turn x from hstate]; intro h; cases h)
    rw [exec_lineDisable hawaits hn, if_pos henabled, disableTaken_of_turn (s := s.finishAccess a) hstate hretry]
    rfl
  case taken =>
    have henabled : ((s.finishAccess a).line n).enabled = true := (Line.enabled_iff _).2 (by
      rcases hstate with h | h <;> rw [show ((s.finishAccess a).line n).state = _ from h] <;> intro h' <;> cases h')
    have hturn : ((s.finishAccess a).line n).turn? = none := by
      rcases hstate with h | h <;> rw [Line.turn?, show ((s.finishAccess a).line n).state = _ from h]
    have hrun := exec_lineDisable hawaits hn
    rw [if_pos henabled, disableTaken_of_noTurn hturn] at hrun
    set b := (s.finishAccess a).retiring n with hb
    have hslots : ∀ k, b.request? n k = s.request? n k := request?_retiring (s.finishAccess a) n
    have hretries : (b.line n).sched.retry = (s.line n).sched.retry := retry_retiring (s.finishAccess a) n
    have hlists : b.listed n = listed := (listed_retiring (s.finishAccess a) n).trans hlisted.symm
    have hfirst' : b.firstSlots n = first := by
      rw [hb, firstSlots_retiring, hfirst, State.firstSlots, 
        show ((s.finishAccess a).line n).sched.retry = (s.line n).sched.retry from rfl]
      cases (s.line n).sched.retry with
      | none => rfl
      | some x =>
        refine List.filter_congr fun k _ => ?_
        rw [show (s.finishAccess a).request? n k = s.request? n k from rfl]
        cases s.request? n k <;> rfl
    obtain ⟨reserved, hline⟩ := line_retired (s.finishAccess a) n (halfAt rec 2)
    have hsettling := settling_retired b n (halfAt rec 2)
    obtain ⟨hcontrol, hsq, hcq, hbq, her, -⟩ := hsettling.device
    obtain ⟨hquiet, hevents⟩ := events_retired b n (halfAt rec 2)
    refine ⟨_, b.retiredSlots n, hrun, admin_retired b n (halfAt rec 2), fun k => ?mem, fun k hk hpends hcond => ?listedEnded,
      fun x c e k rest r d hrunning hretry hslot hstation hentry hlist hr hanswering hdeadline hle => ?late,
      fun hnodup hkept => ?ordered, ?fetch, ?reading, ?ring, ?sched, ?txBuf, ?state, ?config, ?cache, ?queue,
      fun x k r hretry hslot hr hopen => ?slot, fun hretry => ?quiet, fun x c e hretry hstation hentry => ?events,
      hcontrol, hsq, hcq, hbq, her, fun m hm => ?others⟩
    case mem => rw [mem_retiredSlots (halfAt rec 2), hslots]
    case listedEnded =>
      refine request?_retired_listed (hlists ▸ hk) ?_ (fun hlate => ?_) (halfAt rec 2)
      · rw [hslots, ← pends_eq]; exact Bool.or_eq_true_iff.2 hpends
      · obtain ⟨hrunning, hnotFirst, ⟨x, f, hretry, hstation, hf, hmem⟩, r, d, hr, hanswering, hdeadline, hle⟩ := hlate.late
        rw [hslots] at hr
        rw [hretries] at hretry
        rcases hcond hrunning x hretry with hslot | hother | hdue
        · have hopen : (b.request? n k).any Request.isOpen = true := by
            rw [hslots, hr]; exact decide_eq_true (by rw [hanswering]; decide)
          refine hnotFirst ?_
          rw [firstSlots_of_some (hretries.trans hretry)]
          exact mem_retrySlots.2 ⟨hslot, hopen⟩
        · exact hother f hf hmem hstation
        · exact absurd (hdue r d hr hanswering hdeadline) (Nat.not_lt.2 hle)
    case late =>
      have haddress : e.address = c := (station?_key hentry).2
      exact request?_retired_late (lateWith_of_head (s := b) hrunning (hretries.trans hretry) hslot
        (hstation.trans (congrArg some haddress.symm)) (haddress ▸ hentry) hlist ((hslots k).trans hr) hanswering hdeadline hle)
        (halfAt rec 2)
    case ordered =>
      have hnone : ∀ k, ¬ b.LateWith n .aborted k := fun k hlate => by
        obtain ⟨hrunning, hnotFirst, ⟨x, f, hretry, -, -, -⟩, r, d, hr, hanswering, hdeadline, hle⟩ := hlate.late
        rw [hretries] at hretry
        rw [hslots] at hr
        rcases hkept k r d (by rw [hretry]; rfl) hrunning hr hanswering hdeadline with hlt | hmem
        · exact absurd hlt (Nat.not_lt.2 hle)
        · exact hnotFirst (hfirst' ▸ hmem)
      obtain ⟨hmade, horder⟩ := retired_ordered (by rw [hlists]; exact hnodup) hnone (halfAt rec 2)
      rw [doneOrder_retiring] at horder
      refine ⟨?_, horder⟩
      rw [hmade, hlists, hfirst', hb]
      simp only [slotIs_retiring]
      rfl
    case ring => exact ring_retired b n (halfAt rec 2)
    case slot =>
      have hdone : (b.giveUpRetry n .aborted true).request? n k = some ((x.unanswered r).ended .aborted) :=
        (request?_giveUpRetry (hretries.trans hretry) .aborted k).trans
          (request?_retryOver_self hslot ((hslots k).trans hr) hopen)
      exact ⟨_, (grows_retired b n (halfAt rec 2)).done k _ hdone rfl, rfl, rfl, rfl⟩
    case quiet => exact hquiet (hretries.trans hretry)
    case events =>
      have haddress : e.address = c := (station?_key hentry).2
      have hrecords := hevents x e (hretries.trans hretry) (hstation.trans (congrArg some haddress.symm)) (haddress ▸ hentry)
      refine ⟨fun hcosts => ?_, fun hfree => ?_⟩
      · rw [abandonRecords, if_pos ((costs_iff x e).2 hcosts), haddress] at hrecords
        exact hrecords.trans (events_offer_congr (s := s) (t := b) rfl rfl rfl _)
      · rw [abandonRecords, if_neg (mt (costs_iff x e).1 hfree)] at hrecords
        exact hrecords
    case others =>
      obtain ⟨hlineOf, hringOf⟩ := settling_retiring_others (s.finishAccess a) n m hm
      exact ⟨(hsettling.others m hm).1.trans hlineOf, (hsettling.others m hm).2.trans hringOf⟩
    case txBuf => rw [hline]
    all_goals
      rw [hline]
      rfl
  case completes =>
    have hoff : s.disableLine n = s.onLine n fun l => { l with
        state := .disabled, de := false, rx := .reset, buf := { l.buf with cache := [], reserved := false } } :=
      if_pos ⟨by rw [hfetch]; rfl, by rw [hreading]; rfl⟩
    have hready : ((s.disableLine n).line n).enabled = false ∧ (s.disableLine n).allEntered n made = true := by
      rw [allEntered_iff, hoff, line_onLine, if_pos rfl]
      exact ⟨rfl, hentered⟩
    rw [exec_lineDisableComplete hactive hwork, if_pos hready, hoff]
    rfl
  case goesOn =>
    have hoff : s.disableLine n = s.onLine n fun l => { l with
        state := .disabled, de := false, rx := .reset, buf := { l.buf with cache := [], reserved := false } } :=
      if_pos ⟨by rw [hfetch]; rfl, by rw [hreading]; rfl⟩
    have hnot : ¬ (((s.disableLine n).line n).enabled = false ∧ (s.disableLine n).allEntered n made = true) := by
      rw [allEntered_iff, hoff, line_onLine, if_pos rfl]
      rintro ⟨-, h⟩
      obtain ⟨k, hk, hin⟩ := hqueued
      exact h k hk hin
    rw [exec_lineDisableComplete hactive hwork, if_neg hnot, hoff]
    rfl
  case before =>
    have hsame : s.afterDisableComplete = s := by
      cases hactive : s.active with
      | false => simp [State.afterDisableComplete, hactive]
      | true =>
        rcases hbefore with rfl | ⟨hon, hreads⟩
        · simp [State.afterDisableComplete, hactive, hwork]
        · cases ended with
          | false => simp [State.afterDisableComplete, hactive, hwork]
          | true =>
            have hkeep : s.disableLine n = s := if_neg fun ⟨hf, hr⟩ => by
              rcases hreads with h | h
              · exact h (Option.isNone_iff_eq_none.1 hf)
              · exact h (Option.isNone_iff_eq_none.1 hr)
            have henabled : (s.line n).enabled = true := (Line.enabled_iff _).2 hon
            simp [State.afterDisableComplete, hactive, hwork, hkeep, henabled]
    exact congrArg Host.Outcome.next hsame

end Sys2Proof.Machine

/-! The lists STOP ends and those it leaves to their turns (R133, R167). -/

namespace Sys2Proof.Machine

section
variable {s t u : State} {n : LineNo} {st : LineStatus} {k : SlotNo} {ks : List SlotNo} {e : Station}

/-! ### Lists left to their turns (R133, R167) -/

theorem leftToTurn_eq (s : State) (n : LineNo) (ks : List SlotNo) (storing : Bool) :
    s.leftToTurn n ks storing = (storing || ks.head?.any fun k => s.slotIs n k .active) := by
  cases ks <;> rfl

theorem not_leftToTurn_of_idle (hidle : ∀ k ∈ ks, s.slotIs n k .active = false) : s.leftToTurn n ks false = false := by
  rw [leftToTurn_eq, Bool.false_or]
  cases ks with
  | nil => rfl
  | cons k rest => exact hidle k (List.mem_cons_self ..)

/-- Ending what waits changes no ACTIVE slot. -/
theorem slotIs_active_endAll (s : State) (n : LineNo) (st : LineStatus) (ks : List SlotNo) (k : SlotNo) :
    (s.endAll n st ks).slotIs n k .active = s.slotIs n k .active := by
  rw [slotIs_eq, slotIs_eq, request?_endAll]
  split
  case isFalse => rfl
  case isTrue =>
    cases s.request? n k with
    | none => rfl
    | some r =>
      by_cases hpends : r.pends = true
      · have hother : r.state ≠ .active := fun h => by rw [Request.pends, h] at hpends; cases hpends
        simp [hpends, Request.ended, hother]
      · simp [hpends]

theorem leftToTurn_endAll (s : State) (n : LineNo) (st : LineStatus) (ks js : List SlotNo) (storing : Bool) :
    (s.endAll n st ks).leftToTurn n js storing = s.leftToTurn n js storing := by
  simp only [leftToTurn_eq, slotIs_active_endAll]

theorem turn?_endAll (s : State) (n : LineNo) (st : LineStatus) (ks : List SlotNo) :
    ((s.endAll n st ks).line n).turn? = (s.line n).turn? := by
  rw [(onlyRequests_endAll n s st ks).line]; rfl

theorem storingAnswer_congr {l m : Line} (h : m.turn? = l.turn?) (a : Byte) : m.storingAnswer a = l.storingAnswer a := by
  unfold Line.storingAnswer
  rw [h]

/-- R167: a station's list left to its turn. -/
def State.entryLeft (s : State) (n : LineNo) (e : Station) : Bool :=
  s.leftToTurn n e.pending ((s.line n).storingAnswer e.address)

theorem entryLeft_endAll (s : State) (n : LineNo) (st : LineStatus) (ks : List SlotNo) (e : Station) :
    (s.endAll n st ks).entryLeft n e = s.entryLeft n e := by
  rw [State.entryLeft, leftToTurn_endAll, storingAnswer_congr (turn?_endAll s n st ks)]
  rfl

/-! ### The slots STOP takes, in order (R167) -/

/-- Those of the stations' lists, in ring order. -/
def State.stationSlots (s : State) (n : LineNo) : List SlotNo :=
  ((s.ring n).filter fun e => !s.entryLeft n e).flatMap Station.pending

/-- The stations' lists ended. -/
def State.stationsStopped (s : State) (n : LineNo) : State := s.endAll n .aborted (s.stationSlots n)

/-- Those of the broadcast list, once the stations' are ended. -/
def State.broadcastSlots (s : State) (n : LineNo) : List SlotNo :=
  if (s.stationsStopped n).leftToTurn n ((s.stationsStopped n).line n).pool.broadcast false then []
  else ((s.stationsStopped n).line n).pool.broadcast

theorem endAll_append (s : State) (n : LineNo) (st : LineStatus) (ks js : List SlotNo) :
    s.endAll n st (ks ++ js) = (s.endAll n st ks).endAll n st js := List.foldl_append

theorem foldl_endAll_of_entryLeft (s : State) (n : LineNo) : ∀ (es : List Station) (u : State),
    (∀ e, u.entryLeft n e = s.entryLeft n e) →
    es.foldl (fun t e => if t.leftToTurn n e.pending ((t.line n).storingAnswer e.address) then t else t.endAll n .aborted e.pending) u
      = u.endAll n .aborted ((es.filter fun e => !s.entryLeft n e).flatMap Station.pending)
  | [], _, _ => rfl
  | e :: es, u, hu => by
    rw [List.foldl_cons, List.filter_cons]
    by_cases hleft : s.entryLeft n e = true
    · have hsame : u.leftToTurn n e.pending ((u.line n).storingAnswer e.address) = true := (hu e).trans hleft
      rw [if_pos hsame, hleft, Bool.not_true, if_neg Bool.false_ne_true]
      exact foldl_endAll_of_entryLeft s n es u hu
    · have hsame : ¬ u.leftToTurn n e.pending ((u.line n).storingAnswer e.address) = true := fun h => hleft ((hu e).symm.trans h)
      rw [if_neg hsame, Bool.eq_false_iff.2 hleft, Bool.not_false, if_pos rfl, List.flatMap_cons, endAll_append]
      exact foldl_endAll_of_entryLeft s n es _ fun f => (entryLeft_endAll u n .aborted e.pending f).trans (hu f)

/-- STOP ends the slots of the lists that are not left, those of the stations first. -/
theorem stopSlots_eq (s : State) (n : LineNo) : s.stopSlots n = s.endAll n .aborted (s.stationSlots n ++ s.broadcastSlots n) := by
  have hstations := foldl_endAll_of_entryLeft s n (s.ring n) s fun _ => rfl
  rw [endAll_append, State.broadcastSlots]
  unfold State.stopSlots
  dsimp only
  rw [hstations]
  change (if (s.stationsStopped n).leftToTurn n ((s.stationsStopped n).line n).pool.broadcast false then s.stationsStopped n
    else (s.stationsStopped n).endAll n .aborted ((s.stationsStopped n).line n).pool.broadcast) = _
  split <;> rfl

theorem mem_stationSlots : k ∈ s.stationSlots n ↔ ∃ e ∈ s.ring n, s.entryLeft n e = false ∧ k ∈ e.pending := by
  simp only [State.stationSlots, List.mem_flatMap, List.mem_filter, Bool.not_eq_true', and_assoc]

theorem broadcast_stationsStopped (s : State) (n : LineNo) : ((s.stationsStopped n).line n).pool.broadcast
    = (s.line n).pool.broadcast.filter fun j => !(decide (j ∈ s.stationSlots n) && (s.request? n j).any Request.pends) :=
  (unlists_endAll s n .aborted (s.stationSlots n)).broadcast

theorem mem_broadcast_of_stationsStopped (h : k ∈ ((s.stationsStopped n).line n).pool.broadcast) : k ∈ (s.line n).pool.broadcast := by
  rw [broadcast_stationsStopped] at h
  exact (List.mem_filter.1 h).1

/-- Where the lists hold no slot twice, ending the stations' leaves the broadcast list. -/
theorem broadcast_stationsStopped_of_nodup (hnodup : (s.listed n).Nodup) :
    ((s.stationsStopped n).line n).pool.broadcast = (s.line n).pool.broadcast := by
  rw [broadcast_stationsStopped]
  refine List.filter_eq_self.2 fun j hj => ?_
  have hnot : j ∉ s.stationSlots n := fun h => by
    obtain ⟨e, he, -, hmem⟩ := mem_stationSlots.1 h
    exact (List.disjoint_of_nodup_append hnodup) (List.mem_flatMap.2 ⟨e, he, hmem⟩) hj
  rw [decide_eq_false hnot, Bool.false_and, Bool.not_false]

theorem mem_broadcast_of_broadcastSlots (h : k ∈ s.broadcastSlots n) : k ∈ (s.line n).pool.broadcast := by
  unfold State.broadcastSlots at h
  split at h
  · exact (List.not_mem_nil h).elim
  · exact mem_broadcast_of_stationsStopped h

/-! ### What becomes of the requests (R167) -/

theorem request?_stopSlots (s : State) (n : LineNo) (k : SlotNo) : (s.stopSlots n).request? n k
    = if k ∈ s.stationSlots n ++ s.broadcastSlots n then
        (s.request? n k).map fun r => if r.pends then r.ended .aborted else r
      else s.request? n k := by
  rw [stopSlots_eq]
  exact request?_endAll ..

theorem onlyRequests_stopSlots (s : State) (n : LineNo) : State.OnlyRequests n s (s.stopSlots n) := by
  rw [stopSlots_eq]
  exact onlyRequests_endAll ..

theorem grows_stopSlots (s : State) (n : LineNo) : State.Grows n s (s.stopSlots n) := by
  rw [stopSlots_eq]
  exact grows_endAll ..

theorem stopSlots_ended (hk : k ∈ s.stationSlots n ++ s.broadcastSlots n) (hpends : (s.request? n k).any Request.pends = true) :
    ∃ q, (s.stopSlots n).request? n k = some q ∧ q.state = .done ∧ q.outcome = some .aborted := by
  obtain ⟨r, hr, hrp⟩ := (Option.any_eq_true _ _).1 hpends
  refine ⟨r.ended .aborted, ?_, rfl, rfl⟩
  rw [request?_stopSlots, if_pos hk, hr, Option.map_some, if_pos hrp]

/-- R167: the list of an entry that is not left. -/
theorem stopSlots_ended_station (he : e ∈ s.ring n) (hleft : s.entryLeft n e = false) (hk : k ∈ e.pending)
    (hpends : (s.request? n k).any Request.pends = true) :
    ∃ q, (s.stopSlots n).request? n k = some q ∧ q.state = .done ∧ q.outcome = some .aborted :=
  stopSlots_ended (List.mem_append_left _ (mem_stationSlots.2 ⟨e, he, hleft, hk⟩)) hpends

/-- R167: a broadcast list without an ACTIVE slot. -/
theorem stopSlots_ended_broadcast (hidle : ∀ j ∈ (s.line n).pool.broadcast, s.slotIs n j .active = false)
    (hk : k ∈ (s.line n).pool.broadcast) (hpends : (s.request? n k).any Request.pends = true) :
    ∃ q, (s.stopSlots n).request? n k = some q ∧ q.state = .done ∧ q.outcome = some .aborted := by
  refine stopSlots_ended (List.mem_append.2 ?_) hpends
  by_cases hstation : k ∈ s.stationSlots n
  · exact .inl hstation
  have hlisted : k ∈ ((s.stationsStopped n).line n).pool.broadcast := by
    rw [broadcast_stationsStopped]
    exact List.mem_filter.2 ⟨hk, by rw [decide_eq_false hstation]; rfl⟩
  have hnot : (s.stationsStopped n).leftToTurn n ((s.stationsStopped n).line n).pool.broadcast false = false :=
    not_leftToTurn_of_idle fun j hj => (slotIs_active_endAll ..).trans (hidle j (mem_broadcast_of_stationsStopped hj))
  rw [State.broadcastSlots, hnot, if_neg Bool.false_ne_true]
  exact .inr hlisted

/-- R133, R167: the list of an entry that is left. -/
theorem stopSlots_kept_station (hnodup : (s.listed n).Nodup) (he : e ∈ s.ring n) (hleft : s.entryLeft n e = true)
    (hk : k ∈ e.pending) : (s.stopSlots n).request? n k = s.request? n k := by
  rw [request?_stopSlots, if_neg]
  intro h
  rcases List.mem_append.1 h with hstation | hbroadcast
  · obtain ⟨f, hf, hnotLeft, hmem⟩ := mem_stationSlots.1 hstation
    have hne : e ≠ f := fun h => by rw [h, hnotLeft] at hleft; cases hleft
    have hpairwise := (List.nodup_flatMap.1 (List.nodup_append.1 hnodup).1).2
    have hsymm : Std.Symm fun a b : Station => List.Disjoint a.pending b.pending := ⟨fun _ _ h => h.symm⟩
    exact List.Pairwise.forall (R := fun a b : Station => List.Disjoint a.pending b.pending) hpairwise he hf hne hk hmem
  · exact List.disjoint_of_nodup_append hnodup (List.mem_flatMap.2 ⟨e, he, hk⟩) (mem_broadcast_of_broadcastSlots hbroadcast)

/-- R167: a broadcast list whose head is ACTIVE. -/
theorem stopSlots_kept_broadcast (hnodup : (s.listed n).Nodup) (hleft : s.leftToTurn n (s.line n).pool.broadcast false = true) :
    ((s.stopSlots n).line n).pool.broadcast = (s.line n).pool.broadcast
      ∧ ∀ k ∈ (s.line n).pool.broadcast, (s.stopSlots n).request? n k = s.request? n k := by
  have hbroadcast := broadcast_stationsStopped_of_nodup hnodup
  have hnone : s.broadcastSlots n = [] := by
    rw [State.broadcastSlots, hbroadcast]
    exact if_pos ((leftToTurn_endAll ..).trans hleft)
  refine ⟨?_, fun k hk => ?_⟩
  · rw [stopSlots_eq, hnone, List.append_nil]
    exact hbroadcast
  · rw [request?_stopSlots, hnone, List.append_nil, if_neg]
    intro h
    obtain ⟨e, he, -, hmem⟩ := mem_stationSlots.1 h
    exact List.disjoint_of_nodup_append hnodup (List.mem_flatMap.2 ⟨e, he, hmem⟩) hk

/-- R167: with no turn in flight and nothing ACTIVE, every list is ended. -/
theorem stopSlots_of_idle (hnodup : (s.listed n).Nodup) (hturn : (s.line n).turn? = none)
    (hidle : ∀ k ∈ s.listed n, s.slotIs n k .active = false) : s.stopSlots n = s.endAll n .aborted (s.listed n) := by
  have hfree : ∀ e ∈ s.ring n, s.entryLeft n e = false := fun e he => by
    have hstoring : (s.line n).storingAnswer e.address = false := by unfold Line.storingAnswer; rw [hturn]
    rw [State.entryLeft, hstoring]
    exact not_leftToTurn_of_idle fun k hk => hidle k (List.mem_append_left _ (List.mem_flatMap.2 ⟨e, he, hk⟩))
  have hstations : s.stationSlots n = (s.ring n).flatMap Station.pending := by
    rw [State.stationSlots, List.filter_eq_self.2 fun e he => by rw [hfree e he]; rfl]
  have hbroadcast : s.broadcastSlots n = (s.line n).pool.broadcast := by
    have hnot : s.leftToTurn n (s.line n).pool.broadcast false = false :=
      not_leftToTurn_of_idle fun k hk => hidle k (List.mem_append_right _ hk)
    rw [State.broadcastSlots, broadcast_stationsStopped_of_nodup hnodup]
    exact if_neg (by rw [State.stationsStopped, leftToTurn_endAll, hnot]; exact Bool.false_ne_true)
  rw [stopSlots_eq, hstations, hbroadcast]
  rfl

end

end Sys2Proof.Machine

/-! STOP on one line: its retry given up, its lists ended (R14, R67, R93, R127, R167). -/

namespace Sys2Proof.Machine

/-! ### A retry given up on a device that is not RUNNING -/

section
variable {s : State} {n : LineNo} {st : LineStatus} {k : SlotNo} {a : Byte} {e : Station} {x : Exchange}

theorem exchangeOver_of_not_running (h : s.control.device ≠ .running) : s.exchangeOver n x = s :=
  if_neg (mt of_decide_eq_true h)

/-- R67: what the end of the retry pending costs the entry of address `a`. -/
def State.retryCosts (s : State) (n : LineNo) (e : Station) : Bool :=
  (s.line n).sched.retry.any fun x => decide (x.station = some e.address) && x.costs e

/-- R69: the records of the retry pending given up. -/
def State.retryRecords (s : State) (n : LineNo) : List EventRecord :=
  (s.line n).sched.retry.elim [] fun x => (s.entryOf n x).elim [] fun e => abandonRecords n x e

theorem control_retryReported (s : State) (n : LineNo) (st : LineStatus) : (s.retryReported n st).control = s.control := by
  cases h : (s.line n).sched.retry with
  | none => rw [retryReported_of_none h]
  | some x => rw [retryReported_of_some h, control_reportAbandoned, (onlyRequests_overRetry (s := s)).control]

theorem entryOf_overRetry (s : State) (n : LineNo) (x : Exchange) (st : LineStatus) : (s.overRetry n x st).entryOf n x
    = (s.entryOf n x).map fun e => e.without fun j => decide (j ∈ s.retrySlots n x) := by
  unfold State.entryOf
  cases x.station with
  | none => rfl
  | some a => exact unlists_overRetry.station? a

/-- Each entry loses the retry's slot and, if the retry had cost it its step, its step. -/
theorem station?_retryReported (hentry : s.station? n a = some e) : (s.retryReported n st).station? n a
    = some { e with outOfStep := e.outOfStep || s.retryCosts n e, pending := e.pending.filter fun j => decide (j ∉ s.firstSlots n) } := by
  obtain rfl : e.address = a := (station?_key hentry).2
  cases h : (s.line n).sched.retry with
  | none =>
    have hfree : s.retryCosts n e = false := by rw [State.retryCosts, h]; rfl
    rw [retryReported_of_none h, hentry, hfree, firstSlots_of_none h, Bool.or_false]
    simp
  | some x =>
    have hcosts : s.retryCosts n e = (decide (x.station = some e.address) && x.costs e) := by rw [State.retryCosts, h]; rfl
    have hmiddle : (s.overRetry n x st).station? n e.address
        = some { e with pending := e.pending.filter fun j => decide (j ∉ s.firstSlots n) } := by
      rw [unlists_overRetry.station?, hentry, firstSlots_of_some h, Option.map_some, Station.without]
      simp only [← decide_not]
    rw [retryReported_of_some h, hcosts]
    by_cases hstation : x.station = some e.address
    · have hfound := entryOf_of_station (e := { e with pending := e.pending.filter fun j => decide (j ∉ s.firstSlots n) })
        hstation hmiddle
      rw [reportAbandoned_of_entry hfound, decide_eq_true hstation, Bool.true_and]
      exact station?_reported_self (steady_abandons ..).key _ hmiddle
    · rw [decide_eq_false hstation, Bool.false_and, Bool.or_false, ← hmiddle]
      rcases reportAbandoned_cases (s.overRetry n x st) n x with hsame | ⟨f, hf, hreported⟩
      · rw [hsame]
      · have hother : e.address ≠ f.address := fun h => hstation (by rw [h]; exact (entryOf_eq_some hf).1)
        rw [hreported, station?_reported (steady_abandons ..).key, if_neg hother]

/-- The ring with the retry's slot taken off its list. -/
theorem ring_retryReported (s : State) (n : LineNo) (st : LineStatus) : ∃ g : Station → Station,
    (s.retryReported n st).ring n = (s.ring n).map g
      ∧ ∀ e, (g e).address = e.address ∧ (g e).pending = e.pending.filter fun j => decide (j ∉ s.firstSlots n) := by
  cases h : (s.line n).sched.retry with
  | none => exact ⟨id, by rw [retryReported_of_none h, List.map_id], fun e => ⟨rfl, by simp [firstSlots_of_none h]⟩⟩
  | some x =>
    rw [retryReported_of_some h, firstSlots_of_some h]
    have hring := (unlists_overRetry (s := s) (n := n) (x := x) (st := st)).ring
    rcases reportAbandoned_cases (s.overRetry n x st) n x with hsame | ⟨f, -, hreported⟩
    · refine ⟨fun e => e.without fun j => decide (j ∈ s.retrySlots n x), by rw [hsame]; exact hring, fun e => ⟨rfl, ?_⟩⟩
      simp only [Station.without, ← decide_not]
    · refine ⟨fun e => if (e.without fun j => decide (j ∈ s.retrySlots n x)).address = f.address then
          x.abandons f (e.without fun j => decide (j ∈ s.retrySlots n x)) else e.without fun j => decide (j ∈ s.retrySlots n x),
        ?_, fun e => ⟨?_, ?_⟩⟩
      · rw [hreported, ring_reported _ _ _ _ _ (steady_abandons x f).key, hring, List.map_map]
        rfl
      · dsimp only
        split <;> rfl
      · dsimp only
        split <;> simp only [Exchange.abandons, Station.without, ← decide_not]

theorem broadcast_retryReported (s : State) (n : LineNo) (st : LineStatus) : ((s.retryReported n st).line n).pool.broadcast
    = (s.line n).pool.broadcast.filter fun j => decide (j ∉ s.firstSlots n) := by
  cases h : (s.line n).sched.retry with
  | none => rw [retryReported_of_none h, firstSlots_of_none h]; simp
  | some x =>
    rw [retryReported_of_some h, line_reportAbandoned, unlists_overRetry.broadcast, firstSlots_of_some h]
    simp only [← decide_not]

theorem request?_retryReported_of_ne (hk : k ∉ s.firstSlots n) : (s.retryReported n st).request? n k = s.request? n k := by
  cases h : (s.line n).sched.retry with
  | none => rw [retryReported_of_none h]
  | some x =>
    rw [firstSlots_of_some h] at hk
    rw [retryReported_of_some h, request?_reportAbandoned, request?_overRetry_of_ne hk]

theorem events_retryReported (s : State) (n : LineNo) (st : LineStatus) :
    (s.retryReported n st).events = ((s.retryRecords n).foldl State.offer s).events := by
  cases h : (s.line n).sched.retry with
  | none => rw [retryReported_of_none h, State.retryRecords, h]; rfl
  | some x =>
    have honly : State.OnlyRequests n s (s.overRetry n x st) := onlyRequests_overRetry
    rw [retryReported_of_some h, events_reportAbandoned, entryOf_overRetry, State.retryRecords, h, Option.elim_some]
    have hrecords : ((s.entryOf n x).map fun e => e.without fun j => decide (j ∈ s.retrySlots n x)).elim []
        (fun e => abandonRecords n x e) = (s.entryOf n x).elim [] fun e => abandonRecords n x e := by
      cases s.entryOf n x <;> rfl
    rw [hrecords]
    exact events_foldl_offer_congr _ honly.control honly.er honly.events

theorem port_retryReported (s : State) (n : LineNo) (st : LineStatus) : (s.retryReported n st).port = s.port := by
  cases h : (s.line n).sched.retry with
  | none => rw [retryReported_of_none h]
  | some x => rw [retryReported_of_some h, port_reportAbandoned, (onlyRequests_overRetry (s := s)).port]

/-- Nothing more comes of it but the line's scheduler and buffers. -/
theorem giveUpRetry_of_not_running (h : s.control.device ≠ .running) (st : LineStatus) :
    ((s.giveUpRetry n st true).line n).pool = ((s.retryReported n st).line n).pool
      ∧ (s.giveUpRetry n st true).stations = (s.retryReported n st).stations
      ∧ (s.giveUpRetry n st true).events = (s.retryReported n st).events
      ∧ (s.giveUpRetry n st true).port = (s.retryReported n st).port := by
  cases hretry : (s.line n).sched.retry with
  | none => rw [giveUpRetry_of_none hretry, retryReported_of_none hretry]; exact ⟨rfl, rfl, rfl, rfl⟩
  | some x =>
    have hover : (s.retryReported n st).exchangeOver n x = s.retryReported n st :=
      exchangeOver_of_not_running (by rw [control_retryReported]; exact h)
    rw [giveUpRetry_eq hretry, State.retryOver, ← retryReported_of_some hretry, hover]
    exact ⟨pool_unretried .., rfl, rfl, rfl⟩

end

end Sys2Proof.Machine

/-! STOP on one line, what it leaves of the line (R14, R93, R127, R133, R135, R167). -/

namespace Sys2Proof.Machine

/-- R14, R127, R167: the reads of a line in flight overtaken, its poll timer stopped. -/
def Line.stopMarked (l : Line) : Line :=
  { l with
    fetch := l.fetch.map fun f => { f with overtaken := true }
    buf := { l.buf with reading := l.buf.reading.map fun _ => true }
    sched := { l.sched with pollTimer := none } }

def State.stopMarked (s : State) (n : LineNo) : State := s.onLine n Line.stopMarked

/-- The line with its retry given up, before its lists are ended. -/
def State.retryStopped (s : State) (n : LineNo) : State := (s.stopMarked n).giveUpRetry n .aborted true

section
variable {s : State} {n : LineNo} {k : SlotNo} {a : Byte} {e : Station} {x : Exchange} {r : Request}

theorem stopLine_eq (s : State) (n : LineNo) : s.stopLine n = ((s.retryStopped n).stopSlots n).drainCache n := rfl

/-! ### The line marked -/

theorem line_stopMarked (s : State) (n : LineNo) : (s.stopMarked n).line n = (s.line n).stopMarked := by
  rw [State.stopMarked, line_onLine, if_pos rfl]

theorem pool_stopMarked (s : State) (n : LineNo) : ((s.stopMarked n).line n).pool = (s.line n).pool := by
  rw [line_stopMarked]; rfl

theorem request?_stopMarked (s : State) (n : LineNo) (k : SlotNo) : (s.stopMarked n).request? n k = s.request? n k :=
  request?_congr (by rw [pool_stopMarked]) k

theorem retry_stopMarked (s : State) (n : LineNo) : ((s.stopMarked n).line n).sched.retry = (s.line n).sched.retry := by
  rw [line_stopMarked]; rfl

theorem firstSlots_stopMarked (s : State) (n : LineNo) : (s.stopMarked n).firstSlots n = s.firstSlots n := by
  unfold State.firstSlots State.retrySlots State.slotEnding
  rw [retry_stopMarked]
  simp only [request?_stopMarked]

theorem retryCosts_stopMarked (s : State) (n : LineNo) (e : Station) : (s.stopMarked n).retryCosts n e = s.retryCosts n e := by
  unfold State.retryCosts
  rw [retry_stopMarked]

theorem retryRecords_stopMarked (s : State) (n : LineNo) : (s.stopMarked n).retryRecords n = s.retryRecords n := by
  unfold State.retryRecords
  rw [retry_stopMarked]
  rfl

/-! ### The retry given up on a STOPPING device -/

section
variable (hstopping : s.control.device = .stopping)
include hstopping

theorem stopMarked_not_running : (s.stopMarked n).control.device ≠ .running := by
  rw [show (s.stopMarked n).control = s.control from rfl, hstopping]
  decide

theorem station?_of_retryReported : (s.retryStopped n).station? n a = ((s.stopMarked n).retryReported n .aborted).station? n a := by
  unfold State.station?
  rw [State.retryStopped, (giveUpRetry_of_not_running (stopMarked_not_running hstopping) .aborted).2.1]

theorem station?_retryStopped (hentry : s.station? n a = some e) : (s.retryStopped n).station? n a
    = some { e with outOfStep := e.outOfStep || s.retryCosts n e, pending := e.pending.filter fun j => decide (j ∉ s.firstSlots n) } := by
  rw [station?_of_retryReported hstopping, station?_retryReported (s := s.stopMarked n) hentry, firstSlots_stopMarked,
    retryCosts_stopMarked]

theorem ring_retryStopped : ∃ g : Station → Station, (s.retryStopped n).ring n = (s.ring n).map g
    ∧ ∀ e, (g e).address = e.address ∧ (g e).pending = e.pending.filter fun j => decide (j ∉ s.firstSlots n) := by
  obtain ⟨g, hring, hg⟩ := ring_retryReported (s.stopMarked n) n .aborted
  refine ⟨g, ?_, fun e => firstSlots_stopMarked s n ▸ hg e⟩
  have hsame : (s.retryStopped n).ring n = ((s.stopMarked n).retryReported n .aborted).ring n := by
    unfold State.ring
    rw [State.retryStopped, (giveUpRetry_of_not_running (stopMarked_not_running hstopping) .aborted).2.1]
  rw [hsame, hring]
  rfl

theorem pool_retryStopped : ((s.retryStopped n).line n).pool = (((s.stopMarked n).retryReported n .aborted).line n).pool :=
  (giveUpRetry_of_not_running (stopMarked_not_running hstopping) .aborted).1

theorem broadcast_retryStopped : ((s.retryStopped n).line n).pool.broadcast
    = (s.line n).pool.broadcast.filter fun j => decide (j ∉ s.firstSlots n) := by
  rw [pool_retryStopped hstopping, broadcast_retryReported, pool_stopMarked, firstSlots_stopMarked]

theorem request?_retryStopped_of_ne (hk : k ∉ s.firstSlots n) : (s.retryStopped n).request? n k = s.request? n k := by
  rw [← firstSlots_stopMarked] at hk
  rw [request?_congr (congrArg Pool.slots (pool_retryStopped hstopping)) k, request?_retryReported_of_ne hk, request?_stopMarked]

theorem slotIs_retryStopped_of_ne (hk : k ∉ s.firstSlots n) (st : RequestState) :
    (s.retryStopped n).slotIs n k st = s.slotIs n k st := by
  rw [slotIs_eq, slotIs_eq, request?_retryStopped_of_ne hstopping hk]

theorem firstMade_retryStopped : State.FirstMade n .aborted (s.firstSlots n) s (s.retryStopped n) := by
  have hmade := firstMade_giveUpRetry (s := s.stopMarked n) (n := n) (st := .aborted) fun k hlate =>
    stopMarked_not_running hstopping hlate.late.1
  rw [firstSlots_stopMarked] at hmade
  refine ⟨(State.Made.of_pool (pool_stopMarked s n)).trans hmade.made, ?_, fun j hj => ?_⟩
  · refine hmade.listed.trans ?_
    unfold State.listed
    rw [pool_stopMarked]
    rfl
  · exact (hmade.pends j hj).trans (by rw [request?_stopMarked])

theorem events_retryStopped : (s.retryStopped n).events = ((s.retryRecords n).foldl State.offer s).events := by
  rw [State.retryStopped, (giveUpRetry_of_not_running (stopMarked_not_running hstopping) .aborted).2.2.1, events_retryReported,
    retryRecords_stopMarked]
  exact events_foldl_offer_congr _ rfl rfl rfl

theorem port_retryStopped : (s.retryStopped n).port = s.port := by
  rw [State.retryStopped, (giveUpRetry_of_not_running (stopMarked_not_running hstopping) .aborted).2.2.2, port_retryReported]
  rfl

end

theorem admin_retryStopped (s : State) (n : LineNo) : (s.retryStopped n).admin = s.admin := admin_giveUpRetry _ n .aborted

/-- R93: the retry has gone and its buffer is released. -/
theorem line_retryStopped (s : State) (n : LineNo) : (s.retryStopped n).line n = { (s.line n).stopMarked with
    sched := { (s.line n).stopMarked.sched with retry := none }
    buf := { (s.line n).stopMarked.buf with reserved := (s.line n).buf.reserved && (s.line n).sched.retry.isNone }
    pool := ((s.retryStopped n).line n).pool } := by
  cases h : (s.line n).sched.retry with
  | none =>
    have hretry : (s.line n).stopMarked.sched.retry = none := h
    rw [State.retryStopped, giveUpRetry_of_none (by rw [retry_stopMarked]; exact h), line_stopMarked, Option.isNone_none,
      Bool.and_true, ← hretry]
    rfl
  | some x =>
    have hline := line_giveUpRetry (s := s.stopMarked n) (by rw [retry_stopMarked]; exact h) .aborted
    rw [line_stopMarked] at hline
    rw [Option.isNone_some, Bool.and_false]
    exact hline

theorem turn?_retryStopped (s : State) (n : LineNo) : ((s.retryStopped n).line n).turn? = (s.line n).turn? := by
  rw [line_retryStopped]; rfl

theorem settling_retryStopped (s : State) (n : LineNo) : State.Settling n (s.stopMarked n) (s.retryStopped n) :=
  settling_giveUpRetry n _ .aborted true

/-! ### The lists ended -/

/-- The line with its lists ended, before its cache is drained. -/
def State.listsStopped (s : State) (n : LineNo) : State := (s.retryStopped n).stopSlots n

theorem line_listsStopped (s : State) (n : LineNo) : (s.listsStopped n).line n = { (s.line n).stopMarked with
    sched := { (s.line n).stopMarked.sched with retry := none }
    buf := { (s.line n).stopMarked.buf with reserved := (s.line n).buf.reserved && (s.line n).sched.retry.isNone }
    pool := ((s.listsStopped n).line n).pool } := by
  refine (onlyRequests_stopSlots (s.retryStopped n) n).line.trans ?_
  rw [line_retryStopped]
  rfl

theorem pool_drainCache (s : State) (n : LineNo) : ((s.drainCache n).line n).pool = (s.line n).pool := by
  unfold State.drainCache
  split
  · rw [line_onLine, if_pos rfl]
  · rfl

theorem request?_stopLine (s : State) (n : LineNo) (k : SlotNo) : (s.stopLine n).request? n k = (s.listsStopped n).request? n k :=
  request?_congr (congrArg Pool.slots (pool_drainCache _ n)) k

theorem station?_stopLine (s : State) (n : LineNo) (a : Byte) : (s.stopLine n).station? n a = (s.listsStopped n).station? n a := by
  rw [stopLine_eq]
  unfold State.drainCache
  split <;> rfl

/-! ### The whole of it on a STOPPING device -/

theorem control_listsStopped (s : State) (n : LineNo) : (s.listsStopped n).control = s.control :=
  (onlyRequests_stopSlots _ n).control.trans (settling_retryStopped s n).device.1

/-- The line STOP leaves. -/
def Line.stopped (l : Line) (drained : Bool) : Line :=
  { l.stopMarked with
    sched := { l.stopMarked.sched with retry := none }
    buf := if drained then { l.buf with cache := [], reserved := false }
      else { l.stopMarked.buf with reserved := l.buf.reserved && l.sched.retry.isNone } }

theorem line_stopLine (hstopping : s.control.device = .stopping) (n : LineNo) : (s.stopLine n).line n
    = { (s.line n).stopped ((s.line n).turn?.isNone && (s.line n).buf.reading.isNone) with pool := ((s.stopLine n).line n).pool } := by
  have hline := line_listsStopped s n
  have hturn : ((s.listsStopped n).line n).turn? = (s.line n).turn? := by rw [hline]; rfl
  have hreading : ((s.listsStopped n).line n).buf.reading.isNone = (s.line n).buf.reading.isNone := by
    rw [hline]
    cases h : (s.line n).buf.reading <;> simp [Line.stopMarked, h]
  have hpool : ((s.stopLine n).line n).pool = ((s.listsStopped n).line n).pool := pool_drainCache _ n
  have hstop : (s.listsStopped n).stopping = true := by
    rw [State.stopping, control_listsStopped, hstopping]; rfl
  rw [hpool]
  change ((s.listsStopped n).drainCache n).line n = _
  rw [State.drainCache, hstop, Bool.true_and, hturn, hreading]
  by_cases hdrained : ((s.line n).turn?.isNone && (s.line n).buf.reading.isNone) = true
  case pos =>
    have hempty : (s.line n).buf.reading = none := Option.isNone_iff_eq_none.1 (Bool.and_eq_true_iff.1 hdrained).2
    rw [if_pos hdrained, line_onLine, if_pos rfl, hdrained]
    refine (congrArg (fun l : Line => { l with buf := { l.buf with cache := [], reserved := false } }) hline).trans ?_
    simp [Line.stopped, Line.stopMarked, hempty]
  case neg =>
    rw [if_neg hdrained, Bool.eq_false_iff.2 hdrained]
    exact hline

theorem admin_stopLine (s : State) (n : LineNo) : (s.stopLine n).admin = s.admin :=
  (admin_drainCache ..).trans ((onlyRequests_stopSlots _ n).admin.trans (admin_retryStopped s n))

theorem port_stopLine (hstopping : s.control.device = .stopping) (n : LineNo) : (s.stopLine n).port = s.port :=
  (port_drainCache ..).trans ((onlyRequests_stopSlots _ n).port.trans (port_retryStopped hstopping))

theorem events_stopLine (hstopping : s.control.device = .stopping) (n : LineNo) :
    (s.stopLine n).events = ((s.retryRecords n).foldl State.offer s).events :=
  (events_drainCache ..).trans ((onlyRequests_stopSlots _ n).events.trans (events_retryStopped hstopping))

theorem settling_stopLine (s : State) (n : LineNo) : State.Settling n (s.stopMarked n) (s.stopLine n) :=
  ((settling_retryStopped s n).trans (settling_stopSlots n _)).trans (settling_drainCache n _)

theorem othersKept_stopLine (s : State) (n : LineNo) : State.OthersKept n s (s.stopLine n) := fun m hm => by
  obtain ⟨hline, hring⟩ := (settling_stopLine s n).others m hm
  exact ⟨hline.trans (by rw [State.stopMarked, line_onLine, if_neg hm]), hring⟩

theorem sameDevice_stopLine (s : State) (n : LineNo) : s.SameDevice (s.stopLine n) := (settling_stopLine s n).device

end

end Sys2Proof.Machine

/-! STOP on one line, what becomes of its requests and entries (R67, R69, R93, R133, R167, R178). -/

namespace Sys2Proof.Machine

section
variable {s : State} {n : LineNo} {k : SlotNo} {a : Byte} {e : Station} {x : Exchange} {r : Request}
variable (hstopping : s.control.device = .stopping)
include hstopping

theorem exists_entry_retryStopped (he : e ∈ s.ring n) : ∃ f ∈ (s.retryStopped n).ring n,
    f.address = e.address ∧ f.pending = e.pending.filter fun j => decide (j ∉ s.firstSlots n) := by
  obtain ⟨g, hring, hg⟩ := ring_retryStopped (n := n) hstopping
  exact ⟨g e, hring ▸ List.mem_map_of_mem he, hg e⟩

omit hstopping in
theorem storingAnswer_retryStopped : ((s.retryStopped n).line n).storingAnswer a = (s.line n).storingAnswer a :=
  storingAnswer_congr (turn?_retryStopped s n) a

omit hstopping in
/-- R93: the retry's own request. -/
theorem request?_stopLine_retry (hretry : (s.line n).sched.retry = some x) (hslot : x.slot = some k)
    (hr : s.request? n k = some r) (hopen : r.state ≠ .done) :
    (s.stopLine n).request? n k = some ((x.unanswered r).ended .aborted) := by
  have hmarked : ((s.stopMarked n).line n).sched.retry = some x := (retry_stopMarked s n).trans hretry
  have hgiven : (s.retryStopped n).request? n k = some ((x.unanswered r).ended .aborted) :=
    (request?_giveUpRetry hmarked .aborted k).trans
      (request?_retryOver_self hslot ((request?_stopMarked s n k).trans hr) hopen)
  rw [request?_stopLine]
  exact (grows_stopSlots _ n).done k _ hgiven rfl

omit hstopping in
theorem exists_retry_of_mem_firstSlots (h : k ∈ s.firstSlots n) :
    ∃ x r, (s.line n).sched.retry = some x ∧ x.slot = some k ∧ s.request? n k = some r ∧ r.state ≠ .done := by
  cases hretry : (s.line n).sched.retry with
  | none => rw [firstSlots_of_none hretry] at h; exact (List.not_mem_nil h).elim
  | some x =>
    rw [firstSlots_of_some hretry] at h
    obtain ⟨hslot, hopen⟩ := mem_retrySlots.1 h
    obtain ⟨r, hr, hr'⟩ := (Option.any_eq_true _ _).1 hopen
    exact ⟨x, r, rfl, hslot, hr, of_decide_eq_true hr'⟩

omit hstopping in
theorem stopLine_ended_first (h : k ∈ s.firstSlots n) :
    ∃ q, (s.stopLine n).request? n k = some q ∧ q.state = .done ∧ q.outcome = some .aborted := by
  obtain ⟨x, r, hretry, hslot, hr, hopen⟩ := exists_retry_of_mem_firstSlots h
  exact ⟨_, request?_stopLine_retry hretry hslot hr hopen, rfl, rfl⟩

/-- A request is left as it is, or it is ABORTED. -/
theorem stopLine_request (hr : s.request? n k = some r) : ∃ q, (s.stopLine n).request? n k = some q
    ∧ (q = r ∨ (r.state ≠ .done ∧ q.state = .done ∧ q.outcome = some .aborted ∧ q.tag = r.tag ∧ q.kind = r.kind
      ∧ q.station = r.station ∧ q.resent = r.resent ∧ q.retriesUsed = r.retriesUsed)) := by
  by_cases hfirst : k ∈ s.firstSlots n
  case pos =>
    obtain ⟨x, r', hretry, hslot, hr', hopen⟩ := exists_retry_of_mem_firstSlots hfirst
    cases hr.symm.trans hr'
    exact ⟨_, request?_stopLine_retry hretry hslot hr hopen, .inr ⟨hopen, rfl, rfl, rfl, rfl, rfl, rfl, rfl⟩⟩
  case neg =>
    have hmiddle := (request?_retryStopped_of_ne hstopping hfirst).trans hr
    rw [request?_stopLine, State.listsStopped, request?_stopSlots, hmiddle]
    split
    case isFalse => exact ⟨r, rfl, .inl rfl⟩
    case isTrue =>
      rw [Option.map_some]
      by_cases hpends : r.pends = true
      · rw [if_pos hpends]
        exact ⟨_, rfl, .inr ⟨onlyOpen_pends r hpends, rfl, rfl, rfl, rfl, rfl, rfl, rfl⟩⟩
      · rw [if_neg hpends]
        exact ⟨r, rfl, .inl rfl⟩

theorem pends_retryStopped (hfirst : k ∉ s.firstSlots n) (hpends : (s.request? n k).any Request.pends = true) :
    ((s.retryStopped n).request? n k).any Request.pends = true := by
  rw [request?_retryStopped_of_ne hstopping hfirst]
  exact hpends

/-- Where the retry's slot is the only ACTIVE one, none is left once it is given up. -/
theorem idle_retryStopped {ks : List SlotNo} (hactive : ∀ j ∈ ks, s.slotIs n j .active = true → j ∈ s.firstSlots n)
    {j : SlotNo} (hj : j ∈ ks.filter fun j => decide (j ∉ s.firstSlots n)) : (s.retryStopped n).slotIs n j .active = false := by
  obtain ⟨hmem, hnot⟩ := List.mem_filter.1 hj
  have hfirst : j ∉ s.firstSlots n := of_decide_eq_true hnot
  rw [slotIs_retryStopped_of_ne hstopping hfirst]
  exact Bool.eq_false_iff.2 fun h => hfirst (hactive j hmem h)

/-- R167: a station's list without an ACTIVE head and without an answer being written is aborted. -/
theorem stopLine_ended_station (he : e ∈ s.ring n) (hactive : ∀ j ∈ e.pending, s.slotIs n j .active = true → j ∈ s.firstSlots n)
    (hstoring : (s.line n).storingAnswer e.address = false) (hk : k ∈ e.pending)
    (hpends : (s.request? n k).any Request.pends = true) :
    ∃ q, (s.stopLine n).request? n k = some q ∧ q.state = .done ∧ q.outcome = some .aborted := by
  by_cases hfirst : k ∈ s.firstSlots n
  · exact stopLine_ended_first hfirst
  obtain ⟨f, hf, haddress, hlist⟩ := exists_entry_retryStopped hstopping he
  have hfree : (s.retryStopped n).entryLeft n f = false := by
    rw [State.entryLeft, storingAnswer_retryStopped, haddress, hstoring]
    exact not_leftToTurn_of_idle fun j hj => idle_retryStopped hstopping hactive (hlist ▸ hj)
  rw [request?_stopLine]
  exact stopSlots_ended_station hf hfree (hlist ▸ List.mem_filter.2 ⟨hk, decide_eq_true hfirst⟩)
    (pends_retryStopped hstopping hfirst hpends)

theorem nodup_retryStopped (hnodup : (s.listed n).Nodup) : ((s.retryStopped n).listed n).Nodup := by
  rw [(firstMade_retryStopped hstopping).listed]
  exact hnodup.filter _

omit hstopping in
theorem filter_not_first {ks : List SlotNo} (hnone : ∀ j ∈ ks, j ∉ s.firstSlots n) :
    ks.filter (fun j => decide (j ∉ s.firstSlots n)) = ks :=
  List.filter_eq_self.2 fun j hj => decide_eq_true (hnone j hj)

/-- R133, R167: a station's list whose turn is in flight, or whose head's answer is being written, stays. -/
theorem stopLine_kept_station (hnodup : (s.listed n).Nodup) (he : e ∈ s.ring n) (hnone : ∀ j ∈ e.pending, j ∉ s.firstSlots n)
    (hleft : e.pending.head?.any (fun j => s.slotIs n j .active) = true ∨ (s.line n).storingAnswer e.address = true)
    (hk : k ∈ e.pending) : (s.stopLine n).request? n k = s.request? n k := by
  obtain ⟨f, hf, haddress, hlist⟩ := exists_entry_retryStopped hstopping he
  rw [filter_not_first hnone] at hlist
  have hstays : (s.retryStopped n).entryLeft n f = true := by
    rw [State.entryLeft, storingAnswer_retryStopped, haddress, leftToTurn_eq, hlist, Bool.or_eq_true]
    refine hleft.symm.imp id fun hactive => ?_
    obtain ⟨j, hj, hjactive⟩ := (Option.any_eq_true _ _).1 hactive
    rw [hj, Option.any_some, slotIs_retryStopped_of_ne hstopping (hnone j (List.mem_of_head? hj))]
    exact hjactive
  rw [request?_stopLine, State.listsStopped, stopSlots_kept_station (nodup_retryStopped hstopping hnodup) hf hstays (hlist ▸ hk),
    request?_retryStopped_of_ne hstopping (hnone k hk)]

/-- R167: a broadcast list without an ACTIVE slot is aborted. -/
theorem stopLine_ended_broadcast (hactive : ∀ j ∈ (s.line n).pool.broadcast, s.slotIs n j .active = true → j ∈ s.firstSlots n)
    (hk : k ∈ (s.line n).pool.broadcast) (hpends : (s.request? n k).any Request.pends = true) :
    ∃ q, (s.stopLine n).request? n k = some q ∧ q.state = .done ∧ q.outcome = some .aborted := by
  by_cases hfirst : k ∈ s.firstSlots n
  · exact stopLine_ended_first hfirst
  have hlist := broadcast_retryStopped (n := n) hstopping
  rw [request?_stopLine]
  exact stopSlots_ended_broadcast (fun j hj => idle_retryStopped hstopping hactive (hlist ▸ hj))
    (hlist ▸ List.mem_filter.2 ⟨hk, decide_eq_true hfirst⟩) (pends_retryStopped hstopping hfirst hpends)

/-- R167: a broadcast list whose head is ACTIVE stays. -/
theorem stopLine_kept_broadcast (hnodup : (s.listed n).Nodup) (hnone : ∀ j ∈ (s.line n).pool.broadcast, j ∉ s.firstSlots n)
    (hleft : (s.line n).pool.broadcast.head?.any (fun j => s.slotIs n j .active) = true) :
    ((s.stopLine n).line n).pool.broadcast = (s.line n).pool.broadcast
      ∧ ∀ k ∈ (s.line n).pool.broadcast, (s.stopLine n).request? n k = s.request? n k := by
  have hlist := broadcast_retryStopped (n := n) hstopping
  rw [filter_not_first hnone] at hlist
  have hstays : (s.retryStopped n).leftToTurn n ((s.retryStopped n).line n).pool.broadcast false = true := by
    obtain ⟨j, hj, hjactive⟩ := (Option.any_eq_true _ _).1 hleft
    rw [leftToTurn_eq, hlist, Bool.false_or, hj, Option.any_some,
      slotIs_retryStopped_of_ne hstopping (hnone j (List.mem_of_head? hj))]
    exact hjactive
  obtain ⟨hbroadcast, hrequests⟩ := stopSlots_kept_broadcast (nodup_retryStopped hstopping hnodup) hstays
  refine ⟨(congrArg Pool.broadcast (pool_drainCache _ n)).trans (hbroadcast.trans hlist), fun k hk => ?_⟩
  rw [request?_stopLine]
  exact (hrequests k (hlist ▸ hk)).trans (request?_retryStopped_of_ne hstopping (hnone k hk))

/-- R178: with no turn in flight they are ended in the order of the lists, behind the retry's slot. -/
theorem doneOrder_stopLine (hturn : (s.line n).turn? = none) (hnodup : (s.listed n).Nodup)
    (hactive : ∀ j ∈ s.listed n, s.slotIs n j .active = true → j ∈ s.firstSlots n) :
    ((s.stopLine n).line n).pool.doneOrder = (s.line n).pool.doneOrder ++ s.firstSlots n
      ++ (s.listed n).filter fun k => !(s.firstSlots n).contains k && (s.slotIs n k .waiting || s.slotIs n k .answering) := by
  have hfirst := firstMade_retryStopped (n := n) hstopping
  have hidle : ∀ j ∈ (s.retryStopped n).listed n, (s.retryStopped n).slotIs n j .active = false := fun j hj =>
    idle_retryStopped hstopping hactive (hfirst.listed ▸ hj)
  have hall := stopSlots_of_idle (nodup_retryStopped hstopping hnodup) ((turn?_retryStopped s n).trans hturn) hidle
  rw [List.append_assoc, ← hfirst.doneOrder hnodup, ← hall]
  exact congrArg Pool.doneOrder (pool_drainCache _ n)

/-- R67: an entry loses what it listed and, if the retry had cost it its step, its step. -/
theorem station?_stopLine_kept (hentry : s.station? n a = some e) : ∃ p, (s.stopLine n).station? n a
    = some { e with outOfStep := e.outOfStep || s.retryCosts n e, pending := p } := by
  obtain ⟨p, hp⟩ := (onlyRequests_stopSlots (s.retryStopped n) n).entry a _ (station?_retryStopped hstopping hentry)
  exact ⟨p, (station?_stopLine s n a).trans hp⟩

end

end Sys2Proof.Machine

/-! STOP, settled (R14, R67, R69, R93, R127, R133, R167, R178). -/

namespace Sys2Proof.Machine

/-! ### A command's effect on each line in turn -/

/-- Line `n` with its station entries is as it was. -/
def State.SameLine (n : LineNo) (s t : State) : Prop := t.line n = s.line n ∧ t.ring n = s.ring n

namespace State.SameLine

variable {s t u : State} {n : LineNo}

theorem refl (n : LineNo) (s : State) : State.SameLine n s s := ⟨rfl, rfl⟩

theorem trans (h : State.SameLine n s t) (k : State.SameLine n t u) : State.SameLine n s u :=
  ⟨k.1.trans h.1, k.2.trans h.2⟩

theorem request? (h : State.SameLine n s t) (k : SlotNo) : t.request? n k = s.request? n k :=
  request?_congr (congrArg (fun l => l.pool.slots) h.1) k

theorem slotIs (h : State.SameLine n s t) (k : SlotNo) (st : RequestState) : t.slotIs n k st = s.slotIs n k st := by
  rw [slotIs_eq, slotIs_eq, h.request?]

theorem listed (h : State.SameLine n s t) : t.listed n = s.listed n := by
  unfold State.listed
  rw [h.1, h.2]

theorem firstSlots (h : State.SameLine n s t) : t.firstSlots n = s.firstSlots n := by
  unfold State.firstSlots State.retrySlots State.slotEnding
  rw [h.1]
  simp only [h.request?]

theorem retryCosts (h : State.SameLine n s t) (e : Station) : t.retryCosts n e = s.retryCosts n e := by
  unfold State.retryCosts
  rw [h.1]

theorem station? (h : State.SameLine n s t) (a : Byte) : t.station? n a = s.station? n a := by
  have hring : ∀ v : State, v.station? n a = (v.ring n).find? fun e => decide (e.address = a) := fun v => by
    unfold State.station? State.ring
    rw [List.find?_filter]
    simp only [Bool.decide_and, Bool.decide_eq_true]
  rw [hring, hring, h.2]

theorem retryRecords (h : State.SameLine n s t) : t.retryRecords n = s.retryRecords n := by
  unfold State.retryRecords State.entryOf
  rw [h.1, show t.station? n = s.station? n from funext h.station?]

end State.SameLine

section
variable {f : LineNo → State → State} {P : State → Prop} {s : State} {n : LineNo}

theorem foldl_lines_keeps (hP : ∀ m u, P u → P (f m u)) : ∀ (ls : List LineNo) (s : State), P s →
    P (ls.foldl (fun u m => f m u) s)
  | [], _, h => h
  | m :: ls, s, h => foldl_lines_keeps hP ls (f m s) (hP m s h)

theorem sameLine_foldl_lines (hf : ∀ m u, State.OthersKept m u (f m u)) : ∀ (ls : List LineNo) (s : State), n ∉ ls →
    State.SameLine n s (ls.foldl (fun u m => f m u) s)
  | [], s, _ => .refl n s
  | m :: ls, s, h => by
    obtain ⟨hm, hls⟩ := List.ne_and_not_mem_of_not_mem_cons h
    exact State.SameLine.trans (hf m s n hm) (sameLine_foldl_lines hf ls (f m s) hls)

/-- What is done to line `n` is what its own turn does. -/
theorem forLines_at (hf : ∀ m u, State.OthersKept m u (f m u)) (hP : ∀ m u, P u → P (f m u)) (h : P s) (n : LineNo) :
    ∃ u, P u ∧ State.SameLine n s u ∧ State.SameLine n (f n u) (s.forLines f) := by
  have hmem : n ∈ allLines := by revert n; decide
  obtain ⟨before, after, hsplit⟩ := List.append_of_mem hmem
  have hnodup : (before ++ n :: after).Nodup := hsplit ▸ (by decide : allLines.Nodup)
  obtain ⟨-, hrest, hapart⟩ := List.nodup_append.1 hnodup
  refine ⟨before.foldl (fun u m => f m u) s, foldl_lines_keeps hP before s h,
    sameLine_foldl_lines hf before s fun hn => hapart n hn n (List.mem_cons_self ..) rfl, ?_⟩
  rw [State.forLines, hsplit, List.foldl_append, List.foldl_cons]
  exact sameLine_foldl_lines hf after _ (List.nodup_cons.1 hrest).1

end

/-! ### STOP -/

/-- The device stages records RUNNING or STOPPING. -/
theorem events_foldl_offer_active : ∀ (rs : List EventRecord) {s t : State}, t.active = s.active → t.er = s.er →
    t.events = s.events → (rs.foldl State.offer t).events = (rs.foldl State.offer s).events
  | [], _, _, _, _, hevents => hevents
  | r :: rs, s, t, hactive, her, hevents => by
    refine events_foldl_offer_active rs ?_ ?_ ?_
    · rw [active_congr (control_offer ..), active_congr (control_offer ..), hactive]
    · rw [er_offer, er_offer, her]
    · unfold State.offer
      rw [hactive, her, hevents]
      split
      · rfl
      · exact hevents

/-- What STOP leaves of the device once it is STOPPING. -/
structure State.StopKept (s t : State) : Prop where
  device : s.SameDevice t
  now : t.now = s.now
  port : t.port = s.port
  admin : t.admin = s.admin

/-- The device as STOP finds the first line. -/
def State.stopState (s : State) : State :=
  { s with control := { s.control with device := .stopping, lastCommand := .accepted } }

section
variable {s u : State} {n : LineNo}

theorem State.StopKept.stopLine (h : State.StopKept s u) (hstopping : s.control.device = .stopping) (n : LineNo) :
    State.StopKept s (u.stopLine n) where
  device := h.device.trans (sameDevice_stopLine u n)
  now := ((settling_stopLine u n).now).trans h.now
  port := (port_stopLine (by rw [h.device.1]; exact hstopping) n).trans h.port
  admin := (admin_stopLine u n).trans h.admin

theorem stopKept_forLines (hstopping : s.control.device = .stopping) :
    State.StopKept s (s.forLines fun n u => u.stopLine n) :=
  foldl_lines_keeps (P := State.StopKept s) (fun n _ h => h.stopLine hstopping n) allLines s ⟨.refl s, rfl, rfl, rfl⟩

theorem stopping_stopLine (n : LineNo) (u : State) (h : u.control.device = .stopping) :
    (u.stopLine n).control.device = .stopping := by
  rw [(sameDevice_stopLine u n).1]
  exact h

/-- R69: the records of the retries given up, line by line. -/
theorem events_foldl_stopLine (s : State) : ∀ (ls : List LineNo) (u : State), ls.Nodup → u.control.device = .stopping →
    (∀ m ∈ ls, u.retryRecords m = s.retryRecords m) →
    (ls.foldl (fun u m => u.stopLine m) u).events = ((ls.flatMap s.retryRecords).foldl State.offer u).events
  | [], _, _, _, _ => rfl
  | m :: ls, u, hnodup, hstopping, hrecords => by
    obtain ⟨hm, hls⟩ := List.nodup_cons.1 hnodup
    have hrest : ∀ j ∈ ls, (u.stopLine m).retryRecords j = s.retryRecords j := fun j hj => by
      have hsame : State.SameLine j u (u.stopLine m) := othersKept_stopLine u m j fun h => hm (h ▸ hj)
      rw [hsame.retryRecords, hrecords j (List.mem_cons_of_mem _ hj)]
    have hfirst := events_stopLine hstopping m
    rw [hrecords m (List.mem_cons_self ..)] at hfirst
    rw [List.foldl_cons, events_foldl_stopLine s ls _ hls (stopping_stopLine m u hstopping) hrest, List.flatMap_cons,
      List.foldl_append]
    refine events_foldl_offer_congr _ ?_ ?_ hfirst
    · rw [control_foldl_offer]; exact (sameDevice_stopLine u m).1
    · rw [er_foldl_offer]; exact (sameDevice_stopLine u m).2.2.2.2.1

/-- R67, R69: an entry loses its step where the retry costs it. -/
theorem retryCosts_iff {e : Station} {a : Byte} (ha : e.address = a) : (e.outOfStep || s.retryCosts n e) = true
    ↔ e.outOfStep = true ∨ ∃ x, (s.line n).sched.retry = some x ∧ x.station = some a ∧ x.sent = true
      ∧ (x.frame = .select ∨ x.frame = .reset) ∧ e.liveness ≠ .offline := by
  subst ha
  rw [Bool.or_eq_true, State.retryCosts, Option.any_eq_true]
  simp only [Bool.and_eq_true, decide_eq_true_eq, costs_iff]
  constructor
  · rintro (h | ⟨x, hx, hstation, hsent, hframe, hlive, -⟩)
    · exact .inl h
    · exact .inr ⟨x, hx, hstation, hsent, hframe, hlive⟩
  · rintro (h | ⟨x, hx, hstation, hsent, hframe, hlive⟩)
    · exact .inl h
    · cases hstep : e.outOfStep with
      | true => exact .inl rfl
      | false => exact .inr ⟨x, hx, hstation, hsent, hframe, hlive, rfl⟩

theorem exec_stop (hheld : s.resetHeld = false) (hrunning : s.control.device = .running) :
    exec .stop s = .next (s.stopState.forLines fun n u => u.stopLine n) := by
  have htaken : s.running = true := decide_eq_true hrunning
  change Host.Outcome.next (s.onCommand s.running State.stopTaken) = _
  rw [State.onCommand, hheld, htaken]
  rfl

end

/-- Settles O20 (R14, R67, R69, R93, R127, R133, R167, R178). -/
theorem stopAbortsWaitingRequests : Obligations.StopAbortsWaitingRequests := by
  unfold Obligations.StopAbortsWaitingRequests
  intro s hheld hrunning
  have hstopping : s.stopState.control.device = .stopping := rfl
  have hkept := stopKept_forLines hstopping
  obtain ⟨hcontrol, hsq, hcq, hbq, her, -, -, -, hmem, hpending⟩ := hkept.device
  refine ⟨_, exec_stop hheld hrunning, hcontrol, hsq, hcq, hbq, her, hkept.port, hkept.admin, hmem, hkept.now, hpending,
    fun lost hlost => ?events, fun n listed first hlisted hfirst => ?line⟩
  case events =>
    have hrecords : ∀ m, lost m = s.stopState.retryRecords m := fun m => by
      rw [hlost, State.retryRecords, show s.stopState.line m = s.line m from rfl]
      cases (s.line m).sched.retry with
      | none => rfl
      | some x =>
        change _ = ((x.station.bind (s.station? m)).elim [] fun e => abandonRecords m x e)
        cases h : x.station.bind (s.station? m) with
        | none => simp only [h, Option.elim_none]
        | some e => simp only [h, Option.elim_some, abandonRecords, costs_iff]
    have hall : lost 0 ++ lost 1 ++ lost 2 ++ lost 3 = allLines.flatMap s.stopState.retryRecords := by
      simp [allLines, hrecords]
    rw [hall]
    refine (events_foldl_stopLine s.stopState allLines _ (by decide) hstopping fun _ _ => rfl).trans ?_
    exact events_foldl_offer_active _ (by simp [State.active, State.running, State.stopping, hstopping, hrunning]) rfl rfl
  case line =>
    have hfirst' : first = s.firstSlots n := by
      rw [hfirst, State.firstSlots]
      cases (s.line n).sched.retry with
      | none => rfl
      | some x =>
        refine List.filter_congr fun k _ => ?_
        cases s.request? n k <;> rfl
    obtain ⟨u, hu, hin, hout⟩ := forLines_at (fun m u => othersKept_stopLine u m) stopping_stopLine hstopping n
    have hin' : State.SameLine n u s := ⟨hin.1.symm, hin.2.symm⟩
    have hlisted' : listed = u.listed n := by rw [← hin'.listed]; exact hlisted
    rw [hfirst', hin'.firstSlots, hlisted']
    generalize (s.stopState.forLines fun n u => u.stopLine n) = t at hout ⊢
    simp only [hout.1, hout.request?, hout.station?, hin'.1, hin'.2, hin'.request?, hin'.slotIs, hin'.station?]
    have hline := line_stopLine hu n
    refine ⟨by rw [hline]; rfl, by rw [hline]; rfl, by rw [hline]; rfl, fun hturn hreading => ?drained, fun hbusy => ?kept,
      by rw [hline]; rfl, by rw [hline]; rfl, by rw [hline]; rfl, by rw [hline]; rfl, by rw [hline]; rfl,
      fun x k r hretry hslot hr hopen => ?slot, fun k r hr => stopLine_request hu hr, fun e he hactive hstoring k hk hpends => ?station,
      fun hnodup e he hnone hleft k hk => ?stationKept, fun hactive k hk hwaiting => ?broadcast,
      fun hnodup hnone hleft => ?broadcastKept, fun hturn hnodup hactive => ?order, fun a e hentry => ?entry⟩
    case drained =>
      have hidle : ((u.line n).turn?.isNone && (u.line n).buf.reading.isNone) = true := by rw [hturn, hreading]; rfl
      rw [hline, hidle]
      rfl
    case kept =>
      have hnot : ((u.line n).turn?.isNone && (u.line n).buf.reading.isNone) = false := by
        rw [Bool.and_eq_false_iff]
        exact hbusy.imp Option.isNone_eq_false_iff.2 Option.isNone_eq_false_iff.2
      rw [hline, hnot]
      rfl
    case slot => exact ⟨_, request?_stopLine_retry hretry hslot hr hopen, rfl, rfl, rfl⟩
    case station =>
      exact stopLine_ended_station hu he hactive hstoring hk (by rw [← pends_eq]; exact Bool.or_eq_true_iff.2 hpends)
    case stationKept =>
      refine stopLine_kept_station hu hnodup he hnone (hleft.imp_left ?_) hk
      rintro ⟨j, rest, hlist, hactive⟩
      rw [hlist]
      exact hactive
    case broadcast =>
      exact stopLine_ended_broadcast hu hactive hk (by rw [← pends_eq, hwaiting]; rfl)
    case broadcastKept =>
      obtain ⟨j, rest, hlist, hactive⟩ := hleft
      exact stopLine_kept_broadcast hu hnodup hnone (by rw [hlist]; exact hactive)
    case order => exact doneOrder_stopLine hu hturn hnodup hactive
    case entry =>
      obtain ⟨p, hp⟩ := station?_stopLine_kept hu hentry
      exact ⟨_, hp, rfl, retryCosts_iff (station?_key hentry).2⟩

end Sys2Proof.Machine

/-! The end of a turn under whatever waits for it: the report, and the admin request resolved (R76, R77, R112 steps 4 to 7,
R167, R177, R180). -/

namespace Sys2Proof.Machine

section
variable {s u v : State} {n : LineNo} {x : Exchange} {rep : Report} {after : LineState} {e g y : Station} {a : Byte} {k : SlotNo}

/-! ### A report changes its entry, and flushes (R24, R61 to R70) -/

theorem applyReport_abandoned (hstation : x.station = some e.address)
    (hentry : s.station? n e.address = some e) (hattached : e.detachPending = false) : s.applyReport n x .abandoned
      = (s.reported n e.address (x.abandons e) (abandonRecords n x e)).flushOffline n e.address := by
  unfold State.applyReport
  simp only [hstation, hentry, hattached, Bool.false_eq_true, if_false]
  rw [noteAbandoned_eq hentry]

/-- R61 to R70: nothing is reported, or the entry is changed and records are offered, and what R24 flushes is flushed. -/
theorem applyReport_cases (s : State) (n : LineNo) (x : Exchange) (rep : Report) : s.applyReport n x rep = s
    ∨ ∃ (e : Station) (f : Station → Station) (rs : List EventRecord),
      s.applyReport n x rep = (s.reported n e.address f rs).flushOffline n e.address := by
  cases hstation : x.station with
  | none => left; simp only [State.applyReport, hstation]
  | some a =>
    cases hentry : s.station? n a with
    | none => left; simp only [State.applyReport, hstation, hentry]
    | some e =>
      cases hattached : e.detachPending with
      | true => left; simp only [State.applyReport, hstation, hentry, hattached, if_true]
      | false =>
        obtain rfl : e.address = a := (station?_key hentry).2
        by_cases hslow : rep = .failure ∧ x.kind = .slow
        · left
          rw [hslow.1]
          exact applyReport_failure_slow hslow.2
        right
        cases rep with
        | silent => exact ⟨e, _, _, applyReport_silent hstation hentry hattached⟩
        | failure => exact ⟨e, _, _, applyReport_failure hstation hentry hattached fun h => hslow ⟨rfl, h⟩⟩
        | abandoned => exact ⟨e, _, _, applyReport_abandoned hstation hentry hattached⟩
        | success eff =>
          cases eff with
          | plain => exact ⟨e, _, _, applyReport_plain hstation hentry hattached⟩
          | synced => exact ⟨e, _, _, applyReport_synced hstation hentry hattached⟩
          | accepted seq => exact ⟨e, _, _, applyReport_accepted hstation hentry hattached seq⟩
          | stored seq => exact ⟨e, _, _, applyReport_stored hstation hentry hattached seq⟩
          | busy => exact ⟨e, _, _, applyReport_busy hstation hentry hattached⟩
          | outOfStep detail => exact ⟨e, _, _, applyReport_outOfStep hstation hentry hattached detail⟩

theorem grows_applyReport (s : State) (n : LineNo) (x : Exchange) (rep : Report) : State.Grows n s (s.applyReport n x rep) := by
  rcases applyReport_cases s n x rep with h | ⟨e, f, rs, h⟩ <;> rw [h]
  · exact .refl n s
  · exact (State.Grows.of_pool (by rw [line_reported])).trans (grows_flushOffline n _ _)

theorem admin_applyReport (s : State) (n : LineNo) (x : Exchange) (rep : Report) : (s.applyReport n x rep).admin = s.admin :=
  (quiet_applyReport n s x rep).admin

theorem applyReport_of_none (h : x.station = none) : s.applyReport n x rep = s := by
  simp only [State.applyReport, h]

/-- R76: under detach_pending nothing is reported. -/
theorem applyReport_of_detachPending (hstation : x.station = some e.address) (hentry : s.station? n e.address = some e)
    (hdetach : e.detachPending = true) : s.applyReport n x rep = s := by
  simp only [State.applyReport, hstation, hentry, hdetach, if_true]

/-- At time `now` the report turns entry `y` into `g`, whatever its list. -/
def ReportsTo (n : LineNo) (x : Exchange) (rep : Report) (now : Nat) (y g : Station) : Prop :=
  ∀ (w : State) (p : List SlotNo), w.now = now → w.station? n y.address = some { y with pending := p } →
    ∃ p', (w.applyReport n x rep).station? n y.address = some { g with pending := p' }

theorem reportsTo_of_reported {now : Nat} {f : Station → Station} (hsteady : Station.Steady f)
    (h : ∀ (w : State) (p : List SlotNo), w.now = now → w.station? n y.address = some { y with pending := p } →
      ∃ rs, w.applyReport n x rep = (w.reported n y.address f rs).flushOffline n y.address) : ReportsTo n x rep now y (f y) := by
  intro w p hnow hentry
  obtain ⟨rs, hreport⟩ := h w p hnow hentry
  have hreported := station?_reported_self hsteady.key rs hentry
  rw [hsteady.pending] at hreported
  rw [hreport]
  obtain ⟨q, hq⟩ := (onlyRequests_flushOffline n _ _).entry _ _ hreported
  exact ⟨q, hq⟩

theorem reportsTo_of_detachPending {now : Nat} (hstation : x.station = some y.address) (hdetach : y.detachPending = true) :
    ReportsTo n x rep now y y := fun w p _ hentry =>
  ⟨p, by rw [applyReport_of_detachPending (e := { y with pending := p }) hstation hentry hdetach]; exact hentry⟩

/-! ### A turn's end before the admin request that waited is resolved -/

/-- R112 steps 4 to 7 without what waited for the turn. -/
def State.turnDone (v : State) (n : LineNo) (x : Exchange) (rep : Report) (after : LineState) : State :=
  (((v.abortBehind n x).applyReport n x rep).settleAnswering n x true).onLine n fun l => l.turnOver none after

theorem finishTurn_eq (v : State) (n : LineNo) (x : Exchange) (continues : Bool) (rep : Report) (after : LineState) :
    v.finishTurn n x continues rep none after
      = (((v.turnDone n x rep after).resolveAdmin n x continues).drainCache n).settleHeld n := rfl

theorem line_turnDone (v : State) (n : LineNo) (x : Exchange) (rep : Report) (after : LineState) :
    (v.turnDone n x rep after).line n
      = ((((v.abortBehind n x).applyReport n x rep).settleAnswering n x true).line n).turnOver none after := by
  rw [State.turnDone, line_onLine, if_pos rfl]

theorem grows_turnDone_abortBehind (v : State) (n : LineNo) (x : Exchange) (rep : Report) (after : LineState) :
    State.Grows n (v.abortBehind n x) (v.turnDone n x rep after) :=
  ((grows_applyReport _ n x rep).trans (grows_settleAnswering n _ x true)).trans (.of_pool (by rw [line_turnDone]; rfl))

theorem grows_turnDone (v : State) (n : LineNo) (x : Exchange) (rep : Report) (after : LineState) :
    State.Grows n v (v.turnDone n x rep after) := (grows_abortBehind n v x).trans (grows_turnDone_abortBehind v n x rep after)

theorem admin_turnDone (v : State) (n : LineNo) (x : Exchange) (rep : Report) (after : LineState) :
    (v.turnDone n x rep after).admin = v.admin := by
  rw [State.turnDone, admin_onLine, (onlyRequests_settleAnswering n _ x true).admin, admin_applyReport,
    (onlyRequests_abortBehind n v x).admin]

theorem control_turnDone (v : State) (n : LineNo) (x : Exchange) (rep : Report) (after : LineState) :
    (v.turnDone n x rep after).control = v.control := by
  rw [State.turnDone, control_onLine, (onlyRequests_settleAnswering n _ x true).control,
    (settling_applyReport n _ x rep).device.1, (onlyRequests_abortBehind n v x).control]

theorem retry_turnDone (v : State) (n : LineNo) (x : Exchange) (rep : Report) (after : LineState) :
    ((v.turnDone n x rep after).line n).sched.retry = none := by
  rw [line_turnDone]; rfl

theorem station?_turnDone {p : List SlotNo} (hentry : v.station? n y.address = some { y with pending := p })
    (hreport : ReportsTo n x rep v.now y g) : ∃ p', (v.turnDone n x rep after).station? n y.address = some { g with pending := p' } := by
  have habort := onlyRequests_abortBehind n v x
  obtain ⟨p₁, h₁⟩ := habort.entry _ _ hentry
  obtain ⟨p₂, h₂⟩ := hreport (v.abortBehind n x) p₁ habort.now h₁
  obtain ⟨p₃, h₃⟩ := (onlyRequests_settleAnswering n _ x true).entry _ _ h₂
  exact ⟨p₃, h₃⟩

/-! ### What waited, resolved -/

theorem resolveAdmin_of_none (h : s.admin.work = .none) (continues : Bool) : s.resolveAdmin n x continues = s := by
  simp only [State.resolveAdmin, h]

theorem resolveAdmin_of_cancelling {tag : Half} (h : s.admin.work = .cancelling tag n k) (hslot : x.slot = some k) (continues : Bool) :
    s.resolveAdmin n x continues
      = s.completeAdmin tag (if s.outcome? n k = some .cancelled then .ok else .tooLate) 0 0 := by
  simp only [State.resolveAdmin, h, hslot, true_and, if_true]

theorem resolveAdmin_of_detaching {tag : Half} (h : s.admin.work = .detaching tag n a) (hstation : x.station = some a)
    (continues : Bool) : s.resolveAdmin n x continues
      = (s.freeStation n a).completeAdmin tag (if s.stopping && continues then .aborted else .ok) a 0 := by
  simp only [State.resolveAdmin, h, hstation, true_and, if_true]

theorem resolveAdmin_of_disabling {tag : Half} {st : AdminStatus} {made : List SlotNo}
    (h : s.admin.work = .disabling tag n false st made) (continues : Bool) : s.resolveAdmin n x continues
      = s.disableEnded n tag (if s.stopping && continues then .aborted else st)
        (made ++ (x.slot.toList.filter fun k => decide (s.outcome? n k = some .aborted))) := by
  simp only [State.resolveAdmin, h, true_and, if_true]

theorem grows_disableEnded (s : State) (n : LineNo) (tag : Half) (st : AdminStatus) (made : List SlotNo) :
    State.Grows n s (s.disableEnded n tag st made) :=
  (grows_endAll n s .aborted (s.listed n)).trans (.of_pool (by rw [line_disableEnded]))

theorem grows_resolveAdmin (s : State) (n : LineNo) (x : Exchange) (continues : Bool) :
    State.Grows n s (s.resolveAdmin n x continues) := by
  unfold State.resolveAdmin
  split
  · split
    · exact (grows_freeStation s n _).trans (.of_pool (by rw [line_completeAdmin]))
    · exact .refl n s
  · split
    · exact .of_pool (by rw [line_completeAdmin])
    · exact .refl n s
  · split
    · exact grows_disableEnded ..
    · exact .refl n s
  · exact .refl n s

theorem retry_freeStation (s : State) (n : LineNo) (a : Byte) :
    ((s.freeStation n a).line n).sched.retry = (s.line n).sched.retry := by
  cases hentry : s.station? n a with
  | none => rw [State.freeStation, hentry]
  | some e => rw [line_freeStation hentry]; rfl

theorem retry_resolveAdmin (h : (s.line n).sched.retry = none) (continues : Bool) :
    ((s.resolveAdmin n x continues).line n).sched.retry = none := by
  unfold State.resolveAdmin
  split
  · split
    · rw [line_completeAdmin, retry_freeStation]; exact h
    · exact h
  · split
    · rw [line_completeAdmin]; exact h
    · exact h
  · split
    · rw [line_disableEnded]; rfl
    · exact h
  · exact h

/-! ### The whole of it -/

/-- The state a turn's end resolves to before its cache is drained and the held latch settled. -/
def State.resolved (v : State) (n : LineNo) (x : Exchange) (continues : Bool) (rep : Report) (after : LineState) : State :=
  (v.turnDone n x rep after).resolveAdmin n x continues

section
variable (v : State) (n : LineNo) (x : Exchange) (continues : Bool) (rep : Report) (after : LineState)

theorem pool_finishTurn : ((v.finishTurn n x continues rep none after).line n).pool
    = ((v.resolved n x continues rep after).line n).pool := by
  rw [finishTurn_eq, pool_settleHeld, pool_drainCache]; rfl

theorem request?_finishTurn (k : SlotNo) : (v.finishTurn n x continues rep none after).request? n k
    = (v.resolved n x continues rep after).request? n k :=
  request?_congr (congrArg Pool.slots (pool_finishTurn v n x continues rep after)) k

theorem admin_finishTurn : (v.finishTurn n x continues rep none after).admin = (v.resolved n x continues rep after).admin := by
  rw [finishTurn_eq, admin_settleHeld, admin_drainCache]; rfl

theorem station?_finishTurn (a : Byte) : (v.finishTurn n x continues rep none after).station? n a
    = (v.resolved n x continues rep after).station? n a := by
  rw [finishTurn_eq, station?_settleHeld]
  unfold State.drainCache
  split <;> rfl

theorem retry_finishTurn : ((v.finishTurn n x continues rep none after).line n).sched.retry = none := by
  rw [finishTurn_eq, sched_settleHeld]
  have hretry := retry_resolveAdmin (x := x) (retry_turnDone v n x rep after) continues
  unfold State.drainCache
  split
  · rw [line_onLine, if_pos rfl]; exact hretry
  · exact hretry

theorem grows_finishTurn_turnDone : State.Grows n (v.turnDone n x rep after) (v.finishTurn n x continues rep none after) :=
  (grows_resolveAdmin _ n x continues).trans (.of_pool (pool_finishTurn v n x continues rep after))

theorem grows_finishTurn_abortBehind : State.Grows n (v.abortBehind n x) (v.finishTurn n x continues rep none after) :=
  (grows_turnDone_abortBehind v n x rep after).trans (grows_finishTurn_turnDone v n x continues rep after)

theorem grows_finishTurn : State.Grows n v (v.finishTurn n x continues rep none after) :=
  (grows_abortBehind n v x).trans (grows_finishTurn_abortBehind v n x continues rep after)

end

end

end Sys2Proof.Machine

/-! The end of a turn whose result is final, or made final by an overriding rule: what follows, by what waited for it (R76, R77,
R112, R121, R167, R168, R177, R180). -/

namespace Sys2Proof.Machine

/-- What an exchange's report makes of entry `e`: nothing under detach_pending (R76). -/
def Station.gains (e g : Station) : Station := if e.detachPending then e else g

/-- R112 step 3: `v` is the state `s` once the result of exchange `x` has made its request, if it serves one, DONE with `st`; the
report turns entry `e` into `g`. -/
structure State.Decided (n : LineNo) (x : Exchange) (rep : Report) (st : LineStatus) (keeps : Request → Request) (e g : Station)
    (s v : State) : Prop where
  held : ∀ k, x.slot = some k → ∃ r, s.request? n k = some r
  request : ∀ k r, x.slot = some k → s.request? n k = some r → v.request? n k = some ((keeps r).ended st)
  kept : ∀ j, x.slot ≠ some j → v.request? n j = s.request? n j
  order : (v.line n).pool.doneOrder = (s.line n).pool.doneOrder ++ x.slot.toList
  admin : v.admin = s.admin
  control : v.control = s.control
  station : x.station = some e.address
  entry : ∃ y : Station, v.station? n e.address = some { y with pending := e.pending.filter fun j => decide (x.slot ≠ some j) }
    ∧ y.address = e.address ∧ y.detachPending = e.detachPending ∧ ReportsTo n x rep v.now y (e.gains g)

section
variable {s v : State} {n : LineNo} {x : Exchange} {rep : Report} {st : LineStatus} {keeps : Request → Request} {e g : Station}
  {after : LineState} {k : SlotNo} {continues : Bool}

theorem gains_of_attached (h : e.detachPending = false) : e.gains g = g := if_neg (by rw [h]; exact Bool.false_ne_true)

theorem gains_of_detachPending (h : e.detachPending = true) : e.gains g = e := if_pos h

theorem admin_completeAdmin (s : State) (tag : Half) (ast : AdminStatus) (station length : Byte) :
    (s.completeAdmin tag ast station length).admin
      = { s.admin with work := .completing (adminCompletionOf tag ast station length) } := rfl

namespace State.Decided

/-! ### The request and its list -/

theorem request_finish (h : State.Decided n x rep st keeps e g s v) {r : Request} (hslot : x.slot = some k)
    (hr : s.request? n k = some r) (continues : Bool) (after : LineState) :
    (v.finishTurn n x continues rep none after).request? n k = some ((keeps r).ended st) :=
  (grows_finishTurn v n x continues rep after).done _ _ (h.request k r hslot hr) rfl

theorem order_finish (h : State.Decided n x rep st keeps e g s v) (continues : Bool) (after : LineState) :
    (s.line n).pool.doneOrder ++ x.slot.toList <+: ((v.finishTurn n x continues rep none after).line n).pool.doneOrder :=
  h.order ▸ (grows_finishTurn v n x continues rep after).order

theorem outcome_turnDone (h : State.Decided n x rep st keeps e g s v) (hslot : x.slot = some k) (after : LineState) :
    (v.turnDone n x rep after).outcome? n k = some st := by
  obtain ⟨r, hr⟩ := h.held k hslot
  exact outcome?_of_request ((grows_turnDone v n x rep after).done _ _ (h.request k r hslot hr) rfl)

/-- R167: the list behind the request. -/
theorem abortBehind_eq (h : State.Decided n x rep st keeps e g s v) (hstopping : s.control.device = .stopping) :
    v.abortBehind n x = v.endAll n .aborted (e.pending.filter fun j => decide (x.slot ≠ some j)) := by
  obtain ⟨y, hentry, -⟩ := h.entry
  have hstop : v.stopping = true := by rw [State.stopping, h.control, hstopping]; rfl
  simp only [State.abortBehind, hstop, if_true, h.station, hentry]

theorem aborted_behind (h : State.Decided n x rep st keeps e g s v) (hstopping : s.control.device = .stopping) {j : SlotNo}
    {q : Request} (hj : j ∈ e.pending) (hother : x.slot ≠ some j) (hq : s.request? n j = some q)
    (hstate : q.state = .waiting ∨ q.state = .answering) (continues : Bool) (after : LineState) :
    (v.finishTurn n x continues rep none after).request? n j = some (q.ended .aborted) := by
  have hpends : q.pends = true := by
    rw [Request.pends, Bool.or_eq_true, decide_eq_true_eq, decide_eq_true_eq]
    exact hstate
  refine (grows_finishTurn_abortBehind v n x continues rep after).done _ _ ?_ rfl
  rw [h.abortBehind_eq hstopping, request?_endAll, if_pos (List.mem_filter.2 ⟨hj, decide_eq_true hother⟩), h.kept j hother, hq,
    Option.map_some, if_pos hpends]

theorem order_behind (h : State.Decided n x rep st keeps e g s v) (hstopping : s.control.device = .stopping)
    (hnodup : e.pending.Nodup) (continues : Bool) (after : LineState) :
    (s.line n).pool.doneOrder ++ x.slot.toList ++ e.pending.filter (fun j =>
        decide (x.slot ≠ some j) && (s.slotIs n j .waiting || s.slotIs n j .answering))
      <+: ((v.finishTurn n x continues rep none after).line n).pool.doneOrder := by
  have hslots : (e.pending.filter fun j => decide (x.slot ≠ some j)).filter (fun j => (v.request? n j).any Request.pends)
      = e.pending.filter fun j => decide (x.slot ≠ some j) && (s.slotIs n j .waiting || s.slotIs n j .answering) := by
    rw [List.filter_filter]
    refine List.filter_congr fun j _ => ?_
    by_cases hother : x.slot = some j
    · simp [hother]
    · rw [h.kept j hother, pends_eq, Bool.and_comm]
  have horder := (grows_finishTurn_abortBehind v n x continues rep after).order
  rw [h.abortBehind_eq hstopping, endAll_eq_endEach, doneOrder_endEach onlyOpen_pends _ _ (hnodup.filter _), h.order, hslots] at horder
  exact horder

/-! ### What waited for the turn -/

theorem work_turnDone (h : State.Decided n x rep st keeps e g s v) (after : LineState) :
    (v.turnDone n x rep after).admin = s.admin := (admin_turnDone ..).trans h.admin

theorem stopping_turnDone (h : State.Decided n x rep st keeps e g s v) (after : LineState) :
    (v.turnDone n x rep after).stopping = decide (s.control.device = .stopping) := by
  rw [State.stopping, control_turnDone, h.control]

theorem station_turnDone (h : State.Decided n x rep st keeps e g s v) (after : LineState) :
    ∃ p, (v.turnDone n x rep after).station? n e.address = some { e.gains g with pending := p } := by
  obtain ⟨y, hentry, haddress, -, hreport⟩ := h.entry
  rw [← haddress] at hentry ⊢
  exact station?_turnDone hentry hreport

/-- With nothing waiting. -/
theorem finish_none (h : State.Decided n x rep st keeps e g s v) (hwork : s.admin.work = .none) (continues : Bool)
    (after : LineState) : (v.finishTurn n x continues rep none after).admin = s.admin
      ∧ ∃ p, (v.finishTurn n x continues rep none after).station? n e.address = some { e.gains g with pending := p } := by
  have hresolved : v.resolved n x continues rep after = v.turnDone n x rep after :=
    resolveAdmin_of_none (by rw [h.work_turnDone]; exact hwork) continues
  rw [admin_finishTurn, station?_finishTurn, hresolved]
  exact ⟨h.work_turnDone after, h.station_turnDone after⟩

/-- R177: a CANCEL that waited completes. -/
theorem finish_cancelling (h : State.Decided n x rep st keeps e g s v) {tag : Half} (hslot : x.slot = some k)
    (hwork : s.admin.work = .cancelling tag n k) (continues : Bool) (after : LineState) :
    (v.finishTurn n x continues rep none after).admin = { s.admin with
        work := .completing (adminCompletionOf tag (if st = .cancelled then .ok else .tooLate) 0 0) }
      ∧ ∃ p, (v.finishTurn n x continues rep none after).station? n e.address = some { e.gains g with pending := p } := by
  have hresolved := resolveAdmin_of_cancelling (s := v.turnDone n x rep after) (by rw [h.work_turnDone]; exact hwork) hslot continues
  rw [h.outcome_turnDone hslot] at hresolved
  simp only [Option.some.injEq] at hresolved
  rw [admin_finishTurn, station?_finishTurn, State.resolved, hresolved, admin_completeAdmin, h.work_turnDone, station?_completeAdmin]
  exact ⟨rfl, h.station_turnDone after⟩

/-- R76, R77: a DETACH that waited completes, and the entry is freed. -/
theorem finish_detaching (h : State.Decided n x rep st keeps e g s v) {tag : Half}
    (hwork : s.admin.work = .detaching tag n e.address) (continues : Bool) (after : LineState) :
    (v.finishTurn n x continues rep none after).station? n e.address = none
      ∧ (v.finishTurn n x continues rep none after).admin = { s.admin with
        work := .completing (adminCompletionOf tag (if decide (s.control.device = .stopping) && continues then .aborted else .ok)
          e.address 0) } := by
  obtain ⟨p, hentry⟩ := h.station_turnDone after
  have hresolved := resolveAdmin_of_detaching (s := v.turnDone n x rep after) (by rw [h.work_turnDone]; exact hwork) h.station continues
  rw [h.stopping_turnDone] at hresolved
  rw [admin_finishTurn, station?_finishTurn, State.resolved, hresolved, admin_completeAdmin, admin_freeStation, h.work_turnDone,
    station?_completeAdmin]
  exact ⟨station?_freeStation hentry, rfl⟩

theorem station?_disableEnded (w : State) (tag : Half) (ast : AdminStatus) (made : List SlotNo) {y : Station} {p : List SlotNo}
    {a : Byte} (hentry : w.station? n a = some { y with pending := p }) :
    (w.disableEnded n tag ast made).station? n a = some y.resync := by
  obtain ⟨q, hq⟩ := (onlyRequests_endAll n w .aborted (w.listed n)).entry _ _ hentry
  have hsame : (w.disableEnded n tag ast made).station? n a = ((w.endAll n .aborted (w.listed n)).resyncLine n).station? n a := by
    rw [disableEnded_eq]; rfl
  rw [hsame]
  unfold State.station? State.resyncLine at *
  rw [find?_map_key _ fun e => by split <;> rfl, hq, Option.map_some,
    if_pos (show ({ y with pending := q } : Station).line = n from (station?_key (s := w.endAll n .aborted (w.listed n)) hq).1)]
  rfl

/-- R180: a LINE_DISABLE that waited goes on. -/
theorem finish_disabling (h : State.Decided n x rep st keeps e g s v) {tag : Half} {ast : AdminStatus} {made : List SlotNo}
    (hwork : s.admin.work = .disabling tag n false ast made) (continues : Bool) (after : LineState) :
    (∃ made', (v.finishTurn n x continues rep none after).admin = { s.admin with
        work := .disabling tag n true (if decide (s.control.device = .stopping) && continues then .aborted else ast) made' }
      ∧ made <+: made' ∧ (st = .aborted → made ++ x.slot.toList <+: made'))
    ∧ (v.finishTurn n x continues rep none after).station? n e.address = some (e.gains g).resync := by
  obtain ⟨p, hentry⟩ := h.station_turnDone after
  have hresolved := resolveAdmin_of_disabling (s := v.turnDone n x rep after) (x := x)
    (by rw [h.work_turnDone]; exact hwork) continues
  rw [h.stopping_turnDone] at hresolved
  rw [admin_finishTurn, station?_finishTurn, State.resolved, hresolved, admin_disableEnded, h.work_turnDone]
  refine ⟨⟨_, rfl, ?grown, fun hst => ?slot⟩, station?_disableEnded _ _ _ _ hentry⟩
  case grown => exact (List.prefix_append _ _).trans (List.prefix_append _ _)
  case slot =>
    have hall : x.slot.toList.filter (fun k => decide ((v.turnDone n x rep after).outcome? n k = some .aborted)) = x.slot.toList :=
      List.filter_eq_self.2 fun k hk => by
        rw [h.outcome_turnDone (Option.mem_toList.1 hk), hst]
        exact decide_eq_true rfl
    rw [hall]
    exact List.prefix_append _ _

/-! ### DETACH on a RUNNING device (R75, R121) -/

/-- Freeing an entry looks at the pool and the table alone. -/
theorem freeStation_like {m m' : State} {z : Station} {a : Byte} (hpool : (m'.line n).pool = (m.line n).pool)
    (hstations : m'.stations = m.stations) (hentry : m.station? n a = some z) :
    (∀ j, (m'.freeStation n a).request? n j = (m.freeStation n a).request? n j)
    ∧ (z.pending.Nodup → ((m'.freeStation n a).line n).pool.doneOrder = ((m.freeStation n a).line n).pool.doneOrder) := by
  have hentry' : m'.station? n a = some z := by
    unfold State.station?
    rw [hstations]
    exact hentry
  have hslots : ∀ j, m'.request? n j = m.request? n j := request?_congr (congrArg Pool.slots hpool)
  refine ⟨fun j => ?_, fun hnodup => ?_⟩
  · rw [request?_freeStation hentry', request?_freeStation hentry, hslots]
  · rw [doneOrder_freeStation hentry' hnodup, doneOrder_freeStation hentry hnodup, hpool]
    simp only [hslots]

/-- The list behind the request is DETACHED, but for a head whose answer times out. -/
theorem finish_detached (h : State.Decided n x rep st keeps e g s v) {tag : Half} (hrunning : s.control.device = .running)
    (hdetach : e.detachPending = true) (hwork : s.admin.work = .detaching tag n e.address) (continues : Bool) (after : LineState) :
    (∀ j ∈ e.pending, x.slot ≠ some j → ∀ q, s.request? n j = some q → q.state = .waiting →
      (v.finishTurn n x continues rep none after).request? n j = some (q.ended .detached))
    ∧ (e.pending.Nodup → ((v.finishTurn n x continues rep none after).line n).pool.doneOrder
      = (s.line n).pool.doneOrder ++ x.slot.toList ++ e.pending.filter fun j =>
        decide (x.slot ≠ some j) && (s.request? n j).any Request.isOpen) := by
  obtain ⟨y, hentry, haddress, hattached, -⟩ := h.entry
  rw [← haddress] at hentry
  set z : Station := { y with pending := e.pending.filter fun j => decide (x.slot ≠ some j) } with hz
  have hstation : x.station = some z.address := h.station.trans (congrArg some haddress.symm)
  have hfound : v.entryOf n x = some z := entryOf_of_station hstation hentry
  have hnotStopping : v.stopping = false := by rw [State.stopping, h.control, hrunning]; rfl
  have hbehind : v.abortBehind n x = v := by simp only [State.abortBehind, hnotStopping, Bool.false_eq_true, if_false]
  have hreport : v.applyReport n x rep = v := applyReport_of_detachPending hstation hentry (hattached.trans hdetach)
  have hdone : v.turnDone n x rep after = (v.exchangeOver n x).onLine n fun l => l.turnOver none after := by
    rw [State.turnDone, hbehind, hreport, exchangeOver_of_running (by rw [h.control]; exact hrunning)]
  have hresolved := resolveAdmin_of_detaching (s := v.turnDone n x rep after) (by rw [h.work_turnDone]; exact hwork) h.station continues
  obtain ⟨gone, hunlists, -⟩ := unlists_exchangeOver v n x
  have hrest := station?_exchangeOver hunlists hfound
  have hfreed := freeStation_like (m := (v.exchangeOver n x).onLine n Line.unretried) (m' := v.turnDone n x rep after)
    (by rw [hdone, line_onLine, if_pos rfl, pool_unretried]; rfl) (by rw [hdone]; rfl) hrest
  rw [show z.address = e.address from haddress] at hfreed
  have hpool : ∀ j, (v.finishTurn n x continues rep none after).request? n j = (v.freedAfter n e.address x).request? n j := fun j => by
    rw [request?_finishTurn, State.resolved, hresolved]
    exact hfreed.1 j
  have hopen : ∀ j, x.slot ≠ some j → (v.request? n j).any Request.isOpen = (s.request? n j).any Request.isOpen := fun j hj => by
    rw [h.kept j hj]
  refine ⟨fun j hj hother q hq hwaiting => ?slots, fun hnodup => ?order⟩
  case slots =>
    have hq' := (h.kept j hother).trans hq
    have hlate : ¬ v.TimesOut n x j := fun ⟨_, _, r, _, _, _, hr, hanswering, _⟩ => by
      cases hq'.symm.trans hr
      rw [hwaiting] at hanswering
      cases hanswering
    rw [hpool]
    have hfree := request?_freedAfter hfound (List.mem_filter.2 ⟨hj, decide_eq_true hother⟩) hq' (by rw [hwaiting]; decide) hlate
    rwa [show z.address = e.address from haddress] at hfree
  case order =>
    have horder := doneOrder_freedAfter hfound (hnodup.filter _)
    rw [show z.address = e.address from haddress, h.order] at horder
    rw [pool_finishTurn, State.resolved, hresolved, line_completeAdmin, hfreed.2 ((hnodup.filter _).filter _)]
    refine horder.trans (congrArg _ ?_)
    rw [hz, List.filter_filter]
    refine List.filter_congr fun j _ => ?_
    by_cases hother : x.slot = some j
    · simp [hother]
    · rw [hopen j hother, Bool.and_comm]

end State.Decided

end

end Sys2Proof.Machine

/-! Overriding rules, and what each report makes of an entry (R61 to R70, R76, R112 step 3, R168). -/

namespace Sys2Proof.Machine

/-! ### Which rule overrides (R112 step 3) -/

section
variable {s c : State} {n : LineNo} {x : Exchange} {st : LineStatus} {e : Station} {r : Request} {k : SlotNo}

/-- The request the exchange serves carries a cancel mark. -/
def State.marked (s : State) (n : LineNo) (x : Exchange) : Bool := (x.slot.bind (s.request? n)).any Request.cancelMark

/-- The entry of the exchange is to be detached. -/
def State.detaches (s : State) (n : LineNo) (x : Exchange) : Bool := (s.entryOf n x).any Station.detachPending

/-- STOP first, then a cancel mark, detach_pending, LINE_DISABLE. -/
theorem override_eq (s : State) (n : LineNo) (x : Exchange) : s.override n x = if s.stopping then some .aborted
    else if s.marked n x then some .cancelled else if s.detaches n x then some .detached
    else if s.disabling n then some .aborted else none := by
  unfold State.override State.marked State.detaches State.entryOf
  cases x.slot.bind (s.request? n) <;> cases x.station.bind (s.station? n) <;> rfl

theorem override_congr (hcontrol : c.control = s.control) (hadmin : c.admin = s.admin) (hmarked : c.marked n x = s.marked n x)
    (hdetaches : c.detaches n x = s.detaches n x) : c.override n x = s.override n x := by
  have hstopping : c.stopping = s.stopping := by unfold State.stopping; rw [hcontrol]
  have hdisabling : c.disabling n = s.disabling n := by unfold State.disabling; rw [hadmin]
  rw [override_eq, override_eq, hstopping, hmarked, hdetaches, hdisabling]

theorem stopping_eq_false (h : s.control.device = .running) : s.stopping = false := by
  rw [State.stopping, h]; rfl

theorem override_of_stopping (h : s.control.device = .stopping) : s.override n x = some .aborted := by
  rw [override_eq, State.stopping, if_pos (decide_eq_true h)]

theorem marked_of_request (hslot : x.slot = some k) (hr : s.request? n k = some r) : s.marked n x = r.cancelMark := by
  rw [State.marked, hslot, Option.bind_some, hr]; rfl

theorem marked_eq_false (h : ∀ k r, x.slot = some k → s.request? n k = some r → r.cancelMark = false) : s.marked n x = false := by
  rw [State.marked, Option.any_eq_false]
  intro r hr
  obtain ⟨k, hk, hr⟩ := Option.bind_eq_some_iff.1 hr
  rw [h k r hk hr]

theorem override_of_marked (h : s.control.device = .running) (hmark : s.marked n x = true) : s.override n x = some .cancelled := by
  rw [override_eq, stopping_eq_false h, if_neg Bool.false_ne_true, if_pos hmark]

theorem detaches_of_entry (hstation : x.station = some e.address) (hentry : s.station? n e.address = some e) :
    s.detaches n x = e.detachPending := by
  rw [State.detaches, entryOf_of_station hstation hentry]; rfl

theorem override_of_detaches (h : s.control.device = .running) (hmark : s.marked n x = false) (hdetach : s.detaches n x = true) :
    s.override n x = some .detached := by
  rw [override_eq, stopping_eq_false h, hmark, if_neg Bool.false_ne_true, if_neg Bool.false_ne_true, if_pos hdetach]

theorem override_of_disabling (h : s.control.device = .running) (hmark : s.marked n x = false) (hdetach : s.detaches n x = false)
    (hdisabling : s.disabling n = true) : s.override n x = some .aborted := by
  rw [override_eq, stopping_eq_false h, hmark, hdetach, if_neg Bool.false_ne_true, if_neg Bool.false_ne_true,
    if_neg Bool.false_ne_true, if_pos hdisabling]

/-! ### The request made DONE -/

/-- The request of the exchange, if it serves one, DONE with `st`. -/
def State.overSlot (s : State) (n : LineNo) (x : Exchange) (st : LineStatus) (keeps : Request → Request) : State :=
  x.slot.elim s fun k => s.makeDone n k st keeps

theorem overSlot_of_slot (hslot : x.slot = some k) (s : State) (st : LineStatus) (keeps : Request → Request) :
    s.overSlot n x st keeps = s.makeDone n k st keeps := by
  rw [State.overSlot, hslot]; rfl

theorem overSlot_of_none (hslot : x.slot = none) (s : State) (st : LineStatus) (keeps : Request → Request) :
    s.overSlot n x st keeps = s := by
  rw [State.overSlot, hslot]; rfl

theorem settleContinuing_of_over (hover : s.override n x = some st) (stay final : Request → Request) :
    s.settleContinuing n x stay final = s.overSlot n x st final := by
  unfold State.settleContinuing State.overSlot
  cases x.slot with
  | none => rfl
  | some k => simp only [hover]; rfl

theorem onlyRequests_overSlot (s : State) (n : LineNo) (x : Exchange) (st : LineStatus) (keeps : Request → Request) :
    State.OnlyRequests n s (s.overSlot n x st keeps) := by
  unfold State.overSlot
  cases x.slot with
  | none => exact .refl n s
  | some k => exact onlyRequests_makeDone n s k st keeps

end

/-! ### Reports (R61 to R70) -/

section
variable {n : LineNo} {x : Exchange} {rep : Report} {now : Nat} {y : Station}

/-- Under detach_pending nothing, otherwise what the report's form says. -/
theorem reportsTo_gains {f : Station → Station} (hstation : x.station = some y.address) (hsteady : Station.Steady f)
    (h : y.detachPending = false → ∀ (w : State) (p : List SlotNo), w.now = now →
      w.station? n y.address = some { y with pending := p } →
      ∃ rs, w.applyReport n x rep = (w.reported n y.address f rs).flushOffline n y.address) :
    ReportsTo n x rep now y (y.gains (f y)) := by
  cases hdetach : y.detachPending with
  | true => rw [gains_of_detachPending hdetach]; exact reportsTo_of_detachPending hstation hdetach
  | false => rw [gains_of_attached hdetach]; exact reportsTo_of_reported hsteady (h hdetach)

theorem reportsTo_plain (hstation : x.station = some y.address) :
    ReportsTo n x (.success .plain) now y (y.gains y.succeeded) :=
  reportsTo_gains hstation steady_succeeded fun hattached _ p _ hentry =>
    ⟨_, applyReport_plain (e := { y with pending := p }) hstation hentry hattached⟩

theorem reportsTo_accepted (hstation : x.station = some y.address) (seq : Seq) :
    ReportsTo n x (.success (.accepted seq)) now y (y.gains { y.succeeded with txSeq := seq + 1 }) :=
  reportsTo_gains (f := fun y => { y.succeeded with txSeq := seq + 1 }) hstation ⟨fun _ => rfl, fun _ _ => rfl⟩
    fun hattached _ p _ hentry => ⟨_, applyReport_accepted (e := { y with pending := p }) hstation hentry hattached seq⟩

theorem reportsTo_stored (hstation : x.station = some y.address) (seq : Seq) : ReportsTo n x (.success (.stored seq)) now y
    (y.gains { y.succeeded with lastAck := some seq, rxExpect := seq + 1 }) :=
  reportsTo_gains (f := fun y => { y.succeeded with lastAck := some seq, rxExpect := seq + 1 }) hstation
    ⟨fun _ => rfl, fun _ _ => rfl⟩ fun hattached _ p _ hentry =>
    ⟨_, applyReport_stored (e := { y with pending := p }) hstation hentry hattached seq⟩

theorem reportsTo_busy (hstation : x.station = some y.address) : ReportsTo n x (.success .busy) now y
    (y.gains { y.succeeded with holdoff := some (now + y.busyHoldoff) }) :=
  reportsTo_gains (f := fun y => { y.succeeded with holdoff := some (now + y.busyHoldoff) }) hstation
    ⟨fun _ => rfl, fun _ _ => rfl⟩ fun hattached _ p hnow hentry =>
    ⟨_, hnow ▸ applyReport_busy (e := { y with pending := p }) hstation hentry hattached⟩

theorem unstepped_self (y : Station) : y.unstepped y = y.loseStep := by
  unfold Station.unstepped Station.loseStep
  cases y.outOfStep <;> simp

theorem reportsTo_outOfStep (hstation : x.station = some y.address) (detail : Nat) :
    ReportsTo n x (.success (.outOfStep detail)) now y (y.gains y.succeeded.loseStep) := by
  rw [← unstepped_self y.succeeded]
  exact reportsTo_gains (f := fun z => y.succeeded.unstepped z.succeeded) hstation
    (steady_succeeded.comp (steady_unstepped y.succeeded)) fun hattached _ p _ hentry =>
    ⟨_, applyReport_outOfStep (e := { y with pending := p }) hstation hentry hattached detail⟩

theorem reportsTo_synced (hstation : x.station = some y.address) : ReportsTo n x (.success .synced) now y (y.gains y.synced) :=
  reportsTo_gains hstation steady_synced fun hattached _ p _ hentry =>
    ⟨_, applyReport_synced (e := { y with pending := p }) hstation hentry hattached⟩

theorem reportsTo_silent (hstation : x.station = some y.address) : ReportsTo n x .silent now y (y.gains y) :=
  reportsTo_gains (f := fun y => y) hstation ⟨fun _ => rfl, fun _ _ => rfl⟩ fun hattached _ p _ hentry =>
    ⟨_, applyReport_silent (e := { y with pending := p }) hstation hentry hattached⟩

theorem failedBy_self (y : Station) (frame : FrameKind) : y.failedBy frame y = y.failed frame := by
  unfold Station.failedBy Station.failed
  split
  · rfl
  · next hne => rw [fallen_eq hne, losing_eq, Bool.or_assoc]

theorem reportsTo_failure (hstation : x.station = some y.address) (hkind : x.kind ≠ .slow) :
    ReportsTo n x .failure now y (y.gains (y.failed x.frame)) := by
  rw [← failedBy_self]
  exact reportsTo_gains (f := y.failedBy x.frame) hstation (steady_failedBy y _) fun hattached _ p _ hentry =>
    ⟨_, applyReport_failure (e := { y with pending := p }) hstation hentry hattached hkind⟩

theorem abandons_self (x : Exchange) (y : Station) :
    x.abandons y y = if x.sent = true ∧ (x.frame = .select ∨ x.frame = .reset) then y.loseStep else y := by
  unfold Exchange.abandons Exchange.costs Station.loseStep
  by_cases hreached : x.sent = true ∧ (x.frame = .select ∨ x.frame = .reset)
  · rw [if_pos hreached]
    cases y.outOfStep <;> simp [hreached.1, hreached.2]
  · rw [if_neg hreached, decide_eq_false fun h => hreached ⟨h.1, h.2.1⟩, Bool.or_false]

theorem reportsTo_abandoned (hstation : x.station = some y.address) : ReportsTo n x .abandoned now y
    (y.gains (if x.sent = true ∧ (x.frame = .select ∨ x.frame = .reset) then y.loseStep else y)) := by
  rw [← abandons_self]
  exact reportsTo_gains (f := x.abandons y) hstation (steady_abandons x y) fun hattached _ p _ hentry =>
    ⟨_, applyReport_abandoned (e := { y with pending := p }) hstation hentry hattached⟩

end

end Sys2Proof.Machine

/-! Turns whose result is made final: from what is noted before the request is settled to the end (R53, R61, R112, R117, R118). -/

namespace Sys2Proof.Machine

/-! ### What is noted of an entry before its request is settled (R53, R61) -/

/-- The device, the time and the other lines are as they were. -/
structure State.LineOnly (n : LineNo) (s t : State) : Prop where
  device : s.SameDevice t
  now : t.now = s.now
  others : State.OthersKept n s t

theorem State.Settling.lineOnly {n : LineNo} {s t : State} (h : State.Settling n s t) : State.LineOnly n s t :=
  ⟨h.device, h.now, h.others⟩

theorem State.LineOnly.trans {n : LineNo} {s t u : State} (h : State.LineOnly n s t) (k : State.LineOnly n t u) :
    State.LineOnly n s u where
  device := h.device.trans k.device
  now := k.now.trans h.now
  others := fun m hm => ⟨(k.others m hm).1.trans (h.others m hm).1, (k.others m hm).2.trans (h.others m hm).2⟩

/-- Entry `e` has become `y`, and nothing else of the line or of what waits has changed. -/
structure State.Noted (n : LineNo) (e y : Station) (s c : State) : Prop where
  beside : State.LineOnly n s c
  pool : (c.line n).pool = (s.line n).pool
  admin : c.admin = s.admin
  entry : c.station? n e.address = some y
  address : y.address = e.address
  pending : y.pending = e.pending
  detachPending : y.detachPending = e.detachPending

section
variable {s b c v : State} {n : LineNo} {x : Exchange} {e y z g : Station} {st : LineStatus} {keeps : Request → Request} {rep : Report}
  {control : Byte}

theorem settling_reported (s : State) (n : LineNo) (a : Byte) {f : Station → Station} (hkey : ∀ y, (f y).key = y.key)
    (rs : List EventRecord) : State.Settling n s (s.reported n a f rs) :=
  (settling_onStation n s a f hkey).trans (settling_foldl n State.offer (fun s r => settling_offer n s r) rs _)

namespace State.Noted

theorem refl (hentry : s.station? n e.address = some e) : State.Noted n e e s s :=
  ⟨(State.Settling.refl n s).lineOnly, rfl, rfl, hentry, rfl, rfl, rfl⟩

theorem trans (h : State.Noted n e y s c) (k : State.Noted n y z c v) : State.Noted n e z s v :=
  ⟨h.beside.trans k.beside, k.pool.trans h.pool, k.admin.trans h.admin, h.address ▸ k.entry, k.address.trans h.address,
    k.pending.trans h.pending, k.detachPending.trans h.detachPending⟩

theorem reported (hentry : s.station? n e.address = some e) {f : Station → Station} (hkey : ∀ y, (f y).key = y.key)
    (hpending : (f e).pending = e.pending) (hdetach : (f e).detachPending = e.detachPending) (rs : List EventRecord) :
    State.Noted n e (f e) s (s.reported n e.address f rs) where
  beside := (settling_reported s n e.address hkey rs).lineOnly
  pool := by rw [line_reported]
  admin := by rw [reported_eq]; rfl
  entry := station?_reported_self hkey rs hentry
  address := congrArg Prod.snd (hkey e)
  pending := hpending
  detachPending := hdetach

theorem request? (h : State.Noted n e y s c) (k : SlotNo) : c.request? n k = s.request? n k :=
  request?_congr (congrArg Pool.slots h.pool) k

theorem station (h : State.Noted n e y s c) (hstation : x.station = some e.address) : x.station = some y.address :=
  hstation.trans (congrArg some h.address.symm)

/-- No rule looks at what is noted. -/
theorem override (h : State.Noted n e y s c) (hstation : x.station = some e.address) (hentry : s.station? n e.address = some e) :
    c.override n x = s.override n x := by
  refine override_congr h.beside.device.1 h.admin ?_ ?_
  · unfold State.marked
    rw [show c.request? n = s.request? n from funext h.request?]
  · rw [detaches_of_entry hstation hentry, ← h.detachPending]
    exact detaches_of_entry (h.station hstation) ((congrArg _ h.address).trans h.entry)

/-- The request made DONE after that. -/
theorem decided (h : State.Noted n e y s c) (hstation : x.station = some e.address)
    (hopen : ∀ k, x.slot = some k → ∃ r, s.request? n k = some r ∧ r.state ≠ .done)
    (hreport : ReportsTo n x rep c.now y (e.gains g)) :
    State.Decided n x rep st keeps e g s (c.overSlot n x st keeps) := by
  have honly := onlyRequests_overSlot c n x st keeps
  have hnow : (c.overSlot n x st keeps).now = c.now := honly.now
  have hentry : c.station? n y.address = some y := (congrArg _ h.address).trans h.entry
  cases hslot : x.slot with
  | none =>
    have hnone : ∀ k, x.slot ≠ some k := fun k hk => by rw [hslot] at hk; cases hk
    rw [overSlot_of_none hslot]
    refine ⟨fun k hk => absurd hk (hnone k), fun k _ hk => absurd hk (hnone k), fun j _ => h.request? j, ?_, h.admin,
      h.beside.device.1, hstation, y, ?_, h.address, h.detachPending, hreport⟩
    · rw [h.pool, hslot, Option.toList_none, List.append_nil]
    · rw [h.entry, hslot, ← h.pending]; simp
  | some k =>
    obtain ⟨r, hr, hr'⟩ := hopen k hslot
    have hrc : c.request? n k = some r := (h.request? k).trans hr
    have hother : ∀ j, x.slot ≠ some j → j ≠ k := fun j hj hjk => hj (hslot.trans (congrArg some hjk.symm))
    refine ⟨fun j hj => ?held, fun j q hj hq => ?request, fun j hj => ?kept, ?order, honly.admin.trans h.admin,
      honly.control.trans h.beside.device.1, hstation, y, ?entry, h.address, h.detachPending, hnow ▸ hreport⟩
    case held =>
      cases hslot.symm.trans hj
      exact ⟨r, hr⟩
    case request =>
      cases hslot.symm.trans hj
      cases hr.symm.trans hq
      rw [overSlot_of_slot hslot, request?_makeDone_self hrc hr']
      rfl
    case kept => rw [overSlot_of_slot hslot, request?_makeDone, if_neg fun hjk => hother j hj hjk.2, h.request?]
    case order => rw [overSlot_of_slot hslot, doneOrder_makeDone hrc hr', h.pool, hslot]; rfl
    case entry =>
      have hlist := station?_makeDone_gone hentry hrc hr' st keeps
      rw [h.pending, ← hslot] at hlist
      rw [overSlot_of_slot hslot, ← h.address]
      exact hlist

end State.Noted

/-- Records offered after that. -/
theorem State.Decided.offered (h : State.Decided n x rep st keeps e g s v) (r : EventRecord) :
    State.Decided n x rep st keeps e g s (v.offer r) := by
  obtain ⟨y, hentry, haddress, hdetach, hreport⟩ := h.entry
  refine ⟨h.held, fun k q hk hq => ?_, fun j hj => ?_, ?_, ?_, ?_, h.station, y, ?_, haddress, hdetach, ?_⟩
  · rw [request?_offer]; exact h.request k q hk hq
  · rw [request?_offer]; exact h.kept j hj
  · rw [line_offer]; exact h.order
  · rw [admin_offer]; exact h.admin
  · rw [control_offer]; exact h.control
  · rw [station?_offer]; exact hentry
  · rw [now_offer]; exact hreport

/-! ### Gains of what is noted -/

/-- What is noted is not noted under detach_pending, and neither is what follows. -/
theorem gains_noted (F : Station → Station) (h : z.detachPending = e.detachPending) : (e.gains z).gains (F (e.gains z)) = e.gains (F z) := by
  cases hdetach : e.detachPending with
  | true => rw [gains_of_detachPending hdetach, gains_of_detachPending hdetach, gains_of_detachPending hdetach]
  | false => rw [gains_of_attached hdetach, gains_of_attached (h.trans hdetach), gains_of_attached hdetach]

/-- R53: a protocol error noted, or not under detach_pending. -/
theorem noted_noteProtocolError (hstation : x.station = some e.address) (hentry : s.station? n e.address = some e)
    (hkind : x.kind ≠ .slow) (control : Byte) : State.Noted n e (e.gains e.misread) s (s.noteProtocolError n x control) := by
  have hfound := entryOf_of_station hstation hentry
  cases hdetach : e.detachPending with
  | true =>
    rw [gains_of_detachPending hdetach, noteProtocolError_of_exempt hfound (.inr hdetach)]
    exact .refl hentry
  | false =>
    rw [gains_of_attached hdetach, noteProtocolError_of_counted hfound hkind hdetach, reportProtocolError_eq]
    exact .reported hentry steady_misread.key rfl rfl _

/-- R61: a failed turn counted, or not under detach_pending. -/
theorem noted_noteFailedTurn (hstation : x.station = some e.address) (hentry : s.station? n e.address = some e)
    (hkind : x.kind ≠ .slow) : State.Noted n e (e.gains e.tried) s (s.noteFailedTurn n x) := by
  have hfound := entryOf_of_station hstation hentry
  cases hdetach : e.detachPending with
  | true =>
    have hsame : s.noteFailedTurn n x = s := by
      rw [State.noteFailedTurn, hfound]
      exact if_pos (.inr hdetach)
    rw [gains_of_detachPending hdetach, hsame]
    exact .refl hentry
  | false =>
    have hcounted : s.noteFailedTurn n x = s.reported n e.address Station.tried [] := by
      rw [State.noteFailedTurn, hfound]
      exact if_neg (by rw [hdetach]; rintro (h | h); exacts [hkind h, Bool.false_ne_true h])
    rw [gains_of_attached hdetach, hcounted]
    exact .reported hentry steady_tried.key rfl rfl _

end

/-! ### A command that ends a turn -/

/-- Command `cmd` ends the turn of exchange `x` at `moment` with a result that makes its request DONE with `st`, the device but
for the line being as in `b`. -/
def State.EndsBy (s b : State) (n : LineNo) (x : Exchange) (cmd : Instr) (continues : Bool) (after : LineState) (moment : Nat)
    (st : LineStatus) (keeps : Request → Request) (e g : Station) : Prop :=
  ∃ (v : State) (rep : Report), exec cmd s = .next (v.finishTurn n x continues rep none after) ∧ v.now = moment
    ∧ b.SameDevice v ∧ State.OthersKept n s v ∧ State.Decided n x rep st keeps e g s v

section
variable {s b c : State} {n : LineNo} {x : Exchange} {cmd : Instr} {continues : Bool} {after : LineState} {e y g : Station}
  {st : LineStatus} {keeps : Request → Request} {rep : Report} {d : Nat}

theorem endsBy_of_noted (h : State.Noted n e y s c) (hstation : x.station = some e.address)
    (hopen : ∀ k, x.slot = some k → ∃ r, s.request? n k = some r ∧ r.state ≠ .done)
    (hreport : ReportsTo n x rep s.now y (e.gains g))
    (hexec : exec cmd s = .next ((c.overSlot n x st keeps).finishTurn n x continues rep none after)) :
    s.EndsBy s n x cmd continues after s.now st keeps e g := by
  have hbeside := h.beside.trans (onlyRequests_overSlot c n x st keeps).settling.lineOnly
  exact ⟨_, rep, hexec, hbeside.now, hbeside.device, hbeside.others,
    h.decided hstation hopen (h.beside.now ▸ hreport)⟩

/-- A turn ended by a timer. -/
theorem endsBy_of_reach (h : State.Noted n e y (s.reach d) c) (hstation : x.station = some e.address)
    (hopen : ∀ k, x.slot = some k → ∃ r, s.request? n k = some r ∧ r.state ≠ .done)
    (hreport : ReportsTo n x rep (max s.now d) y (e.gains g))
    (hexec : exec cmd s = .next ((c.overSlot n x st keeps).finishTurn n x continues rep none after)) :
    s.EndsBy s n x cmd continues after (max s.now d) st keeps e g := by
  have hbeside := h.beside.trans (onlyRequests_overSlot c n x st keeps).settling.lineOnly
  have hdecided : State.Decided n x rep st keeps e g (s.reach d) (c.overSlot n x st keeps) :=
    h.decided hstation hopen (h.beside.now ▸ hreport)
  exact ⟨_, rep, hexec, hbeside.now, hbeside.device, hbeside.others, ⟨hdecided.held, hdecided.request, hdecided.kept,
    hdecided.order, hdecided.admin, hdecided.control, hdecided.station, hdecided.entry⟩⟩

/-- A turn ended by the completion of an access. -/
theorem endsBy_of_access {a : Access} (h : State.Noted n e y (s.finishAccess a) c) (hstation : x.station = some e.address)
    (hopen : ∀ k, x.slot = some k → ∃ r, s.request? n k = some r ∧ r.state ≠ .done)
    (hreport : ReportsTo n x rep s.now y (e.gains g))
    (hexec : exec cmd s = .next ((c.overSlot n x st keeps).finishTurn n x continues rep none after)) :
    s.EndsBy (s.finishAccess a) n x cmd continues after s.now st keeps e g := by
  have hbeside := h.beside.trans (onlyRequests_overSlot c n x st keeps).settling.lineOnly
  have hdecided : State.Decided n x rep st keeps e g (s.finishAccess a) (c.overSlot n x st keeps) :=
    h.decided hstation hopen (h.beside.now ▸ hreport)
  exact ⟨_, rep, hexec, hbeside.now, hbeside.device, hbeside.others, ⟨hdecided.held, hdecided.request, hdecided.kept,
    hdecided.order, hdecided.admin, hdecided.control, hdecided.station, hdecided.entry⟩⟩

end

end Sys2Proof.Machine

/-! Results that would continue, made final by an overriding rule: replies, failed turns, jams (R108, R112 to R117, R168, R177). -/

namespace Sys2Proof.Machine

section
variable {s b : State} {n : LineNo} {t : Turn} {x : Exchange} {e y g : Station} {st : LineStatus} {k : SlotNo} {r : Request}
  {control : Byte} {payload : List Byte} {d : Nat}

theorem slotOpen_of_slot (hslot : x.slot = some k) (hr : s.request? n k = some r) (hopen : r.state ≠ .done) :
    ∀ j, x.slot = some j → ∃ q, s.request? n j = some q ∧ q.state ≠ .done := fun j hj => by
  cases hslot.symm.trans hj
  exact ⟨r, hr, hopen⟩

/-! ### Replies -/

section
variable (hactive : s.active = true) (hstate : (s.line n).state = .turn t) (hstation : t.exch.station = some e.address)
  (hentry : s.station? n e.address = some e) (hend : t.BeforeEnd control payload)

include hactive hstate hend

theorem exec_reply {reply : Reply} (hclass : classify t.exch.frame t.exch.control control payload = .wellFormed reply) :
    exec (.characterReceived n 0xCA false false) s = .next (s.onReply n t control reply) :=
  (exec_endReceived hactive hstate hend).trans (congrArg _ (onFrame_of_wellFormed hclass))

include hstation hentry

/-- R114: BUSY to a SELECT. -/
theorem endsBy_busy (hover : s.override n t.exch = some st) (hframe : t.exch.frame = .select) (hslot : t.exch.slot = some k)
    (hr : s.request? n k = some r) (hopen : r.state ≠ .done) (hkind : control.extractLsb' 4 4 = 0xB) (hempty : payload = [])
    (hcount : r.busyCount < e.busyLimit) :
    s.EndsBy s n t.exch (.characterReceived n 0xCA false false) true .idle s.now st
      (fun q => { q with busyCount := q.busyCount + 1 }) e { e.succeeded with holdoff := some (s.now + e.busyHoldoff) } := by
  subst hempty
  have hexec := exec_reply hactive hstate hend (by rw [hframe]; exact classify_busy hkind)
  refine endsBy_of_noted (.refl hentry) hstation (slotOpen_of_slot hslot hr hopen) (reportsTo_busy hstation) (hexec.trans ?_)
  rw [← settleContinuing_of_over hover fun q => { q with state := .waiting, busyCount := q.busyCount + 1 }]
  simp only [State.onReply, State.onBusy, hslot, entryOf_of_station hstation hentry, hr, if_pos hcount]

/-- R113: REJECT to a SELECT. -/
theorem endsBy_reject (hover : s.override n t.exch = some st) (hframe : t.exch.frame = .select) (hslot : t.exch.slot = some k)
    (hr : s.request? n k = some r) (hopen : r.state ≠ .done) (hkind : control.extractLsb' 4 4 = 0xC)
    (hlength : payload.length ≤ 1) :
    s.EndsBy s n t.exch (.characterReceived n 0xCA false false) true .idle s.now st (fun q => { q with resent := true }) e
      e.succeeded.loseStep := by
  have hexec := exec_reply hactive hstate hend (by rw [hframe]; exact classify_selectReject hkind hlength)
  refine endsBy_of_noted (.refl hentry) hstation (slotOpen_of_slot hslot hr hopen)
    (reportsTo_outOfStep hstation (rejectDetail payload.head?)) (hexec.trans ?_)
  rw [← settleContinuing_of_over hover fun q => { q with state := .waiting, resent := true }]
  simp only [State.onReply, hframe, State.onSelectReject]

/-- R113, R120: ACCEPT to a QUERY's SELECT. -/
theorem endsBy_acceptQuery (hover : s.override n t.exch = some st) (hframe : t.exch.frame = .select)
    (hslot : t.exch.slot = some k) (hr : s.request? n k = some r) (hopen : r.state ≠ .done) (hquery : r.kind = .query)
    (hkind : control.extractLsb' 4 4 = 0xA) (hempty : payload = [])
    (hseq : control.extractLsb' 0 3 = t.exch.control.extractLsb' 0 3) :
    s.EndsBy s n t.exch (.characterReceived n 0xCA false false) true .idle s.now st (fun q => { q with deliveryUnknown := false }) e
      { e.succeeded with txSeq := t.exch.control.extractLsb' 0 3 + 1 } := by
  subst hempty
  have hexec := exec_reply hactive hstate hend (by rw [hframe]; exact classify_accept hkind hseq)
  refine endsBy_of_noted (.refl hentry) hstation (slotOpen_of_slot hslot hr hopen)
    (reportsTo_accepted hstation (t.exch.control.extractLsb' 0 3)) (hexec.trans ?_)
  rw [← settleContinuing_of_over hover fun q => q.enterAnswering s.now (s.line n).config.querySpacing]
  simp only [State.onReply, State.onAccept, hslot, hr, if_pos hquery]

/-- R113: ACCEPT to any other SELECT. -/
theorem endsBy_accept (hframe : t.exch.frame = .select) (hslot : t.exch.slot = some k) (hr : s.request? n k = some r)
    (hopen : r.state ≠ .done) (hother : r.kind ≠ .query) (hkind : control.extractLsb' 4 4 = 0xA) (hempty : payload = [])
    (hseq : control.extractLsb' 0 3 = t.exch.control.extractLsb' 0 3) :
    s.EndsBy s n t.exch (.characterReceived n 0xCA false false) false .idle s.now .ok (fun q => { q with deliveryUnknown := false })
      e { e.succeeded with txSeq := t.exch.control.extractLsb' 0 3 + 1 } := by
  subst hempty
  have hexec := exec_reply hactive hstate hend (by rw [hframe]; exact classify_accept hkind hseq)
  refine endsBy_of_noted (.refl hentry) hstation (slotOpen_of_slot hslot hr hopen)
    (reportsTo_accepted hstation (t.exch.control.extractLsb' 0 3)) (hexec.trans ?_)
  simp only [State.onReply, State.onAccept, hslot, hr, if_neg hother, overSlot_of_slot hslot]

/-- R114: BUSY to the last SELECT busy_limit allows. -/
theorem endsBy_refused (hframe : t.exch.frame = .select) (hslot : t.exch.slot = some k) (hr : s.request? n k = some r)
    (hopen : r.state ≠ .done) (hkind : control.extractLsb' 4 4 = 0xB) (hempty : payload = []) (hcount : e.busyLimit ≤ r.busyCount) :
    s.EndsBy s n t.exch (.characterReceived n 0xCA false false) false .idle s.now .refused id e
      { e.succeeded with holdoff := some (s.now + e.busyHoldoff) } := by
  subst hempty
  have hexec := exec_reply hactive hstate hend (by rw [hframe]; exact classify_busy hkind)
  refine endsBy_of_noted (.refl hentry) hstation (slotOpen_of_slot hslot hr hopen) (reportsTo_busy hstation) (hexec.trans ?_)
  simp only [State.onReply, State.onBusy, hslot, entryOf_of_station hstation hentry, hr, if_neg (Nat.not_lt.2 hcount),
    overSlot_of_slot hslot]

/-- R65, R113: READY to a RESET. -/
theorem endsBy_ready (hframe : t.exch.frame = .reset) (hslot : t.exch.slot = some k) (hr : s.request? n k = some r)
    (hopen : r.state ≠ .done) (hkind : control.extractLsb' 4 4 = 0xD) (hempty : payload = []) :
    s.EndsBy s n t.exch (.characterReceived n 0xCA false false) false .idle s.now .ok id e e.synced := by
  subst hempty
  have hexec := exec_reply hactive hstate hend (by rw [hframe]; exact classify_ready hkind)
  refine endsBy_of_noted (.refl hentry) hstation (slotOpen_of_slot hslot hr hopen) (reportsTo_synced hstation) (hexec.trans ?_)
  simp only [State.onReply, State.onReady, hslot, overSlot_of_slot hslot]

end

/-! ### Replies to a POLL that leave its head ANSWERING (R115, R116) -/

/-- R115: the ANSWERING head it served would continue. -/
theorem onPollPlain_of_over (hover : s.override n x = some st) (hslot : x.slot = some k) (hr : s.request? n k = some r)
    (hanswering : r.state = .answering) (eff : ReplyEffect) :
    s.onPollPlain n x eff = (s.overSlot n x st id).finishTurn n x true (.success eff) none .idle := by
  have hserved : s.slotIs n k .answering = true := by simp [State.slotIs, hr, hanswering]
  unfold State.onPollPlain
  simp only [hslot, hserved, if_true]
  rw [settleContinuing_of_over hover]

section
variable (hactive : s.active = true) (hstate : (s.line n).state = .turn t) (hstation : t.exch.station = some e.address)
  (hentry : s.station? n e.address = some e) (hover : s.override n t.exch = some st) (hend : t.BeforeEnd control payload)
  (hframe : t.exch.frame = .poll) (hslot : t.exch.slot = some k) (hr : s.request? n k = some r) (hanswering : r.state = .answering)

include hactive hstate hstation hentry hover hend hframe hslot hr hanswering

omit hframe in
/-- A reply that tells nothing of the request. -/
theorem endsBy_pollPlain {eff : ReplyEffect}
    (hreply : s.onFrame n t control payload = s.onPollPlain n t.exch eff) (hreport : ReportsTo n t.exch (.success eff) s.now e (e.gains g)) :
    s.EndsBy s n t.exch (.characterReceived n 0xCA false false) true .idle s.now st id e g := by
  refine endsBy_of_noted (.refl hentry) hstation (slotOpen_of_slot hslot hr (by rw [hanswering]; decide)) hreport
    ((exec_endReceived hactive hstate hend).trans (congrArg _ ?_))
  rw [hreply, onPollPlain_of_over hover hslot hr hanswering]

theorem endsBy_pollIdle (hkind : control.extractLsb' 4 4 = 0x9) (hempty : payload = []) :
    s.EndsBy s n t.exch (.characterReceived n 0xCA false false) true .idle s.now st id e e.succeeded := by
  refine endsBy_pollPlain hactive hstate hstation hentry hover hend hslot hr hanswering ?_ (reportsTo_plain hstation)
  rw [hempty]
  exact onFrame_of_wellFormed (by rw [hframe]; exact classify_pollIdle hkind)

theorem endsBy_pollReject (hkind : control.extractLsb' 4 4 = 0xC) (hlength : payload.length ≤ 1) :
    s.EndsBy s n t.exch (.characterReceived n 0xCA false false) true .idle s.now st id e e.succeeded.loseStep := by
  refine endsBy_pollPlain hactive hstate hstation hentry hover hend hslot hr hanswering ?_
    (reportsTo_outOfStep hstation (rejectDetail payload.head?))
  refine (onFrame_of_wellFormed (by rw [hframe]; exact classify_pollReject hkind hlength)).trans ?_
  simp only [State.onReply, hframe]

omit hover hslot hr hanswering hactive hstate hend in
theorem onFrame_of_pollData (hkind : control.extractLsb' 4 4 = 0x8) (h1 : 1 ≤ payload.length) (h240 : payload.length ≤ 240) :
    s.onFrame n t control payload = if t.exch.control.getLsbD 3 = false then
        (s.noteProtocolError n t.exch control).onPollPlain n t.exch .plain
      else if control.extractLsb' 0 3 = e.rxExpect then
        if s.readyUnbacked n t.exch then s.onPollPlain n t.exch .plain else s.beginStore n t (control.extractLsb' 0 3) payload
      else if control.extractLsb' 0 3 = e.rxExpect - 1 then s.onPollPlain n t.exch .plain
      else s.onPollPlain n t.exch (.outOfStep (256 + (control.extractLsb' 0 3).toNat)) := by
  refine (onFrame_of_wellFormed (by rw [hframe]; exact classify_pollData hkind h1 h240)).trans ?_
  simp only [State.onReply, State.onPollData, entryOf_of_station hstation hentry]

/-- R116: DATA seen before. -/
theorem endsBy_pollAgain (hkind : control.extractLsb' 4 4 = 0x8) (h1 : 1 ≤ payload.length) (h240 : payload.length ≤ 240)
    (hready : t.exch.control.getLsbD 3 = true) (hseq : control.extractLsb' 0 3 = e.rxExpect - 1) :
    s.EndsBy s n t.exch (.characterReceived n 0xCA false false) true .idle s.now st id e e.succeeded := by
  have hne : control.extractLsb' 0 3 ≠ e.rxExpect := by rw [hseq]; intro h; bv_omega
  refine endsBy_pollPlain hactive hstate hstation hentry hover hend hslot hr hanswering ?_ (reportsTo_plain hstation)
  rw [onFrame_of_pollData hstation hentry hframe hkind h1 h240, hready, if_neg Bool.true_eq_false.mp, if_neg hne, if_pos hseq]

/-- R69, R116: DATA out of sequence. -/
theorem endsBy_pollLost (hkind : control.extractLsb' 4 4 = 0x8) (h1 : 1 ≤ payload.length) (h240 : payload.length ≤ 240)
    (hready : t.exch.control.getLsbD 3 = true) (hne : control.extractLsb' 0 3 ≠ e.rxExpect)
    (hne' : control.extractLsb' 0 3 ≠ e.rxExpect - 1) :
    s.EndsBy s n t.exch (.characterReceived n 0xCA false false) true .idle s.now st id e e.succeeded.loseStep := by
  refine endsBy_pollPlain hactive hstate hstation hentry hover hend hslot hr hanswering ?_
    (reportsTo_outOfStep hstation (256 + (control.extractLsb' 0 3).toNat))
  rw [onFrame_of_pollData hstation hentry hframe hkind h1 h240, hready, if_neg Bool.true_eq_false.mp, if_neg hne, if_neg hne']

/-- R53, R116: DATA though the POLL carried no READY. -/
theorem endsBy_pollMisread (hkindTurn : t.exch.kind ≠ .slow) (hkind : control.extractLsb' 4 4 = 0x8) (h1 : 1 ≤ payload.length)
    (h240 : payload.length ≤ 240) (hready : t.exch.control.getLsbD 3 = false) :
    s.EndsBy s n t.exch (.characterReceived n 0xCA false false) true .idle s.now st id e
      { e.succeeded with protocolErrors := min (e.protocolErrors + 1) 65535 } := by
  have hnoted := noted_noteProtocolError hstation hentry hkindTurn control
  have hreport := reportsTo_plain (n := n) (now := s.now) (hnoted.station hstation)
  rw [gains_noted (e := e) Station.succeeded (z := e.misread) rfl] at hreport
  refine endsBy_of_noted hnoted hstation (slotOpen_of_slot hslot hr (by rw [hanswering]; decide)) hreport
    ((exec_endReceived hactive hstate hend).trans (congrArg _ ?_))
  rw [onFrame_of_pollData hstation hentry hframe hkind h1 h240, if_pos hready,
    onPollPlain_of_over ((hnoted.override hstation hentry).trans hover) hslot ((hnoted.request? k).trans hr) hanswering]

end

end

end Sys2Proof.Machine

/-! Failed turns, jams and stored DATA, as ends of turns (R51, R53, R108, R111, R117, R118, R130, R132). -/

namespace Sys2Proof.Machine

/-- R53: an entry with the protocol error counted that a turn ended on, if it did. -/
def Station.misreadIf (e : Station) (protocolError : Bool) : Station := if protocolError then e.misread else e

section
variable {s c : State} {n : LineNo} {t : Turn} {x : Exchange} {e y g : Station} {st : LineStatus} {k : SlotNo} {r : Request}
  {cmd : Instr} {moment d : Nat} {protocolError : Bool}

theorem tried_misreadIf (e : Station) (protocolError : Bool) : (e.misreadIf protocolError).tried = e.failedTurn protocolError := by
  cases protocolError <;> rfl

theorem detachPending_misreadIf (e : Station) (protocolError : Bool) :
    (e.misreadIf protocolError).detachPending = e.detachPending := by
  cases protocolError <;> rfl

theorem gains_self (e : Station) : e.gains e = e := ite_self _

theorem reach_now (s : State) : s.reach s.now = s := by
  rw [State.reach, Nat.max_self]

/-- R51 to R53, R111: the command, as a failed turn. -/
theorem exec_of_failsTurn (hactive : s.active = true) (hstate : (s.line n).state = .turn t)
    (hstation : t.exch.station = some e.address) (hentry : s.station? n e.address = some e) (hkind : t.exch.kind ≠ .slow)
    (h : s.FailsTurn n t cmd moment protocolError) : ∃ d c, moment = max s.now d ∧ exec cmd s = .next (c.failTurn n t.exch)
      ∧ State.Noted n e (e.gains (e.misreadIf protocolError)) (s.reach d) c := by
  have hnone : e.gains (e.misreadIf false) = e := gains_self e
  have hstill (d : Nat) : State.Noted n e (e.gains (e.misreadIf false)) (s.reach d) (s.reach d) := by
    rw [hnone]
    exact .refl (s := s.reach d) hentry
  rcases h with ⟨rfl, hphase, rfl, d, hd, rfl⟩ | ⟨rfl, hphase, rfl, d, hd, rfl⟩
    | ⟨ch, framing, col, rfl, rfl, hphase, hcol, hcollecting, hend⟩
  · exact ⟨d, _, rfl, exec_replyTimerExpiry hactive hstate hphase hd, hstill d⟩
  · exact ⟨d, _, rfl, exec_gapTimerExpiry hactive hstate hphase hd, hstill d⟩
  · have hexec := (exec_characterReceived (ch := ch) (framing := framing) hactive hstate).trans
      (congrArg Host.Outcome.next (characterInTurn_of_collector (.inr hphase) hcol))
    have hsame : max s.now s.now = s.now := Nat.max_self _
    rcases hend with ⟨rfl, hgarbled⟩ | ⟨control, payload, hcomplete, hclass⟩
    · rw [collectCharacter_of_garbled hgarbled] at hexec
      exact ⟨s.now, s, hsame.symm, hexec, by have := hstill s.now; rwa [reach_now] at this ⊢⟩
    · rw [collectCharacter_of_complete hcomplete, State.onFrame] at hexec
      rcases hclass with ⟨rfl, hclass⟩ | ⟨rfl, hclass⟩
      · rw [hclass] at hexec
        exact ⟨s.now, s, hsame.symm, hexec, by have := hstill s.now; rwa [reach_now] at this ⊢⟩
      · rw [hclass] at hexec
        exact ⟨s.now, _, hsame.symm, hexec, by rw [reach_now]; exact noted_noteProtocolError hstation hentry hkind control⟩

/-- R61: the turn counted, with the protocol error it ended on. -/
theorem noted_failedTurn {b : State} (h : State.Noted n e (e.gains (e.misreadIf protocolError)) b c)
    (hstation : x.station = some e.address) (hkind : x.kind ≠ .slow) :
    State.Noted n e (e.gains (e.failedTurn protocolError)) b (c.noteFailedTurn n x) := by
  have hcounted := noted_noteFailedTurn (h.station hstation) ((congrArg _ h.address).trans h.entry) hkind
  rw [gains_noted Station.tried (detachPending_misreadIf e protocolError), tried_misreadIf] at hcounted
  exact h.trans hcounted

theorem retryLimit_gains_failedTurn (e : Station) (protocolError : Bool) :
    (e.gains (e.failedTurn protocolError)).retryLimit = e.retryLimit := by
  unfold Station.gains
  split <;> rfl

theorem retriesLeft_of_noted {b : State} (h : State.Noted n e (e.gains (e.failedTurn protocolError)) b c)
    (hstation : x.station = some e.address) : c.retriesLeft n x = true ↔ x.kind ≠ .slow ∧ x.turns ≤ e.retryLimit := by
  rw [State.retriesLeft, entryOf_of_station (h.station hstation) ((congrArg _ h.address).trans h.entry)]
  simp only [retryLimit_gains_failedTurn, Bool.and_eq_true, decide_eq_true_eq]

/-- R112, R168, R177: a failed turn whose retry a rule prevents. -/
theorem settlePrevented_of_over (hover : c.override n x = some st)
    (hserves : (x.slot = none ∧ (x.frame = .poll ∨ x.frame = .reset)) ∨ ∃ k r, x.slot = some k ∧ c.request? n k = some r ∧ x.Serves r) :
    c.settlePrevented n x = c.overSlot n x st x.unanswered := by
  rcases hserves with ⟨hslot, -⟩ | ⟨k, r, hslot, hr, hserves⟩
  · unfold State.settlePrevented State.settleContinuing
    rw [overSlot_of_none hslot]
    simp only [hslot, ite_self]
  · rw [State.settlePrevented, if_neg]
    · rw [settleContinuing_of_over hover]
      rfl
    · rintro ⟨hframe, hidle⟩
      rcases hserves with ⟨-, hanswering⟩ | ⟨hother, -⟩
      · rw [hslot] at hidle
        have hserved : c.slotIs n k .answering = true := by simp [State.slotIs, hr, hanswering]
        rw [show c.slotIs n k .answering = false from hidle] at hserved
        cases hserved
      · exact hother hframe

section
variable (hactive : s.active = true) (hstate : (s.line n).state = .turn t) (hstation : t.exch.station = some e.address)
  (hentry : s.station? n e.address = some e)

include hactive hstate hstation hentry

/-- R117: with retries left. -/
theorem endsBy_prevented (hover : s.override n t.exch = some st) (hfails : s.FailsTurn n t cmd moment protocolError)
    (hkind : t.exch.kind ≠ .slow) (hturns : t.exch.turns ≤ e.retryLimit)
    (hserves : (t.exch.slot = none ∧ (t.exch.frame = .poll ∨ t.exch.frame = .reset))
      ∨ ∃ k r, t.exch.slot = some k ∧ s.request? n k = some r ∧ t.exch.Serves r) :
    s.EndsBy s n t.exch cmd true .idle moment st t.exch.unanswered e
      (if t.exch.sent = true ∧ (t.exch.frame = .select ∨ t.exch.frame = .reset) then (e.failedTurn protocolError).loseStep
        else e.failedTurn protocolError) := by
  obtain ⟨d, c, rfl, hexec, hnoted⟩ := exec_of_failsTurn hactive hstate hstation hentry hkind hfails
  have hcounted := noted_failedTurn hnoted hstation hkind
  have hover' : (c.noteFailedTurn n t.exch).override n t.exch = some st :=
    (hcounted.override hstation hentry).trans hover
  have hopen : ∀ k, t.exch.slot = some k → ∃ r, s.request? n k = some r ∧ r.state ≠ .done := fun k hk => by
    rcases hserves with ⟨hslot, -⟩ | ⟨j, r, hslot, hr, hserved⟩
    · rw [hslot] at hk; cases hk
    · exact slotOpen_of_slot hslot hr hserved.open k hk
  have hreport := reportsTo_abandoned (n := n) (now := max s.now d) (hcounted.station hstation)
  rw [gains_noted (e := e) (fun y => if t.exch.sent = true ∧ (t.exch.frame = .select ∨ t.exch.frame = .reset) then y.loseStep else y)
    (z := e.failedTurn protocolError) rfl] at hreport
  refine endsBy_of_reach hcounted hstation hopen hreport (hexec.trans (congrArg _ ?_))
  rw [← settlePrevented_of_over hover' (hserves.imp_right fun ⟨k, r, hslot, hr, hserved⟩ =>
    ⟨k, r, hslot, (hcounted.request? k).trans hr, hserved⟩)]
  unfold State.failTurn
  simp only [(retriesLeft_of_noted hcounted hstation).2 ⟨hkind, hturns⟩, hover', Option.isSome_some, if_true]

/-- R118: with none left. -/
theorem endsBy_exhausted (hfails : s.FailsTurn n t cmd moment protocolError) (hkind : t.exch.kind ≠ .slow)
    (hturns : e.retryLimit < t.exch.turns) (hslot : t.exch.slot = some k) (hr : s.request? n k = some r) (hserves : t.exch.Serves r) :
    s.EndsBy s n t.exch cmd false .idle moment .noReply t.exch.unanswered e ((e.failedTurn protocolError).failed t.exch.frame) := by
  obtain ⟨d, c, rfl, hexec, hnoted⟩ := exec_of_failsTurn hactive hstate hstation hentry hkind hfails
  have hcounted := noted_failedTurn hnoted hstation hkind
  have hreport := reportsTo_failure (n := n) (now := max s.now d) (hcounted.station hstation) hkind
  rw [gains_noted (e := e) (fun y => y.failed t.exch.frame) (z := e.failedTurn protocolError) rfl] at hreport
  refine endsBy_of_reach hcounted hstation (slotOpen_of_slot hslot hr hserves.open) hreport (hexec.trans (congrArg _ ?_))
  rw [failTurn_of_used rfl fun h => absurd ((retriesLeft_of_noted hcounted hstation).1 h).2 (Nat.not_le.2 hturns),
    settleFailure_of_serves hslot ((hcounted.request? k).trans hr) hserves, overSlot_of_slot hslot]

end

/-! ### Jams (R108) -/

/-- R108: what a jam leaves in a request made final. -/
def Exchange.jammed (x : Exchange) (r : Request) : Request := if r.state = .active then x.mark r else r

theorem returned_of_over (hover : s.override n x = some st)
    (hserves : x.slot = none ∨ ∃ k r, x.slot = some k ∧ s.request? n k = some r ∧ (r.state = .active ∨ r.state = .answering)) :
    s.returned n x = s.overSlot n x st x.jammed := by
  rw [State.returned]
  rcases hserves with hslot | ⟨k, r, hslot, hr, hserved⟩
  · rw [hslot, overSlot_of_none hslot]; rfl
  · have hstates : (x.slot.any fun k => s.slotIs n k .answering || s.slotIs n k .active) = true := by
      rw [hslot, Option.any_some, slotIs_eq, slotIs_eq, hr]
      rcases hserved with h | h <;> simp [h]
    rw [if_pos hstates, settleContinuing_of_over hover]
    rfl

theorem endsBy_jam (hactive : s.active = true) (hstate : (s.line n).state = .turn t) (hstation : t.exch.station = some e.address)
    (hentry : s.station? n e.address = some e) (hover : s.override n t.exch = some st) (hphase : t.phase = .guard)
    (hend : t.jamEnd = some d)
    (hserves : t.exch.slot = none
      ∨ ∃ k r, t.exch.slot = some k ∧ s.request? n k = some r ∧ (r.state = .active ∨ r.state = .answering)) :
    s.EndsBy s n t.exch (.jamTimerExpiry n) true .jammed (max s.now d) st t.exch.jammed e e := by
  have hopen : ∀ k, t.exch.slot = some k → ∃ r, (s.reach d).request? n k = some r ∧ r.state ≠ .done := fun k hk => by
    rcases hserves with hslot | ⟨j, r, hslot, hr, hserved⟩
    · rw [hslot] at hk; cases hk
    · exact slotOpen_of_slot hslot hr (by rcases hserved with h | h <;> rw [h] <;> decide) k hk
  have hstill : State.Noted n e e (s.reach d) (s.reach d) := .refl hentry
  have hdecided := (hstill.decided (st := st) (keeps := t.exch.jammed) (g := e) hstation hopen (reportsTo_silent hstation)).offered
    (jamRecord n t.exch)
  have hsettling := (onlyRequests_overSlot (s.reach d) n t.exch st t.exch.jammed).settling.trans
    (settling_offer n _ (jamRecord n t.exch))
  refine ⟨_, .silent, (exec_jamTimerExpiry hactive hstate hphase hend).trans (congrArg _ ?_), hsettling.now, hsettling.device,
    hsettling.others, hdecided.held, hdecided.request, hdecided.kept, hdecided.order, hdecided.admin, hdecided.control,
    hdecided.station, hdecided.entry⟩
  rw [jamTurn_eq, returned_of_over (s := s.reach d) hover hserves]

/-! ### Stored DATA (R130, R132) -/

section
variable {a : Access} {stored : Store}

/-- R132: an answer stored. -/
theorem endsBy_answerStored (hstate : (s.line n).state = .turn t) (hstation : t.exch.station = some e.address)
    (hentry : s.station? n e.address = some e) (hstore : t.store = some stored) (hawaits : s.Awaits (.answerWrite n) a)
    (hslot : t.exch.slot = some k) (hr : s.request? n k = some r) (hanswering : r.state = .answering) :
    s.EndsBy (s.finishAccess a) n t.exch .answerWriteDone false .idle s.now .ok
      (fun q => { q with answerLength := stored.length, truncated := stored.truncated }) e
      { e.succeeded with lastAck := some stored.seq, rxExpect := stored.seq + 1 } := by
  refine endsBy_of_access (.refl (s := s.finishAccess a) hentry) hstation (slotOpen_of_slot hslot hr (by rw [hanswering]; decide))
    (reportsTo_stored hstation stored.seq) ((exec_answerWriteDone hawaits).trans (congrArg _ ?_))
  rw [answerStored_eq (s := s.finishAccess a) hstate hslot hstore, overSlot_of_slot hslot]

/-- R130: DATA stored for an arrival record. -/
theorem endsBy_bufferStored (hstate : (s.line n).state = .turn t) (hstation : t.exch.station = some e.address)
    (hentry : s.station? n e.address = some e) (hstore : t.store = some stored) (hawaits : s.Awaits (.bufferWrite n) a)
    (hslot : t.exch.slot = none) (hcache : (s.line n).buf.cache ≠ []) :
    s.EndsBy (s.finishAccess a) n t.exch .bufferWriteDone false .idle s.now .ok id e
      { e.succeeded with lastAck := some stored.seq, rxExpect := stored.seq + 1 } := by
  obtain ⟨desc, rest, hlist⟩ := List.exists_cons_of_ne_nil hcache
  have hpool : (((s.finishAccess a).postArrival n desc t.exch.address stored).line n).pool = (s.line n).pool := by
    rw [State.postArrival, line_onLine, if_pos rfl]
    rfl
  have hbeside : State.LineOnly n (s.finishAccess a) ((s.finishAccess a).postArrival n desc t.exch.address stored) :=
    ⟨.refl _, rfl, fun m hm => ⟨by rw [State.postArrival, line_onLine, if_neg hm], rfl⟩⟩
  have hnoted : State.Noted n e e (s.finishAccess a) ((s.finishAccess a).postArrival n desc t.exch.address stored) :=
    ⟨hbeside, hpool, rfl, hentry, rfl, rfl, rfl⟩
  refine endsBy_of_access hnoted hstation (fun k hk => by rw [hslot] at hk; cases hk) (reportsTo_stored hstation stored.seq)
    ((exec_bufferWriteDone hawaits).trans (congrArg _ ?_))
  rw [bufferStored_eq (s := s.finishAccess a) hstate hlist hstore, overSlot_of_none hslot]

end

end

end Sys2Proof.Machine

/-! The rules that override a result that would continue, and the results that stand (R112 step 3, R167, R168, R177, R180). -/

namespace Sys2Proof.Machine

section
variable {s b : State} {n : LineNo} {t : Turn} {e g : Station} {c : Instr} {st : LineStatus} {keeps : Request → Request}
  {after : LineState} {moment : Nat} {continues : Bool} {k : SlotNo} {r : Request} {d : Nat}

/-! ### The statement's results, as ends of turns -/

/-- R112 step 3: under a rule that overrides it, a result that would continue is final. -/
theorem endsBy_of_wouldContinue (hactive : s.active = true) (hstate : (s.line n).state = .turn t)
    (hstation : t.exch.station = some e.address) (hentry : s.station? n e.address = some e) (hover : s.override n t.exch = some st)
    (h : s.WouldContinue n t e c keeps after moment g) : s.EndsBy s n t.exch c true after moment st keeps e g := by
  rcases h with ⟨rfl, rfl, rfl, control, payload, k, r, hend, hslot, hr, hreply⟩
    | ⟨protocolError, hfails, rfl, hkind, hturns, hserves, rfl, rfl⟩
    | ⟨d, rfl, hphase, hjam, rfl, rfl, rfl, hserves, rfl⟩
  · rcases hreply with ⟨hframe, hstate', hselect⟩ | ⟨hframe, hkind, hanswering, rfl, hpoll⟩
    · have hopen : r.state ≠ .done := by rw [hstate']; decide
      rcases hselect with ⟨hbusy, hempty, hcount, rfl, rfl⟩ | ⟨hreject, hlength, rfl, rfl⟩ | ⟨hquery, haccept, hempty, hseq, rfl, rfl⟩
      · exact endsBy_busy hactive hstate hstation hentry hend hover hframe hslot hr hopen hbusy hempty hcount
      · exact endsBy_reject hactive hstate hstation hentry hend hover hframe hslot hr hopen hreject hlength
      · exact endsBy_acceptQuery hactive hstate hstation hentry hend hover hframe hslot hr hopen hquery haccept hempty hseq
    · rcases hpoll with ⟨hidle, hempty, rfl⟩ | ⟨hreject, hlength, rfl⟩ | ⟨hdata, h1, h240, hdata'⟩
      · exact endsBy_pollIdle hactive hstate hstation hentry hover hend hframe hslot hr hanswering hidle hempty
      · exact endsBy_pollReject hactive hstate hstation hentry hover hend hframe hslot hr hanswering hreject hlength
      · rcases hdata' with ⟨hready, hseq, rfl⟩ | ⟨hready, hne, hne', rfl⟩ | ⟨hready, rfl⟩
        · exact endsBy_pollAgain hactive hstate hstation hentry hover hend hframe hslot hr hanswering hdata h1 h240 hready hseq
        · exact endsBy_pollLost hactive hstate hstation hentry hover hend hframe hslot hr hanswering hdata h1 h240 hready hne hne'
        · exact endsBy_pollMisread hactive hstate hstation hentry hover hend hframe hslot hr hanswering hkind hdata h1 h240 hready
  · refine endsBy_prevented hactive hstate hstation hentry hover hfails hkind hturns
      (hserves.imp_right fun ⟨k, r, hslot, hr, hserved⟩ => ⟨k, r, hslot, hr, hserved.imp_right fun ⟨hframe, hactive⟩ => ⟨?_, hactive⟩⟩)
    rcases hframe with h | h <;> rw [h] <;> decide
  · exact endsBy_jam hactive hstate hstation hentry hover hphase hjam hserves

/-- R112: a final result. -/
theorem endsBy_of_endsFinally (hactive : s.active = true) (hstate : (s.line n).state = .turn t)
    (hstation : t.exch.station = some e.address) (hentry : s.station? n e.address = some e)
    (h : s.EndsFinally n t e c b st keeps moment g) : s.EndsBy b n t.exch c false .idle moment st keeps e g := by
  rcases h with ⟨rfl, rfl, rfl, control, payload, k, r, hend, hempty, hslot, hr, hstate', hreply⟩
    | ⟨protocolError, k, r, hfails, rfl, hkind, hturns, hslot, hr, hserves, rfl, rfl, rfl⟩
    | ⟨a, stored, rfl, rfl, hstore, rfl, rfl, hwrite⟩
  · have hopen : r.state ≠ .done := by rw [hstate']; decide
    rcases hreply with ⟨hframe, hother, haccept, hseq, rfl, rfl, rfl⟩ | ⟨hframe, hbusy, hcount, rfl, rfl, rfl⟩ | ⟨hframe, hready, rfl, rfl, rfl⟩
    · exact endsBy_accept hactive hstate hstation hentry hend hframe hslot hr hopen hother haccept hempty hseq
    · exact endsBy_refused hactive hstate hstation hentry hend hframe hslot hr hopen hbusy hempty hcount
    · exact endsBy_ready hactive hstate hstation hentry hend hframe hslot hr hopen hready hempty
  · refine endsBy_exhausted hactive hstate hstation hentry hfails hkind hturns hslot hr
      (hserves.imp_right fun ⟨hframe, hactive⟩ => ⟨?_, hactive⟩)
    rcases hframe with h | h <;> rw [h] <;> decide
  · rcases hwrite with ⟨rfl, hawaits, ⟨k, r, hslot, hr, hanswering⟩, rfl⟩ | ⟨rfl, hawaits, hslot, hcache, rfl⟩
    · exact endsBy_answerStored hstate hstation hentry hstore hawaits hslot hr hanswering
    · exact endsBy_bufferStored hstate hstation hentry hstore hawaits hslot hcache

/-- What every such end leaves of the line and of the rest. -/
theorem ended_finishTurn {v : State} {x : Exchange} {rep : Report} (hnow : v.now = moment) (hdevice : b.SameDevice v)
    (hothers : State.OthersKept n s v) : ((v.finishTurn n x continues rep none after).line n).state = after
      ∧ ((v.finishTurn n x continues rep none after).line n).sched.retry = none
      ∧ (v.finishTurn n x continues rep none after).now = moment ∧ b.SameDevice (v.finishTurn n x continues rep none after)
      ∧ State.OthersKept n s (v.finishTurn n x continues rep none after) := by
  have hended := turnEnded_finishTurn n v x continues rep none after
  exact ⟨hended.state, retry_finishTurn .., hended.now.trans hnow, hdevice.trans hended.device,
    fun m hm => ⟨(hended.others m hm).1.trans (hothers m hm).1, (hended.others m hm).2.trans (hothers m hm).2⟩⟩

/-! ### A BROADCAST's jam (R108) -/

theorem disabling_of_work {tag : Half} {ended : Bool} {ast : AdminStatus} {made : List SlotNo}
    (h : s.admin.work = .disabling tag n ended ast made) : s.disabling n = true := by
  simp only [State.disabling, h, decide_true]

theorem settleAnswering_of_none {x : Exchange} (h : x.station = none) (ended : Bool) : s.settleAnswering n x ended = s := by
  simp only [State.settleAnswering, h, Option.bind_none]

/-- Resolving what waited lists nothing. -/
theorem mem_broadcast_of_resolveAdmin {x : Exchange} (hstation : x.station = none)
    (h : k ∈ ((s.resolveAdmin n x continues).line n).pool.broadcast) : k ∈ (s.line n).pool.broadcast := by
  unfold State.resolveAdmin at h
  simp only [hstation, reduceCtorEq, and_false, if_false] at h
  split at h
  · exact h
  · split at h
    · rwa [line_completeAdmin] at h
    · exact h
  · split at h
    · rw [line_disableEnded, (unlists_endAll s n .aborted (s.listed n)).broadcast] at h
      exact (List.mem_filter.1 h).1
    · exact h
  · exact h

/-- The request of a BROADCAST's jam made DONE by a rule. -/
structure State.BroadcastJammed (n : LineNo) (x : Exchange) (k : SlotNo) (r : Request) (st : LineStatus) (s v : State) : Prop where
  station : x.station = none
  slot : x.slot = some k
  request : v.request? n k = some (r.ended st)
  kept : ∀ j, j ≠ k → v.request? n j = s.request? n j
  order : (v.line n).pool.doneOrder = (s.line n).pool.doneOrder ++ [k]
  broadcast : (v.line n).pool.broadcast = (s.line n).pool.broadcast.filter fun j => decide (j ≠ k)
  admin : v.admin = s.admin
  control : v.control = s.control

namespace State.BroadcastJammed

variable {x : Exchange} {v : State} {rep : Report}

theorem turnDone_eq (h : State.BroadcastJammed n x k r st s v) (rep : Report) (after : LineState) :
    v.turnDone n x rep after = (v.abortBehind n x).onLine n fun l => l.turnOver none after := by
  rw [State.turnDone, applyReport_of_none h.station, settleAnswering_of_none h.station]

theorem outcome_turnDone (h : State.BroadcastJammed n x k r st s v) (rep : Report) (after : LineState) :
    (v.turnDone n x rep after).outcome? n k = some st :=
  outcome?_of_request ((grows_turnDone v n x rep after).done _ _ h.request rfl)

theorem not_listed (h : State.BroadcastJammed n x k r st s v) (continues : Bool) (rep : Report) (after : LineState) :
    k ∉ ((v.finishTurn n x continues rep none after).line n).pool.broadcast := by
  intro hk
  rw [pool_finishTurn] at hk
  have hmem := mem_broadcast_of_resolveAdmin h.station hk
  rw [h.turnDone_eq, line_onLine, if_pos rfl] at hmem
  have hgone : k ∉ (v.line n).pool.broadcast := by rw [h.broadcast]; simp
  unfold State.abortBehind at hmem
  rw [h.station] at hmem
  dsimp only at hmem
  split at hmem
  · change k ∈ ((v.endAll n .aborted (v.line n).pool.broadcast).line n).pool.broadcast at hmem
    rw [(unlists_endAll v n .aborted _).broadcast] at hmem
    exact hgone (List.mem_filter.1 hmem).1
  · exact hgone hmem

/-- R167: the broadcast list behind it. -/
theorem aborted_behind (h : State.BroadcastJammed n x k r st s v) (hstopping : s.control.device = .stopping) {j : SlotNo}
    {q : Request} (hj : j ∈ (s.line n).pool.broadcast) (hother : j ≠ k) (hq : s.request? n j = some q) (hwaiting : q.state = .waiting)
    (continues : Bool) (rep : Report) (after : LineState) :
    (v.finishTurn n x continues rep none after).request? n j = some (q.ended .aborted) := by
  have hstop : v.stopping = true := by rw [State.stopping, h.control, hstopping]; rfl
  have hbehind : v.abortBehind n x = v.endAll n .aborted (v.line n).pool.broadcast := by
    simp only [State.abortBehind, hstop, if_true, h.station]
  have hpends : q.pends = true := by rw [Request.pends, hwaiting]; rfl
  refine (grows_finishTurn_abortBehind v n x continues rep after).done _ _ ?_ rfl
  rw [hbehind, request?_endAll, h.broadcast, if_pos (List.mem_filter.2 ⟨hj, decide_eq_true hother⟩), h.kept j hother, hq,
    Option.map_some, if_pos hpends]

theorem admin_none (h : State.BroadcastJammed n x k r st s v) (hwork : s.admin.work = .none) (continues : Bool) (rep : Report)
    (after : LineState) : (v.finishTurn n x continues rep none after).admin = s.admin := by
  have hdone := (admin_turnDone v n x rep after).trans h.admin
  rw [admin_finishTurn, State.resolved, resolveAdmin_of_none (by rw [hdone]; exact hwork)]
  exact hdone

/-- R177. -/
theorem admin_cancelling (h : State.BroadcastJammed n x k r st s v) {tag : Half} (hwork : s.admin.work = .cancelling tag n k)
    (continues : Bool) (rep : Report) (after : LineState) :
    (v.finishTurn n x continues rep none after).admin = { s.admin with
      work := .completing (adminCompletionOf tag (if st = .cancelled then .ok else .tooLate) 0 0) } := by
  have hdone := (admin_turnDone v n x rep after).trans h.admin
  have hresolved := resolveAdmin_of_cancelling (s := v.turnDone n x rep after) (by rw [hdone]; exact hwork) h.slot continues
  rw [h.outcome_turnDone] at hresolved
  simp only [Option.some.injEq] at hresolved
  rw [admin_finishTurn, State.resolved, hresolved, admin_completeAdmin, hdone]

/-- R180. -/
theorem admin_disabling (h : State.BroadcastJammed n x k r .aborted s v) {tag : Half} {ast : AdminStatus} {made : List SlotNo}
    (hwork : s.admin.work = .disabling tag n false ast made) (continues : Bool) (rep : Report) (after : LineState) :
    ∃ made', (v.finishTurn n x continues rep none after).admin = { s.admin with
        work := .disabling tag n true (if decide (s.control.device = .stopping) && continues then .aborted else ast) made' }
      ∧ made ++ [k] <+: made' := by
  have hdone := (admin_turnDone v n x rep after).trans h.admin
  have hstopping : (v.turnDone n x rep after).stopping = decide (s.control.device = .stopping) := by
    rw [State.stopping, control_turnDone, h.control]
  have hresolved := resolveAdmin_of_disabling (s := v.turnDone n x rep after) (x := x) (by rw [hdone]; exact hwork) continues
  have hslots : x.slot.toList.filter (fun k => decide ((v.turnDone n x rep after).outcome? n k = some .aborted)) = [k] := by
    rw [h.slot, Option.toList_some]
    refine List.filter_eq_self.2 fun j hj => decide_eq_true ?_
    rw [List.mem_singleton.1 hj]
    exact h.outcome_turnDone rep after
  rw [hstopping, hslots] at hresolved
  rw [admin_finishTurn, State.resolved, hresolved, admin_disableEnded, hdone]
  exact ⟨_, rfl, List.prefix_append _ _⟩

end State.BroadcastJammed

/-- R108: the jam of a BROADCAST whose request a rule overrides. -/
theorem exec_broadcastJam (hactive : s.active = true) (hstate : (s.line n).state = .turn t) (hframe : t.exch.frame = .broadcast)
    (hstation : t.exch.station = none) (hslot : t.exch.slot = some k) (hr : s.request? n k = some r) (hopen : r.state = .active)
    (hphase : t.phase = .guard) (hend : t.jamEnd = some d) (hover : s.override n t.exch = some st) :
    ∃ v, exec (.jamTimerExpiry n) s = .next (v.finishTurn n t.exch true .silent none .jammed) ∧ v.now = max s.now d
      ∧ s.SameDevice v ∧ State.OthersKept n s v ∧ State.BroadcastJammed n t.exch k r st s v := by
  have hkept : t.exch.jammed r = r := by
    rw [Exchange.jammed, if_pos hopen, Exchange.mark, hframe]
    simp
  have hreach : (s.reach d).request? n k = some r := hr
  have hnotDone : r.state ≠ .done := by rw [hopen]; decide
  have hbeside := ((onlyRequests_makeDone n (s.reach d) k st t.exch.jammed).settling.trans
    (settling_offer n _ (jamRecord n t.exch))).lineOnly
  refine ⟨((s.reach d).makeDone n k st t.exch.jammed).offer (jamRecord n t.exch),
    (exec_jamTimerExpiry hactive hstate hphase hend).trans (congrArg _ ?_), hbeside.now, hbeside.device, hbeside.others,
    hstation, hslot, ?request, fun j hj => ?kept, ?order, ?broadcast, ?admin, ?control⟩
  · rw [jamTurn_eq, returned_of_over (s := s.reach d) hover (.inr ⟨k, r, hslot, hr, .inl hopen⟩), overSlot_of_slot hslot]
  case request =>
    rw [request?_offer, request?_makeDone_self hreach hnotDone, hkept]
    rfl
  case kept => rw [request?_offer, request?_makeDone, if_neg fun h => hj h.2]; rfl
  case order => rw [line_offer, doneOrder_makeDone hreach hnotDone]; rfl
  case broadcast => rw [line_offer, broadcast_makeDone hreach hnotDone]; rfl
  case admin => rw [admin_offer, (onlyRequests_makeDone n (s.reach d) k st t.exch.jammed).admin]; rfl
  case control => rw [control_offer, (onlyRequests_makeDone n (s.reach d) k st t.exch.jammed).control]; rfl

end

end Sys2Proof.Machine

/-! The overriding rules, settled (R76, R77, R108, R112 step 3, R121, R167, R168, R177, R180). -/

namespace Sys2Proof.Machine

section
variable {s : State} {n : LineNo} {t : Turn} {e g : Station} {c : Instr} {keeps : Request → Request} {after : LineState}
  {moment : Nat}

/-- The admin request that waited is none or the CANCEL of this turn: the entry. -/
theorem State.Decided.entry_finish {x : Exchange} {rep : Report} {st : LineStatus} {v : State}
    (h : State.Decided n x rep st keeps e g s v) (continues : Bool) (after : LineState)
    (hwork : s.admin.work = .none ∨ ∃ tag k, s.admin.work = .cancelling tag n k ∧ x.slot = some k) :
    (e.detachPending = false → ∃ p, (v.finishTurn n x continues rep none after).station? n e.address = some { g with pending := p })
    ∧ (e.detachPending = true → ∃ p, (v.finishTurn n x continues rep none after).station? n e.address
      = some { e with pending := p }) := by
  have hentry : ∃ p, (v.finishTurn n x continues rep none after).station? n e.address = some { e.gains g with pending := p } := by
    rcases hwork with hnone | ⟨tag, k, hcancelling, hslot⟩
    · exact (h.finish_none hnone continues after).2
    · exact (h.finish_cancelling hslot hcancelling continues after).2
  refine ⟨fun hattached => ?_, fun hdetach => ?_⟩
  · rwa [gains_of_attached hattached] at hentry
  · rwa [gains_of_detachPending hdetach] at hentry

/-- A final result is no CANCELLED. -/
theorem st_of_endsFinally {b : State} {st : LineStatus} (h : s.EndsFinally n t e c b st keeps moment g) : st ≠ .cancelled := by
  rcases h with ⟨-, -, -, control, payload, k, r, -, -, -, -, -, hreply⟩ | ⟨-, -, -, -, -, -, -, -, -, -, rfl, -⟩
    | ⟨-, -, -, -, -, rfl, -⟩
  · rcases hreply with ⟨-, -, -, -, rfl, -⟩ | ⟨-, -, -, rfl, -⟩ | ⟨-, -, rfl, -⟩ <;> decide
  · decide
  · decide

end

/-- Settles O51 (R53, R69, R76, R77, R108, R112 to R118, R121, R130, R132, R167, R168, R177, R180). -/
theorem overridingRulesPrevail : Obligations.OverridingRulesPrevail := by
  unfold Obligations.OverridingRulesPrevail
  refine ⟨fun s n t e g c keeps after moment resynced hstate hstation _ hentry hcontinues hresynced => ?continuing,
    fun s n t k r d hstate hframe hstation hslot hr hopen hphase hend st hrule => ?broadcast,
    fun s b n t e g c st keeps moment hstate hstation _ hentry hactive hends => ?final⟩
  case continuing =>
    refine ⟨fun hstopping => ?stopped, fun tag k r hrunning hslot hr hmark hwork => ?cancelled,
      fun tag hrunning hclear hdetach hwork => ?detached, fun tag st made hrunning hclear hattached hwork => ?disabled⟩
    case stopped =>
      obtain ⟨v, rep, hexec, hnow, hdevice, hothers, h⟩ := endsBy_of_wouldContinue ((active_iff s).2 (.inr hstopping)) hstate
        hstation hentry (override_of_stopping hstopping) hcontinues
      obtain ⟨hafter, hretry, hnow', hdevice', hothers'⟩ := ended_finishTurn (continues := true) (rep := rep) (x := t.exch)
        (after := after) hnow hdevice hothers
      refine ⟨_, hexec, hafter, hretry, hnow', hdevice', hothers', fun k r hslot hr => h.request_finish hslot hr true after,
        fun j hj hother q hq hwaits => h.aborted_behind hstopping hj hother hq hwaits true after,
        fun hnodup => h.order_behind hstopping hnodup true after,
        fun hnone => ⟨(h.finish_none hnone true after).1, h.entry_finish true after (.inl hnone)⟩,
        fun tag k hslot hwork => (h.finish_cancelling hslot hwork true after).1, fun tag hwork => ?detaching,
        fun tag st made hwork => ?disabling⟩
      case detaching =>
        have hfreed := h.finish_detaching hwork true after
        rw [hstopping] at hfreed
        exact hfreed
      case disabling =>
        obtain ⟨⟨made', hadmin, -, hmade⟩, -⟩ := h.finish_disabling hwork true after
        rw [hstopping] at hadmin
        exact ⟨made', hadmin, hmade rfl⟩
    case cancelled =>
      have hover := override_of_marked (n := n) (x := t.exch) hrunning ((marked_of_request hslot hr).trans hmark)
      obtain ⟨v, rep, hexec, hnow, hdevice, hothers, h⟩ := endsBy_of_wouldContinue ((active_iff s).2 (.inl hrunning)) hstate
        hstation hentry hover hcontinues
      obtain ⟨hafter, hretry, hnow', hdevice', hothers'⟩ := ended_finishTurn (continues := true) (rep := rep) (x := t.exch)
        (after := after) hnow hdevice hothers
      have horder := h.order_finish true after
      rw [hslot] at horder
      exact ⟨_, hexec, hafter, hretry, hnow', h.request_finish hslot hr true after, horder,
        (h.finish_cancelling hslot hwork true after).1, (h.entry_finish true after (.inr ⟨tag, k, hwork, hslot⟩)).1, hdevice',
        hothers'⟩
    case detached =>
      have hover := override_of_detaches hrunning (marked_eq_false hclear) ((detaches_of_entry hstation hentry).trans hdetach)
      obtain ⟨v, rep, hexec, hnow, hdevice, hothers, h⟩ := endsBy_of_wouldContinue ((active_iff s).2 (.inl hrunning)) hstate
        hstation hentry hover hcontinues
      obtain ⟨hafter, hretry, hnow', hdevice', hothers'⟩ := ended_finishTurn (continues := true) (rep := rep) (x := t.exch)
        (after := after) hnow hdevice hothers
      obtain ⟨hslots, horder⟩ := h.finish_detached hrunning hdetach hwork true after
      have hfreed := h.finish_detaching hwork true after
      rw [hrunning] at hfreed
      refine ⟨_, hexec, hafter, hretry, hnow', fun k r hslot hr => h.request_finish hslot hr true after, hslots,
        fun hnodup => (horder hnodup).trans (congrArg _ ?_), hfreed.1, hfreed.2, hdevice', hothers'⟩
      refine List.filter_congr fun j _ => ?_
      cases s.request? n j <;> rfl
    case disabled =>
      have hover := override_of_disabling hrunning (marked_eq_false hclear) ((detaches_of_entry hstation hentry).trans hattached)
        (disabling_of_work hwork)
      obtain ⟨v, rep, hexec, hnow, hdevice, hothers, h⟩ := endsBy_of_wouldContinue ((active_iff s).2 (.inl hrunning)) hstate
        hstation hentry hover hcontinues
      obtain ⟨hafter, hretry, hnow', hdevice', hothers'⟩ := ended_finishTurn (continues := true) (rep := rep) (x := t.exch)
        (after := after) hnow hdevice hothers
      obtain ⟨⟨made', hadmin, -, hmade⟩, hresync⟩ := h.finish_disabling hwork true after
      rw [hrunning] at hadmin
      rw [gains_of_attached hattached] at hresync
      rw [hresynced]
      exact ⟨_, hexec, hafter, hretry, hnow', fun k r hslot hr => h.request_finish hslot hr true after, h.order_finish true after,
        ⟨made', hadmin, hmade rfl⟩, hresync, hdevice', hothers'⟩
  case broadcast =>
    have hnoEntry : s.detaches n t.exch = false := by rw [State.detaches, State.entryOf, hstation]; rfl
    have hmarked := marked_of_request (n := n) hslot hr
    have hdecided : s.active = true ∧ s.override n t.exch = some st := by
      rcases hrule with ⟨hstopping, rfl⟩ | ⟨hrunning, hmark, rfl⟩ | ⟨hrunning, hclear, hdisabling, rfl⟩
      · exact ⟨(active_iff s).2 (.inr hstopping), override_of_stopping hstopping⟩
      · exact ⟨(active_iff s).2 (.inl hrunning), override_of_marked hrunning (hmarked.trans hmark)⟩
      · exact ⟨(active_iff s).2 (.inl hrunning), override_of_disabling hrunning (hmarked.trans hclear) hnoEntry hdisabling⟩
    obtain ⟨v, hexec, hnow, hdevice, hothers, h⟩ := exec_broadcastJam hdecided.1 hstate hframe hstation hslot hr hopen hphase hend
      hdecided.2
    obtain ⟨hafter, -, hnow', hdevice', hothers'⟩ := ended_finishTurn (continues := true) (rep := .silent) (x := t.exch)
      (after := .jammed) hnow hdevice hothers
    have hgrows := grows_finishTurn v n t.exch true .silent .jammed
    refine ⟨_, hexec, hafter, hnow', hgrows.done _ _ h.request rfl, hdevice', hothers', h.order ▸ hgrows.order,
      h.not_listed true .silent .jammed,
      fun hstopping j hj hother q hq hwaiting => h.aborted_behind hstopping hj hother hq hwaiting true .silent .jammed,
      fun hnone => h.admin_none hnone true .silent .jammed, fun tag hwork => ?cancelling, fun tag stay made hwork hst => ?disabling⟩
    case cancelling =>
      have hadmin := h.admin_cancelling hwork true .silent .jammed
      rcases hrule with ⟨hstopping, rfl⟩ | ⟨hrunning, -, rfl⟩ | ⟨-, -, hdisabling, -⟩
      · rw [hstopping]; exact hadmin
      · rw [hrunning]; exact hadmin
      · rw [State.disabling, hwork] at hdisabling; cases hdisabling
    case disabling =>
      subst hst
      have hgoesOn := h.admin_disabling hwork true .silent .jammed
      simpa only [Bool.and_true, decide_eq_true_eq] using hgoesOn
  case final =>
    obtain ⟨v, rep, hexec, hnow, hdevice, hothers, h⟩ := endsBy_of_endsFinally hactive hstate hstation hentry hends
    obtain ⟨hidle, hretry, hnow', hdevice', hothers'⟩ := ended_finishTurn (continues := false) (rep := rep) (x := t.exch)
      (after := .idle) hnow hdevice hothers
    refine ⟨_, hexec, hidle, hretry, hnow', hdevice', hothers', fun k r hslot hr => h.request_finish hslot hr false .idle,
      h.order_finish false .idle,
      fun hstopping j hj hother q hq hwaits => h.aborted_behind hstopping hj hother hq hwaits false .idle,
      h.entry_finish false .idle, fun hnone => (h.finish_none hnone false .idle).1, fun tag k hslot hwork => ?cancelling,
      fun tag hwork => ?detaching, fun tag stay made hwork => ?disabling⟩
    case cancelling =>
      have hnotCancelled : st ≠ .cancelled := st_of_endsFinally hends
      have hadmin := (h.finish_cancelling hslot hwork false .idle).1
      rwa [if_neg hnotCancelled] at hadmin
    case detaching =>
      have hfreed := h.finish_detaching hwork false .idle
      rwa [Bool.and_false] at hfreed
    case disabling =>
      obtain ⟨⟨made', hadmin, hmade, -⟩, -⟩ := h.finish_disabling hwork false .idle
      rw [Bool.and_false] at hadmin
      exact ⟨made', hadmin, hmade⟩

end Sys2Proof.Machine
